-- ==== Sys2Proof/Word.lean ====
section
/-! DEFINITION. The word types of the ZN-816 (R5, R31) and the one finite-map type that sparse state is held in. -/

namespace Sys2Proof

/-- One byte of any byte-addressed store. -/
abbrev Byte := BitVec 8

/-- One control register (R31: registers are 32 bits wide). -/
abbrev Word := BitVec 32

/-- Sparse data by number: the keys rise strictly, an absent key is an absent entry. (DESIGN CHOICE, assumption 113.) -/
abbrev Map (α : Type) := List (Nat × α)

/-- Byte-addressed storage: `(address, byte)` pairs, addresses strictly rising, no entry equal to what an
unlisted address reads as. -/
abbrev Mem := List (Nat × Byte)

end Sys2Proof
end

