-- ==== Sys2Proof/Syntax.lean ====
section
/-! DEFINITION. The commands of the ZN-816: one constructor per row of spec/opcode_table.json, with the row's operands. -/

namespace Sys2Proof

/-- How far an engine's built-in check came (R205): its CONV or its BOX_DECODE job did not end OK, or the CONV job left these bytes as
its output, on which BOX_DECODE ran. -/
inductive EngineCheck where
  | convBad
  | boxBad
  | output (bytes : List Byte)
  deriving DecidableEq, Repr

/-- An error that a core finds in its local memory or registers (R236). -/
inductive CoreError where
  | corrected
  | uncorrectable
  | parity
  deriving DecidableEq, Repr

/-- What the boot sequence meets outside the die (R472–R481): facts of the board, the flash device and the silicon that
a start finds. -/
structure BootFacts where
  /-- Each helper-data copy rebuilds its check value (R473). -/
  rebuildA : Bool
  rebuildB : Bool
  /-- Every PG input is high and VDD_CORE is above 0.60 V, and the timestamp at which the last of them came up (R498, R499). -/
  suppliesUp : Bool
  upAt : BitVec 48
  /-- The flash answers the probe; its SFDP and reads succeed (R470, R491). -/
  flashAnswers : Bool
  flashReads : Bool
  /-- The SRAM of the trouble log kept its contents (R518). -/
  logKept : Bool
  /-- LPDDR6 channels that train (R398). -/
  trained : BitVec 8
  /-- How far the built-in check of an engine came; an engine that is not listed passes (R205). -/
  engineChecks : List (Fin 16 × EngineCheck)
  /-- Physical cores, squad and slot, that fail the core check (R241). -/
  coreFails : List (Fin 256 × Fin 17)
  /-- The time from the reset's release to step 10, in 10 ns steps (R477 bounds it). -/
  steps : BitVec 32
  deriving DecidableEq, Repr

/-- What the scout measured of its tagged instruction in cycles (R539): whether and how long it stalled before issue, the cycles from
the Whistle to its issue and from there to its completion. -/
structure ScoutFacts where
  operandStall : Bool
  cycle : BitVec 32
  stall : BitVec 16
  latency : BitVec 16
  deriving DecidableEq, Repr

/-- What the training of the view link came to (R341): for each rate, RBR first, four bits that say after how many iterations clock
recovery, and equalisation, succeeded, 0 where it did not. -/
structure Training where
  recovery : BitVec 16
  equalisation : BitVec 16
  deriving DecidableEq, Repr

/-- One requester at a Draw arbiter (R382, R383): its input, the context tag at its head, whether this beat is the last of its burst,
the device address of the beat (R531), and whether the read of it, if granted, finds an error that the code corrects (R404). -/
structure DrawRequest where
  input : BitVec 7
  tag : BitVec 6
  last : Bool
  addr : BitVec 40
  corrected : Bool
  deriving DecidableEq, Repr

/-- What command bus training samples (R419): the pattern on CA, and the DQ7 input. -/
structure CbtSample where
  ca : BitVec 7
  dq7 : Bool
  deriving DecidableEq, Repr

/-- The operations of the ALU and ALUI classes, in the order of their FN codes 0x00–0x13 (R552). -/
inductive AluOp where
  | add | sub | and | or | xor | sll | srl | sra | mul | mulh | mulhu | slt | sltu | seq | min | max | minu | maxu | adds
  | subs
  deriving DecidableEq, Repr

/-- What the error-correcting code of a packet header found (R89). -/
inductive HeaderCheck where
  | good | corrected | bad
  deriving DecidableEq, Repr

/-- The fields that every received Lysba frame carries (R437): the link it came on, SEQ, ACKSEQ, DST, SRC, CTX and HOPS. -/
structure FrameHead where
  link : Fin 2
  seqNo : BitVec 16
  ackNo : BitVec 16
  dst : BitVec 3
  src : BitVec 3
  ctx : Byte
  hops : Byte
  deriving DecidableEq, Repr

/-- The commands. Each constructor is one row of the table; its rule is named in its docstring. The rows stand in
the table's order, those without operands last: compiled code holds no constructor with operands at a place above 244.
(DESIGN CHOICE, assumptions 103, 104.) -/
inductive Instr where
  /-- REGISTER_WRITE (R38): A host write to a register without its own row is taken under its access code: WC to the shadow of a window, W1C cleared at once, RW at once; partial masks are discarded. -/
  | registerWrite (addr : BitVec 24) (value : Word) (mask : BitVec 4)
  /-- COMMAND_PAGE_WRITE (R40): A host write to a shadow command page is stored, or is discarded and counted LOCKED while the page is frozen. -/
  | commandPageWrite (page : Fin 64) (offset : BitVec 16) (data : List (Byte × Bool))
  /-- SUBMIT_PAGE (R39): A bit of WHS_SUBMIT submits command page p to the next commit. -/
  | submitPage (page : Fin 64)
  /-- CLR (R536): PMC_CNTn_CFG0.CLR sets counter n to 0 from the first ACLK cycle after the Whistle. -/
  | clrCounter (n : Fin 64)
  /-- EHOLD_HOLD (R330): An FRS_EHOLD write of MODE 1 with the key cancels pending direct-pin transitions and sends FREEZE on the chains within 500 ns. -/
  | eholdHold (key : BitVec 16)
  /-- EHOLD_SAFE (R330): An FRS_EHOLD write of MODE 2 with the key sends every direct pin OFF and sends SAFE on the chains within 500 ns. -/
  | eholdSafe (key : BitVec 16)
  /-- EHOLD_RELEASE (R330): An FRS_EHOLD write of MODE 0 with the key releases the hold at the next Whistle, whose line is a hold line. -/
  | eholdRelease (key : BitVec 16)
  /-- PAUSE (R379): SCH_CTX_CTRL.PAUSE pre-empts the context's running job at the Whistle and starts no entry until PAUSE returns to 0. -/
  | pause (ctx : Fin 32)
  /-- LOG_READ_WRITE (R545): A write to LOG_READ takes force at once, clamped to the range of held entries. -/
  | logReadWrite (value : Word)
  /-- PMC_CNT_LO_READ (R534): A read of PMC_CNTn_LO samples the counter and latches bits [47:32] into PMC_CNTn_HI. -/
  | pmcCntLoRead (n : Fin 64)
  /-- PLAN_LOAD (R81): The command starts copying the staged plan into PENDING and verifying it, and ends any earlier verification as ABANDONED. -/
  | planLoad (page : Fin 64) (entry : Fin 55) (offset : Word) (size : Word)
  /-- PLAN_SWITCH (R83): The command makes the verified PENDING plan active at the commit's Whistle: contexts re-form, huddles re-form and lines are held. -/
  | planSwitch (page : Fin 64) (entry : Fin 55) (hash8 : BitVec 64)
  /-- PLAN_DISCARD (R80): The command empties PENDING and ends a verification in progress as ABANDONED. -/
  | planDiscard (page : Fin 64) (entry : Fin 55)
  /-- CTX_JOIN (R372): The command makes a context resident at the Whistle with a share from the pool, or refuses it with NO_SHARE. -/
  | ctxJoin (page : Fin 64) (entry : Fin 55) (record : BitVec 256)
  /-- CTX_LEAVE (R373): The command releases the context's running job, discards its entries and returns its banks to the pool at the Whistle. -/
  | ctxLeave (page : Fin 64) (entry : Fin 55) (id : BitVec 8)
  /-- COPY_IN (R401): The command queues a copy from the staging aperture to a device address. -/
  | copyIn (page : Fin 64) (entry : Fin 55) (offset : Word) (size : Word) (addr : BitVec 64)
  /-- COPY_OUT (R401): The command queues a copy from a device address to the staging aperture. -/
  | copyOut (page : Fin 64) (entry : Fin 55) (offset : Word) (size : Word) (addr : BitVec 64)
  /-- NOP_COMMAND (R425): Page command 0x0E01 completes OK at the commit. -/
  | nopCommand (page : Fin 64) (entry : Fin 55)
  /-- KEY_ENROL (R484): The command queues the check of an owner-key enrolment record and the writing of the key store. -/
  | keyEnrol (page : Fin 64) (entry : Fin 55) (offset : Word) (size : Word)
  /-- FLASH_UPDATE (R490): The command queues verification of a staged image or plan, then erasing, programming and reading back a flash slot. -/
  | flashUpdate (page : Fin 64) (entry : Fin 55) (target : Byte) (offset : Word) (size : Word)
  /-- ATTEST (R488): The command writes a signed 480-byte attestation report into the aperture. -/
  | attest (page : Fin 64) (entry : Fin 55) (nonce : BitVec 256) (offset : Word)
  /-- MEASURE_EXTEND (R487): The command extends MEAS3 with a host digest. -/
  | measureExtend (page : Fin 64) (entry : Fin 55) (digest : BitVec 384)
  /-- BOOT_CLEAR (R490): The command records FAILED 0 and REASON NONE so that the next start leaves bench mode. -/
  | bootClear (page : Fin 64) (entry : Fin 55)
  /-- SEC_COMMAND_END (R490): A queued SEC command ends; its completion entry and SEC_LAST are written and the next SEC command runs. -/
  | secCommandEnd (flashOk : Bool)
  /-- WARM_RESET (R502): The command with the key schedules a warm reset 1.0 ms after the Whistle of its commit. -/
  | warmReset (page : Fin 64) (entry : Fin 55) (key : Word)
  /-- ACT (R410): The host activates a bank row; an aperture row starts a fill of its row buffer from Court. -/
  | act (bank : Fin 16) (row : BitVec 17)
  /-- APERTURE_FILL_DONE (R411): The 32-beat fill of an aperture row buffer completes within 115 ns of the ACT. -/
  | apertureFillDone (bank : Fin 16)
  /-- READ (R410): A host read burst returns control storage, row-buffer data or all-ones at the programmed read latency. -/
  | read (bank : Fin 16) (col : Fin 64) (bl32 : Bool)
  /-- WR (R416): A host write burst is accepted at its last beat and forwarded to its destination within 20 ns. -/
  | wr (bank : Fin 16) (col : Fin 64) (bl32 : Bool) (data : List (Byte × Bool))
  /-- MWR (R414): A masked host write is accepted with its data mask on DMI and forwarded byte-masked. -/
  | mwr (bank : Fin 16) (col : Fin 64) (bl32 : Bool) (data : List (Byte × Bool))
  /-- PRE (R413): A precharge closes a bank and releases its row buffer. -/
  | pre (bank : Fin 16) (all : Bool)
  /-- MRR (R418): A mode-register read returns the value of R418. -/
  | mrr (n : Byte)
  /-- MRW (R418): A mode-register write updates port settings, an FSP switch, or starts or ends CBT. -/
  | mrw (n : Byte) (op : Byte)
  /-- WFF (R419): The write training FIFO stores a BL16 burst in rotation. -/
  | wff (data : BitVec 256)
  /-- FRAME_START (R91): A CSI-2 frame-start packet matches a frame to a stream and starts its capture and its playbook run. -/
  | frameStart (port : Fin 16) (at_ : BitVec 64) (vc : Fin 16) (dt : BitVec 6) (num : BitVec 16) (header : HeaderCheck)
  /-- LONG_PACKET (R90): A pixel line packet is checked and stored into the capture slot at the line stride. -/
  | longPacket (port : Fin 16) (at_ : BitVec 64) (vc : Fin 16) (dt : BitVec 6) (header : HeaderCheck) (crcOk : Bool) (overflow : Bool) (data : List Byte)
  /-- FRAME_END (R17): A CSI-2 frame-end packet assigns the frame to a tick and completes its capture. -/
  | frameEnd (port : Fin 16) (at_ : BitVec 64) (vc : Fin 16) (header : HeaderCheck)
  /-- TRUNCATED (R92): A frame with no packet for 8 ticks is marked TRUNCATED. -/
  | truncated (port : Fin 16)
  /-- NO_SIGNAL (R92): An enabled port with no frame end for 240 ticks sets NO_SIGNAL. -/
  | noSignal (port : Fin 16)
  /-- FSYNC_PULSE (R98): FSYNC of a port rises PHASE_NS after a matching Whistle and begins the next schedule slot. -/
  | fsyncPulse (port : Fin 16)
  /-- FSYNC_FALL (R100): At the falling FSYNC edge, the write list for the next slot is placed in the master's queue. -/
  | fsyncFall (port : Fin 16)
  /-- BUS_TRANSACTION_END (R103): An I3C/I2C write transaction ends; a NACK ends the list, otherwise the next entry starts. -/
  | busTransactionEnd (master : Fin 3) (nack : Bool)
  /-- BUS_WAIT_END (R101): A WAIT entry's idle time expires and the list continues. -/
  | busWaitEnd (master : Fin 3)
  /-- STRETCH (R103): An I2C target stretching SCL beyond 1 ms has its transaction abandoned, as for a NACK. -/
  | stretch (master : Fin 3)
  /-- ENCODER_EDGE (R107): A filtered quadrature input change updates the encoder count, or counts ENC_ERR. -/
  | encoderEdge (enc : Fin 2) (a : Bool) (b : Bool) (at_ : BitVec 64)
  /-- PPS_EDGE (R108): An active PPS edge is timestamped and the period is recorded. -/
  | ppsEdge (at_ : BitVec 64)
  /-- IMU_DRDY (R109): A rising IMU_DRDY edge starts an SPI read, or counts DRDY_MISSED during a read. -/
  | imuDrdy (at_ : BitVec 64)
  /-- IMU_READ_DONE (R109): An IMU SPI read completes and its sample becomes the latest. -/
  | imuReadDone (data : BitVec 96)
  /-- PYR (R118): The instruction builds the image pyramid up to LEVEL. -/
  | pyr (seq : Fin 16)
  /-- CORNER (R119): The instruction runs the segment test and cell selection into a corner set. -/
  | corner (seq : Fin 16)
  /-- DESC (R122): The instruction computes 256-bit descriptors for a corner set. -/
  | desc (seq : Fin 16)
  /-- MATCH (R123): The instruction matches query descriptors against train descriptors. -/
  | matchRow (seq : Fin 16)
  /-- FLOW (R125): The instruction tracks PREV features into CUR by pyramidal flow. -/
  | flow (seq : Fin 16)
  /-- DVIS (R128): The instruction computes d_vis and its confidence from flow records. -/
  | dvis (seq : Fin 16)
  /-- STEREO (R129): The instruction computes a semi-global disparity map of a stereo pair. -/
  | stereo (seq : Fin 16)
  /-- CONF (R134): The instruction sets the confidence of each tile. -/
  | conf (seq : Fin 16)
  /-- PLAYBOOK_END (R148): END closes a playbook entry. -/
  | playbookEnd (seq : Fin 16)
  /-- VISION_INSTRUCTION_END (R151): An engine finishes a Vision instruction, releasing its unit and completing inputs of later instructions. -/
  | visionInstructionEnd (seq : Fin 16) (refine : Bool) (insn : Byte)
  /-- JOB_LIST_ENTRY (R78): A huddle takes the next job-list entry and starts its descriptor, or passes over a bad or poisoned entry. -/
  | jobListEntry (huddle : Byte)
  /-- CONV (R183): A Matrix Engine convolution job is checked and run tile by tile. -/
  | conv (huddle : Byte)
  /-- POOL_MAX (R197): A Matrix Engine max-pooling job is checked and run. -/
  | poolMax (huddle : Byte)
  /-- POOL_AVG (R197): A Matrix Engine average-pooling job is checked and run. -/
  | poolAvg (huddle : Byte)
  /-- BOX_DECODE (R198): A box-decode job runs in the built-in checks, and ends FORMAT in any plan. -/
  | boxDecode (huddle : Byte)
  /-- TILE_COMPLETE (R185): An engine completes an output tile, with its epilogue, Range Guard step, statistics and headers. -/
  | tileComplete (engine : Fin 16)
  /-- SLIVER_JOB (R216): A sliver job descriptor is checked and the job starts on every active core of the leaf. -/
  | sliverJob (huddle : Byte)
  /-- JOB_END (R374): A job ends and its huddle takes its next work at this decision point. -/
  | jobEnd (huddle : Byte)
  /-- SHOT_CLOCK (R56): A job's budget B is reached; the job stops and its outputs are not marked complete. -/
  | shotClock (huddle : Byte) (stuck : List (BitVec 12))
  /-- END (R552): The instruction ends the core's part of the job. -/
  | endCore (lcn : BitVec 12)
  /-- NOP (R552): The instruction does nothing. -/
  | nop (lcn : BitVec 12)
  /-- FENCE (R552): The instruction waits until every DMA and SEND of the core is complete. -/
  | fence (lcn : BitVec 12)
  /-- GSHIFT (R233): The instruction returns the Range Guard output shift of a tile once the previous tile is final. -/
  | gshift (lcn : BitVec 12) (d : BitVec 5) (a : BitVec 5) (b : BitVec 5)
  /-- STST (R552): The instruction writes a tile's statistics record and clears the tile counters. -/
  | stst (lcn : BitVec 12) (a : BitVec 5)
  /-- ADD (R552): The instruction adds two scalar registers, wrapping. -/
  | add (lcn : BitVec 12) (d : BitVec 5) (a : BitVec 5) (b : BitVec 5)
  /-- SUB (R552): The instruction subtracts two scalar registers, wrapping. -/
  | sub (lcn : BitVec 12) (d : BitVec 5) (a : BitVec 5) (b : BitVec 5)
  /-- AND (R552): The instruction ANDs two scalar registers. -/
  | and (lcn : BitVec 12) (d : BitVec 5) (a : BitVec 5) (b : BitVec 5)
  /-- OR (R552): The instruction ORs two scalar registers. -/
  | or (lcn : BitVec 12) (d : BitVec 5) (a : BitVec 5) (b : BitVec 5)
  /-- XOR (R552): The instruction XORs two scalar registers. -/
  | xor (lcn : BitVec 12) (d : BitVec 5) (a : BitVec 5) (b : BitVec 5)
  /-- SLL (R552): The instruction shifts left logical by sB[4:0]. -/
  | sll (lcn : BitVec 12) (d : BitVec 5) (a : BitVec 5) (b : BitVec 5)
  /-- SRL (R552): The instruction shifts right logical by sB[4:0]. -/
  | srl (lcn : BitVec 12) (d : BitVec 5) (a : BitVec 5) (b : BitVec 5)
  /-- SRA (R552): The instruction shifts right arithmetic by sB[4:0]. -/
  | sra (lcn : BitVec 12) (d : BitVec 5) (a : BitVec 5) (b : BitVec 5)
  /-- MUL (R552): The instruction gives the low 32 bits of the product. -/
  | mul (lcn : BitVec 12) (d : BitVec 5) (a : BitVec 5) (b : BitVec 5)
  /-- MULH (R552): The instruction gives the signed high 32 bits of the product. -/
  | mulh (lcn : BitVec 12) (d : BitVec 5) (a : BitVec 5) (b : BitVec 5)
  /-- MULHU (R552): The instruction gives the unsigned high 32 bits of the product. -/
  | mulhu (lcn : BitVec 12) (d : BitVec 5) (a : BitVec 5) (b : BitVec 5)
  /-- SLT (R552): The instruction sets 1 when sA < sB signed. -/
  | slt (lcn : BitVec 12) (d : BitVec 5) (a : BitVec 5) (b : BitVec 5)
  /-- SLTU (R552): The instruction sets 1 when sA < sB unsigned. -/
  | sltu (lcn : BitVec 12) (d : BitVec 5) (a : BitVec 5) (b : BitVec 5)
  /-- SEQ (R552): The instruction sets 1 when sA = sB. -/
  | seq (lcn : BitVec 12) (d : BitVec 5) (a : BitVec 5) (b : BitVec 5)
  /-- MIN (R552): The instruction gives the signed minimum. -/
  | min (lcn : BitVec 12) (d : BitVec 5) (a : BitVec 5) (b : BitVec 5)
  /-- MAX (R552): The instruction gives the signed maximum. -/
  | max (lcn : BitVec 12) (d : BitVec 5) (a : BitVec 5) (b : BitVec 5)
  /-- MINU (R552): The instruction gives the unsigned minimum. -/
  | minu (lcn : BitVec 12) (d : BitVec 5) (a : BitVec 5) (b : BitVec 5)
  /-- MAXU (R552): The instruction gives the unsigned maximum. -/
  | maxu (lcn : BitVec 12) (d : BitVec 5) (a : BitVec 5) (b : BitVec 5)
  /-- ADDS (R552): The instruction adds, clamped to INT32. -/
  | adds (lcn : BitVec 12) (d : BitVec 5) (a : BitVec 5) (b : BitVec 5)
  /-- SUBS (R552): The instruction subtracts, clamped to INT32. -/
  | subs (lcn : BitVec 12) (d : BitVec 5) (a : BitVec 5) (b : BitVec 5)
  /-- ALUI (R552): An ALUI instruction 0x00–0x13 applies the ALU operation with IMM12. -/
  | alui (lcn : BitVec 12) (op : AluOp) (d : BitVec 5) (a : BitVec 5) (imm : BitVec 12)
  /-- LUI (R552): The instruction loads IMM12 × 2^20. -/
  | lui (lcn : BitVec 12) (d : BitVec 5) (imm : BitVec 12)
  /-- LMI (R552): The instruction ORs IMM12[7:0] × 2^12 into sA. -/
  | lmi (lcn : BitVec 12) (d : BitVec 5) (a : BitVec 5) (imm : BitVec 12)
  /-- BEQ (R552): The instruction branches when sA = sB. -/
  | beq (lcn : BitVec 12) (a : BitVec 5) (b : BitVec 5) (offset : BitVec 12)
  /-- BNE (R552): The instruction branches when sA ≠ sB. -/
  | bne (lcn : BitVec 12) (a : BitVec 5) (b : BitVec 5) (offset : BitVec 12)
  /-- BLT (R552): The instruction branches when sA < sB signed. -/
  | blt (lcn : BitVec 12) (a : BitVec 5) (b : BitVec 5) (offset : BitVec 12)
  /-- BGE (R552): The instruction branches when sA ≥ sB signed. -/
  | bge (lcn : BitVec 12) (a : BitVec 5) (b : BitVec 5) (offset : BitVec 12)
  /-- BLTU (R552): The instruction branches when sA < sB unsigned. -/
  | bltu (lcn : BitVec 12) (a : BitVec 5) (b : BitVec 5) (offset : BitVec 12)
  /-- BGEU (R552): The instruction branches when sA ≥ sB unsigned. -/
  | bgeu (lcn : BitVec 12) (a : BitVec 5) (b : BitVec 5) (offset : BitVec 12)
  /-- JMP (R552): The instruction branches by OFFSET. -/
  | jmp (lcn : BitVec 12) (offset : BitVec 12)
  /-- JAL (R552): The instruction saves the return index in s31 and branches. -/
  | jal (lcn : BitVec 12) (offset : BitVec 12)
  /-- JR (R552): The instruction jumps to sA + OFFSET. -/
  | jr (lcn : BitVec 12) (a : BitVec 5) (offset : BitVec 12)
  /-- LOOP (R552): The instruction decrements sA and branches while it is not 0. -/
  | loop (lcn : BitVec 12) (a : BitVec 5) (offset : BitVec 12)
  /-- LB (R552): The instruction loads a sign-extended byte. -/
  | lb (lcn : BitVec 12) (d : BitVec 5) (a : BitVec 5) (imm : BitVec 12)
  /-- LBU (R552): The instruction loads a zero-extended byte. -/
  | lbu (lcn : BitVec 12) (d : BitVec 5) (a : BitVec 5) (imm : BitVec 12)
  /-- LH (R552): The instruction loads a sign-extended half-word. -/
  | lh (lcn : BitVec 12) (d : BitVec 5) (a : BitVec 5) (imm : BitVec 12)
  /-- LHU (R552): The instruction loads a zero-extended half-word. -/
  | lhu (lcn : BitVec 12) (d : BitVec 5) (a : BitVec 5) (imm : BitVec 12)
  /-- LW (R552): The instruction loads a word. -/
  | lw (lcn : BitVec 12) (d : BitVec 5) (a : BitVec 5) (imm : BitVec 12)
  /-- SB (R552): The instruction stores a byte. -/
  | sb (lcn : BitVec 12) (d : BitVec 5) (a : BitVec 5) (imm : BitVec 12)
  /-- SH (R552): The instruction stores a half-word. -/
  | sh (lcn : BitVec 12) (d : BitVec 5) (a : BitVec 5) (imm : BitVec 12)
  /-- SW (R552): The instruction stores a word. -/
  | sw (lcn : BitVec 12) (d : BitVec 5) (a : BitVec 5) (imm : BitVec 12)
  /-- VADD (R552): The instruction adds INT16 lanes, masked. -/
  | vadd (lcn : BitVec 12) (d : BitVec 5) (a : BitVec 5) (b : BitVec 5) (m : BitVec 3)
  /-- VSUB (R552): The instruction subtracts INT16 lanes, masked. -/
  | vsub (lcn : BitVec 12) (d : BitVec 5) (a : BitVec 5) (b : BitVec 5) (m : BitVec 3)
  /-- VAND (R552): The instruction ANDs lanes, masked. -/
  | vand (lcn : BitVec 12) (d : BitVec 5) (a : BitVec 5) (b : BitVec 5) (m : BitVec 3)
  /-- VOR (R552): The instruction ORs lanes, masked. -/
  | vor (lcn : BitVec 12) (d : BitVec 5) (a : BitVec 5) (b : BitVec 5) (m : BitVec 3)
  /-- VXOR (R552): The instruction XORs lanes, masked. -/
  | vxor (lcn : BitVec 12) (d : BitVec 5) (a : BitVec 5) (b : BitVec 5) (m : BitVec 3)
  /-- VSLL (R552): The instruction shifts lanes left, masked. -/
  | vsll (lcn : BitVec 12) (d : BitVec 5) (a : BitVec 5) (b : BitVec 5) (m : BitVec 3)
  /-- VSRL (R552): The instruction shifts lanes right logical, masked. -/
  | vsrl (lcn : BitVec 12) (d : BitVec 5) (a : BitVec 5) (b : BitVec 5) (m : BitVec 3)
  /-- VSRA (R552): The instruction shifts lanes right arithmetic, masked. -/
  | vsra (lcn : BitVec 12) (d : BitVec 5) (a : BitVec 5) (b : BitVec 5) (m : BitVec 3)
  /-- VMIN (R552): The instruction gives the signed lane minimum. -/
  | vmin (lcn : BitVec 12) (d : BitVec 5) (a : BitVec 5) (b : BitVec 5) (m : BitVec 3)
  /-- VMAX (R552): The instruction gives the signed lane maximum. -/
  | vmax (lcn : BitVec 12) (d : BitVec 5) (a : BitVec 5) (b : BitVec 5) (m : BitVec 3)
  /-- VADDS (R552): The instruction adds lanes with clamping. -/
  | vadds (lcn : BitVec 12) (d : BitVec 5) (a : BitVec 5) (b : BitVec 5) (m : BitVec 3)
  /-- VSUBS (R552): The instruction subtracts lanes with clamping. -/
  | vsubs (lcn : BitVec 12) (d : BitVec 5) (a : BitVec 5) (b : BitVec 5) (m : BitVec 3)
  /-- VCEQ (R552): The instruction sets mask bits for equal lanes. -/
  | vceq (lcn : BitVec 12) (d : BitVec 5) (a : BitVec 5) (b : BitVec 5)
  /-- VCLT (R552): The instruction sets mask bits for lanes below, signed. -/
  | vclt (lcn : BitVec 12) (d : BitVec 5) (a : BitVec 5) (b : BitVec 5)
  /-- VSEL (R552): The instruction selects lanes by a mask. -/
  | vsel (lcn : BitVec 12) (d : BitVec 5) (a : BitVec 5) (b : BitVec 5) (m : BitVec 3)
  /-- VDOT8 (R552): The instruction accumulates signed INT8 pair products into w lanes. -/
  | vdot8 (lcn : BitVec 12) (d : BitVec 5) (a : BitVec 5) (b : BitVec 5) (m : BitVec 3)
  /-- VDOT8U (R552): The instruction accumulates INT8 pair products with vA unsigned. -/
  | vdot8u (lcn : BitVec 12) (d : BitVec 5) (a : BitVec 5) (b : BitVec 5) (m : BitVec 3)
  /-- MAND (R552): The instruction ANDs masks. -/
  | mand (lcn : BitVec 12) (d : BitVec 5) (a : BitVec 5) (b : BitVec 5)
  /-- MOR (R552): The instruction ORs masks. -/
  | mor (lcn : BitVec 12) (d : BitVec 5) (a : BitVec 5) (b : BitVec 5)
  /-- MXOR (R552): The instruction XORs masks. -/
  | mxor (lcn : BitVec 12) (d : BitVec 5) (a : BitVec 5) (b : BitVec 5)
  /-- MNOT (R552): The instruction inverts a mask. -/
  | mnot (lcn : BitVec 12) (d : BitVec 5) (a : BitVec 5)
  /-- VSHUF (R552): The instruction shuffles the lanes of a register. -/
  | vshuf (lcn : BitVec 12) (d : BitVec 5) (a : BitVec 5) (b : BitVec 5)
  /-- VBCAST (R552): The instruction broadcasts sA[15:0] to every lane, masked. -/
  | vbcast (lcn : BitVec 12) (d : BitVec 5) (a : BitVec 5) (m : BitVec 3)
  /-- VEXT (R552): The instruction extracts a lane into a scalar. -/
  | vext (lcn : BitVec 12) (d : BitVec 5) (a : BitVec 5) (c : BitVec 4)
  /-- VINS (R552): The instruction inserts a scalar into a lane. -/
  | vins (lcn : BitVec 12) (d : BitVec 5) (a : BitVec 5) (c : BitVec 4)
  /-- VFMA (R552): The instruction performs an FP16 fused multiply-add. -/
  | vfma (lcn : BitVec 12) (d : BitVec 5) (a : BitVec 5) (b : BitVec 5) (m : BitVec 3)
  /-- VFMAW (R552): The instruction performs an FP16 product plus FP32 accumulation into w. -/
  | vfmaw (lcn : BitVec 12) (d : BitVec 5) (a : BitVec 5) (b : BitVec 5) (m : BitVec 3)
  /-- VADDH (R552): The instruction adds FP16 lanes. -/
  | vaddh (lcn : BitVec 12) (d : BitVec 5) (a : BitVec 5) (b : BitVec 5) (m : BitVec 3)
  /-- VMULH (R552): The instruction multiplies FP16 lanes. -/
  | vmulh (lcn : BitVec 12) (d : BitVec 5) (a : BitVec 5) (b : BitVec 5) (m : BitVec 3)
  /-- VCVTHW (R552): The instruction converts FP32 lanes to FP16. -/
  | vcvthw (lcn : BitVec 12) (d : BitVec 5) (a : BitVec 5)
  /-- VCVTWH (R552): The instruction converts FP16 lanes to FP32. -/
  | vcvtwh (lcn : BitVec 12) (d : BitVec 5) (a : BitVec 5)
  /-- VCVTHI (R552): The instruction converts INT16 lanes to FP16. -/
  | vcvthi (lcn : BitVec 12) (d : BitVec 5) (a : BitVec 5)
  /-- VCVTIH (R552): The instruction converts FP16 lanes to INT16. -/
  | vcvtih (lcn : BitVec 12) (d : BitVec 5) (a : BitVec 5)
  /-- VPK8 (R552): The instruction packs 32 INT16 lanes into clamped INT8. -/
  | vpk8 (lcn : BitVec 12) (d : BitVec 5) (a : BitVec 5) (b : BitVec 5)
  /-- VUPKL8 (R552): The instruction unpacks the low INT8 elements. -/
  | vupkl8 (lcn : BitVec 12) (d : BitVec 5) (a : BitVec 5)
  /-- VUPKH8 (R552): The instruction unpacks the high INT8 elements. -/
  | vupkh8 (lcn : BitVec 12) (d : BitVec 5) (a : BitVec 5)
  /-- VQNT (R209): The instruction requantises 16 lanes and adds to the tile's SAT and UFLOW counters. -/
  | vqnt (lcn : BitVec 12) (d : BitVec 5) (a : BitVec 5) (b : BitVec 5) (m : BitVec 3)
  /-- VLD (R552): The instruction loads 32 B into a vector register. -/
  | vld (lcn : BitVec 12) (d : BitVec 5) (a : BitVec 5) (imm : BitVec 12)
  /-- VST (R552): The instruction stores a vector register. -/
  | vst (lcn : BitVec 12) (d : BitVec 5) (a : BitVec 5) (imm : BitVec 12)
  /-- VGATH (R552): The instruction gathers lanes from local memory. -/
  | vgath (lcn : BitVec 12) (d : BitVec 5) (a : BitVec 5) (imm : BitVec 12)
  /-- VSCAT (R552): The instruction scatters lanes to local memory in ascending lane order. -/
  | vscat (lcn : BitVec 12) (d : BitVec 5) (a : BitVec 5) (imm : BitVec 12)
  /-- RADDF (R552): The instruction reduces w lanes by FP32 addition. -/
  | raddf (lcn : BitVec 12) (d : BitVec 5) (a : BitVec 5)
  /-- RADDI (R552): The instruction reduces w lanes by INT32 addition. -/
  | raddi (lcn : BitVec 12) (d : BitVec 5) (a : BitVec 5)
  /-- RMAXF (R552): The instruction reduces w lanes by FP32 maximum. -/
  | rmaxf (lcn : BitVec 12) (d : BitVec 5) (a : BitVec 5)
  /-- RMINF (R552): The instruction reduces w lanes by FP32 minimum. -/
  | rminf (lcn : BitVec 12) (d : BitVec 5) (a : BitVec 5)
  /-- RMAXI (R552): The instruction reduces w lanes by INT32 maximum. -/
  | rmaxi (lcn : BitVec 12) (d : BitVec 5) (a : BitVec 5)
  /-- RMINI (R552): The instruction reduces w lanes by INT32 minimum. -/
  | rmini (lcn : BitVec 12) (d : BitVec 5) (a : BitVec 5)
  /-- GET (R552): The instruction starts a copy from a local or remote device address into local memory. -/
  | get (lcn : BitVec 12) (d : BitVec 5) (a : BitVec 5) (b : BitVec 5) (c : BitVec 5)
  /-- PUT (R552): The instruction starts a copy from local memory to a local or remote device address. -/
  | put (lcn : BitVec 12) (d : BitVec 5) (a : BitVec 5) (b : BitVec 5) (c : BitVec 5)
  /-- BLKGET (R232): The instruction fetches a tagged block and checks its tag against the tile. -/
  | blkget (lcn : BitVec 12) (d : BitVec 5) (a : BitVec 5) (b : BitVec 5) (c : BitVec 5)
  /-- WAIT (R552): The instruction stalls until every GET, PUT and BLKGET of the core is complete. -/
  | wait (lcn : BitVec 12)
  /-- DMA_COMPLETE (R207): A DMA request of a core completes, releasing waiting instructions. -/
  | dmaComplete (lcn : BitVec 12)
  /-- SEND (R230): The instruction sends 16 B to a squad core's mailbox, stalling while the mailbox is full. -/
  | send (lcn : BitVec 12) (a : BitVec 5) (b : BitVec 5)
  /-- MESSAGE_DELIVERY (R230): A sent message is delivered into the receiver's mailbox. -/
  | messageDelivery (lcn : BitVec 12)
  /-- RECV (R230): The instruction takes the oldest message, stalling while the mailbox is empty. -/
  | recv (lcn : BitVec 12) (d : BitVec 5) (a : BitVec 5)
  /-- BAR (R230): The instruction stalls until every active core of the squad in the job reaches BAR. -/
  | bar (lcn : BitVec 12)
  /-- TCONTRIB (R225): The instruction stages RED_ELEMS words as the core's contribution. -/
  | tcontrib (lcn : BitVec 12) (a : BitVec 5)
  /-- UNEXT (R220): The instruction returns the next unit of the core's sequence, or −1. -/
  | unext (lcn : BitVec 12) (d : BitVec 5)
  /-- UNDEFINED_ENCODING (R212): A reserved class or undefined FN ends the job with FAULT. -/
  | undefinedEncoding (lcn : BitVec 12) (word : BitVec 32)
  /-- REDUCTION_DONE (R226): The reduction through the squad combiners and Court writes its result and the job ends. -/
  | reductionDone (huddle : Byte)
  /-- CORE_FAULT (R236): A single-bit error is corrected and counted; an uncorrectable local-memory or register-parity error fences the core and stops its job CORE_FAULT. -/
  | coreFault (squad : Fin 256) (slot : Fin 17) (error : CoreError)
  /-- SPARE_CHECK_END (R241): A spare's ROM check completes; a failing spare is benched. -/
  | spareCheckEnd (squad : Fin 256) (passed : Bool)
  /-- SYNTHESIS_JOB (R261): At W + 2.0 µs, or when the previous one ends, the ROM synthesis job starts on each SYN huddle. -/
  | synthesisJob (huddle : Byte)
  /-- DECISION_JOB (R295): The ROM decision job starts at the latest of its four instants and writes the routes' channels into the ring entry. -/
  | decisionJob (huddle : Byte)
  /-- GEN (R272): The ROM frame-generation stage of a picture starts and latches the view descriptor. -/
  | gen (huddle : Byte)
  /-- COMPOSE (R272): A ROM COMPOSE slice job starts and writes its picture rows. -/
  | compose (huddle : Byte)
  /-- TAKEOVER_JOB (R453): At W + 2.0 µs after takeover, the takeover job writes the partner channels' words from the mirror copy. -/
  | takeoverJob (huddle : Byte)
  /-- SOB (R321): At the fetch point F_T the field head fetches entry T into its line buffer and fences the entry. -/
  | sob (late : Bool)
  /-- CHAIN_READBACK (R332): 100 ns after a chain frame ends, the CRC sampled at the pad is compared with the CRC sent. -/
  | chainReadback (chain : Fin 8) (crc : BitVec 32)
  /-- LINE_RELEASE (R327): At W_T + 40 ns SYNC rises with the code and step-0 direct-pin transitions take place. -/
  | lineRelease (padFails : BitVec 8)
  /-- DIRECT_PIN_TRANSITION (R329): A direct nozzle pin changes level at its step of an applied line. -/
  | directPinTransition (pin : Fin 16)
  /-- DIRECT_READBACK (R332): At W_{T+1} + 40 ns the direct-pin transition CRC is compared. -/
  | directReadback (crc : BitVec 32)
  /-- VIEW_UNDERRUN (R356): An active pixel is due without buffered data; the rest of the line shows VRS_BG. -/
  | viewUnderrun (clone : Bool) (line : BitVec 12) (pixel : BitVec 12)
  /-- FRAME_DONE (R357): Two lines after SOB the FETCH, EXP and ACT CRCs are compared. -/
  | frameDone (clone : Bool) (act : BitVec 32)
  /-- LINK_TRAINING_END (R352): DisplayPort training succeeds, falls back or fails with TRAIN_FAIL. Digit r of each word is the iteration
  at which clock recovery and equalisation at rate r would succeed, 0 for never. -/
  | linkTrainingEnd (trained : Training)
  /-- HPD (R359): A DP_HPD assertion lasting 100 ms reads DPCD and EDID and starts training. -/
  | hpd (dpcd : List Byte) (edid : List Byte)
  /-- HPD_IRQ (R359): A 0.25–2 ms HPD low pulse reads link status and retrains on loss of lock. -/
  | hpdIrq (locked : Bool)
  /-- DETECT (R435): PRBS31 signal is found on the lanes and the link moves to TRAIN. -/
  | linkDetect (link : Fin 2) (signal : Byte)
  /-- TRAIN (R435): Lane locking completes, full or NARROW, or times out at 2 ms into FAIL. -/
  | linkTrain (link : Fin 2) (locked : Byte)
  /-- ALIGN (R435): Block lock and deskew complete within 1 ms into PARAM, or fail. -/
  | linkAlign (link : Fin 2) (ok : Bool)
  /-- FAIL (R435): After 100 ms in FAIL the link returns to DETECT. -/
  | linkFail (link : Fin 2)
  /-- BLOCK_LOCK_LOSS (R435): Loss of block lock on an UP link returns it to TRAIN. -/
  | blockLockLoss (link : Fin 2)
  /-- IDLE (R438): An IDLE frame is received and discarded. -/
  | idleFrame (link : Fin 2) (ackNo : BitVec 16)
  /-- HELLO (R436): A HELLO frame is checked against the expected peer; a match brings the link UP. -/
  | hello (head : FrameHead) (id : BitVec 3) (sizeM1 : BitVec 3) (pair : Bool) (trip : BitVec 16)
  /-- ACKNAK (R439): An ACKNAK frame acknowledges, or triggers a replay, or on the third NAK retrains. -/
  | acknak (link : Fin 2) (ackNo : BitVec 16) (replay : BitVec 16) (nak : Bool)
  /-- SYNC (R454): A SYNC frame corrects the follower's next Whistle instant by e, limited to ±128 ns. -/
  | syncFrame (head : FrameHead) (period : Word) (count : BitVec 48) (arrival : BitVec 64)
  /-- HEARTBEAT (R449): A partner HEARTBEAT frame is received for its tick. -/
  | heartbeat (head : FrameHead) (tick : BitVec 16) (state : BitVec 4)
  /-- RGET (R444): A remote read request is forwarded, or served on local memory under context tag 32. -/
  | rget (head : FrameHead) (entry : BitVec 12) (join : BitVec 16) (addr : BitVec 40)
  /-- RPUT (R444): A remote write request is forwarded, or served on local memory. -/
  | rput (head : FrameHead) (entry : BitVec 12) (join : BitVec 16) (addr : BitVec 40) (data : BitVec 256)
  /-- REPLY (R444): A REPLY is written into its receive-slot entry, or dropped as orphan or stale. -/
  | reply (head : FrameHead) (entry : BitVec 12) (join : BitVec 16) (status : BitVec 3) (data : BitVec 512)
  /-- MIRROR (R448): A MIRROR section frame from the partner is collected into the current batch. -/
  | mirror (head : FrameHead) (sect : Byte) (info : BitVec 24) (data : BitVec 512)
  /-- MIRROR_END (R448): MIRROR_END closes a batch, which is checked and queued for application. -/
  | mirrorEnd (head : FrameHead) (data : BitVec 512)
  /-- DROPPED_FRAME (R438): A frame of unknown TYPE or with a reserved bit set is dropped and counted. -/
  | droppedFrame (link : Fin 2) (seqNo : BitVec 16) (ackNo : BitVec 16)
  /-- DRAW_ARBITRATION (R382): A Draw arbiter grants one beat to the highest LC input or by a ticket lottery. -/
  | drawArbitration (arbiter : Fin 266) (requests : List DrawRequest) (withdraws : Bool)
  /-- REFRESH_DUE (R397): The LPDDR6 controller issues a refresh at the rate that MR4 calls for. -/
  | refreshDue (channel : Fin 8) (mr4 : BitVec 3) (hot : Bool)
  /-- SELF_REFRESH_ENTRY (R399): An idle channel with sufficient tolerance enters self-refresh. -/
  | selfRefreshEntry (channel : Fin 8)
  /-- SELF_REFRESH_EXIT (R399): A request or a fall in tolerance makes a channel leave self-refresh within 1,800 ns. -/
  | selfRefreshExit (channel : Fin 8)
  /-- SCRUB (R404): A scrub pass of Court or LPDDR6 starts one period after the previous pass, or at its end. -/
  | scrub (ddr : Bool) (corrected : List (BitVec 40)) (failed : List (BitVec 40))
  /-- POR_N_RISE (R501): The straps are sampled on the rising edge of POR_N. -/
  | porNRise (straps : BitVec 4)
  /-- BROWN_OUT (R498): A PG input low for more than 2 µs causes a power-on reset with cause 1. -/
  | brownOut (fell : BitVec 6)
  /-- RESET_RELEASE (R499): A reset ends 1 ms after its cause and the boot sequence starts. -/
  | resetRelease (facts : BootFacts)
  /-- BUS_SAMPLE (R503): A VSENSE_BUS conversion is taken every 10 µs and the filtered value is updated. -/
  | busSample (code : BitVec 12)
  /-- CORE_SAMPLE (R504): The on-die VDD_CORE sense is sampled every 10 µs. -/
  | coreSample (mv : BitVec 10)
  /-- TEMPERATURE_SAMPLE (R505): The junction-temperature sensors are read every 100 µs. -/
  | temperatureSample (temps : BitVec 256)
  /-- SCOUT_RECORD (R539): A tagged instruction completes and its 32-byte scout record is written. -/
  | scoutRecord (rec : ScoutFacts)
  /-- DESKEW (R88): A camera port receives an initial or periodic D-PHY deskew sequence, completing DESKEW_DONE or raising DESKEW_FAIL. -/
  | deskew (port : Fin 16) (initial : Bool) (ok : Bool)
  /-- IN_BAND_INTERRUPT (R102): A sensor on an I3C bus attempts an in-band interrupt and the master refuses it. -/
  | inBandInterrupt (master : Fin 3)
  /-- BAD_FRAME (R439): A Lysba frame with a bad CRC is discarded, counted in LYS_LINKn_ERR.CRC, and answered with an ACKNAK NAK for the expected SEQ. -/
  | badFrame (link : Fin 2)
  /-- COMMAND_BUS_TRAINING (R419): In CBT mode the port samples CA[6:0] at the selected CK edge and drives the sampled pattern onto DQ[6:0]. -/
  | commandBusTraining (sample : CbtSample)
  /-- WCK2CK_LEVELLING (R419): During WCK2CK levelling the port drives onto DQ the CK level sampled at each WCK rising edge. -/
  | wck2ckLevelling (ck : Bool)
  /-- WCK2DQ_OSCILLATOR (R419): The WCK2DQ oscillator run set by MRW ends and its count is reported as the standard lays down. -/
  | wck2dqOscillator (count : BitVec 16)
  /-- WHISTLE (R37): The Whistle generator reaches the accumulated instant on the edge grid and starts a new tick: the commit applies, inputs are latched and the publication phase begins. -/
  | whistle
  /-- WINDOW_CLOSE (R39): The commit window closes LEAD_NS before the Whistle; the written WC words and the submitted pages are frozen. -/
  | windowClose
  /-- ORIGIN_RESET (R112): CAM_MOTION_CTRL.ORIGIN_RESET sets X, Y and heading of the pose of its commit's Whistle to zero. -/
  | originReset
  /-- CLEAR (R301): TRK_CTRL.CLEAR sets every track-table slot FREE at the commit's Whistle. -/
  | clearTracks
  /-- FAULT_CLR (R334): FRS_CTRL.FAULT_CLR clears a latched FAULT_SAFE at the commit. -/
  | faultClr
  /-- CLEAR_ALL (R536): PMC_CTRL.CLEAR_ALL clears every counter at the commit. -/
  | clearAll
  /-- WHS_COUNT_LO_READ (R59): A read of WHS_COUNT_LO latches WHS_COUNT_HI. -/
  | whsCountLoRead
  /-- WHS_TS_LO_READ (R59): A read of WHS_TS_LO latches WHS_TS_HI. -/
  | whsTsLoRead
  /-- CAM_PPS_TS_LO_READ (R114): A read of CAM_PPS_TS_LO latches CAM_PPS_TS_HI. -/
  | camPpsTsLoRead
  /-- MEM_ERR_ADDR_LO_READ (R406): A read of MEM_ERR_ADDR_LO latches MEM_ERR_ADDR_HI and MEM_ERR_INFO. -/
  | memErrAddrLoRead
  /-- LYS_SYNC_OFFSET_LO_READ (R456): A read of LYS_SYNC_OFFSET_LO latches the high word. -/
  | lysSyncOffsetLoRead
  /-- PLAN_VERIFICATION_END (R81): Verification of the pending plan ends VERIFIED or FAILED with the lowest failure code, and the completion record is updated. -/
  | planVerificationEnd
  /-- COPY_END (R402): A copy's last beat is written; its status is reported at the next Whistle and the next queued copy starts. -/
  | copyEnd
  /-- WARM_RESET_DUE (R502): 1.0 ms after the Whistle of an accepted WARM_RESET, the warm reset of cause 5 takes place. -/
  | warmResetDue
  /-- REFRESH_COMMAND (R420): A REFab or REFpb command is counted in HPT_REFRESH and otherwise ignored. -/
  | refreshCommand
  /-- SRE (R421): The host enters self-refresh, power-down or deep sleep; the device keeps working and row buffers empty. -/
  | sre
  /-- SRX (R421): The host exits self-refresh, power-down or deep sleep; commands are accepted after the exit time. -/
  | srx
  /-- RDC (R419): Read DQ calibration returns the MR31–MR34 patterns. -/
  | rdc
  /-- RFF (R419): The read training FIFO returns the oldest stored burst, or zeros. -/
  | rff
  /-- MPC_ZQ (R419): ZQ calibration start and latch are accepted with no effect. -/
  | mpcZq
  /-- HOST_RESET_N_LOW (R422): HOST_RESET_N low resets the host port alone: mode registers, training and row buffers. -/
  | hostResetNLow
  /-- HOST_PORT_READY (R422): 2 ms after HOST_RESET_N rises, the port accepts commands again. -/
  | hostPortReady
  /-- PPS_LOST (R108): No PPS edge for 1.5 s sets PPS_LOST. -/
  | ppsLost
  /-- CHAIN_FRAME_START (R321): At the fetch deadline each enabled chain raises FRM and sends the frame of line T. -/
  | chainFrameStart
  /-- SYNC_DROP (R327): SYNC drops at W − 500 ns before a Whistle whose code is not SAFE. -/
  | syncDrop
  /-- LINE_RECORD (R340): At W_{T+1} + 2 µs the line record of T is written to the FRS status page. -/
  | lineRecord
  /-- VIEW_FRAME_START (R343): A DisplayPort frame starts at V + 1,000 ns; pending VRS values take force and the fetch begins. -/
  | viewFrameStart
  /-- CLONE_FRAME_START (R345): An LVDS clone frame starts at a view start with k mod LV_DIV = 0. -/
  | cloneFrameStart
  /-- VIEW_SOB (R358): The end of the last active DisplayPort line raises SOB. -/
  | viewSob
  /-- FRAME_RECORD (R364): 1,000 ns after FRAME_DONE the frame record is written. -/
  | frameRecord
  /-- UNPLUG (R359): An HPD low period over 2 ms clears LINK_UP and sets LINK_LOST. -/
  | unplug
  /-- REMOTE_REQUEST_SERVED (R444): A served remote request sends its REPLY toward the originator. -/
  | remoteRequestServed
  /-- MIRROR_SECTION_SEND (R446): A mirror section is queued at input 65 once its content is final in the tick. -/
  | mirrorSectionSend
  /-- HEARTBEAT_SEND (R449): At W + 4.0 µs a device of a pair sends its HEARTBEAT on both links. -/
  | heartbeatSend
  /-- HEARTBEAT_DEADLINE (R449): At W_{T+1} − 10 µs a missing heartbeat of T counts as missed. -/
  | heartbeatDeadline
  /-- POR_N_LOW (R498): POR_N low starts a power-on reset. -/
  | porNLow
  /-- VDD_CORE_LOW (R498): VDD_CORE below 0.60 V causes a power-on reset with cause 2. -/
  | vddCoreLow
  /-- WARM_RST_N (R498): WARM_RST_N low for at least 1 µs causes a warm reset. -/
  | warmRstN
  /-- FAILED_START (R480): A failed start is recorded and a warm reset follows 100 ms later. -/
  | failedStart
  /-- START_OK (R480): At the 1,024th Whistle after the plan took force, the start succeeds and FAILED returns to 0. -/
  | startOk
  /-- LOG_WRITE (R523): The log writer takes one queued entry per FCLK cycle into the next slot. -/
  | logWrite
  /-- FAILED_START_WARM_RESET (R480): 100 ms after a start fails, the warm reset of cause 4 takes place. -/
  | failedStartWarmReset
  deriving DecidableEq, Repr

end Sys2Proof
end

