-- ==== Sys2Proof/Decode.lean ====
section
/-! DEFINITION. The commands that words spell by the opcode table's bits. No row of the table gives bits. -/

namespace Sys2Proof

/-- The command that a word of the opcode table spells: none, because the table gives no row any bits. (DESIGN CHOICE, assumption 11.) -/
def decodeTableWord (_nbits _w : Nat) : Option Instr := none

end Sys2Proof
end

