-- ==== Sys2Proof/Config.lean ====
section
/-! DEFINITION. What one part or one board fixes, and the values the spec leaves open: constants without a body, of which
no proof can see a value. -/

namespace Sys2Proof.Config

/-- A free value: an unstated number, by the counter `State.free` that each draw advances. -/
opaque freeNat : Nat → Nat

/-- The Tuirno public key held in ROM, 97 bytes (R64). The spec names it and does not print it. -/
opaque tuirnoKey : List Byte

/-- The root secret that the extractor rebuilds from this part's PUF SRAM with a copy of its helper data, where the rebuild meets its check
value (R472, R473), and the bytes of a helper copy that its CRC-32 covers: the spec lays neither out. -/
opaque rootOf : List Byte → BitVec 256
opaque helperSize : Nat

/-- The salt and, for the DevID key pair (0), the key-wrapping key (1) and the boot-record key (2), the information of HKDF, which R472 leaves
open; the private scalar that the derived bytes give, and the number drawn for a signature over a digest. -/
opaque hkdfSalt : List Byte
opaque hkdfInfo : Nat → List Byte
opaque scalarOf : List Byte → Nat
opaque signNonce : List Byte → Nat

/-- The SHA-384 of the ROM, fixed per ROM_REV (R487). -/
opaque romDigest : List Byte

/-- The SHA-384 of the built-in firmware (R487). -/
opaque builtinFwDigest : List Byte

/-- The fixed hashes of the built-in plans (R487). -/
opaque kickoffHash : List Byte
opaque benchHash : List Byte

/-- What the on-die ROM of the built-in check of the engines holds, which the spec does not print (R205): the descriptor and the tensor
record of its BOX_DECODE job, the bytes that the descriptor names besides the image, by address, and the CRC-32 of the box list. -/
opaque checkDesc : List Byte
opaque checkTensor : List Byte
opaque checkData : List (Nat × List Byte)
opaque checkCrc : Nat

/-- PLAN_ID and PLAN_VERSION of the built-in plans, Kickoff (false) and bench (true), which the spec does not state. -/
opaque builtinPlanId : Bool → Nat
opaque builtinPlanVersion : Bool → Nat

/-- The default of a host-port mode register, which R418 leaves to JESD209-5. -/
opaque modeRegisterDefault : Nat → BitVec 8

/-- Which host-port mode registers the standard defines beside those that R418 names. -/
opaque modeRegisterDefined : Nat → Bool

/-- The code in which the duty-cycle monitor reports balanced (R418), and the exit times in time units of power-down (1) and deep sleep (2)
(R421): both are the standard's. -/
opaque dcmBalanced : BitVec 4
opaque portExitTime : Nat → Nat

/-- The data rate of the host's bus in MT/s, which the port measures from CK (R431). -/
opaque hostRate : BitVec 14

/-- A glyph row of the 12 × 24 ROM font: character code and row give 12 pixels, most significant leftmost. -/
opaque fontRow : Nat → Nat → BitVec 12

/-- Where the title of the status card stands in its red band, column and row, and its colour: the spec states neither (R482). -/
opaque titleAt : Nat × Nat
opaque titleInk : BitVec 24

/-- The character codes between two parts of a text line of the status card, by the line's number and the place of the gap (R482). -/
opaque cardGap : Nat → Nat → List Nat

/-- How a stepping is written on the status card (R482). -/
opaque steppingText : Nat → List Nat

/-- The character codes between two parts of the band text of a tile of a composed view (R285) and of the mosaic (R86), by the place of
the gap. -/
opaque bandGap : Nat → List Nat
opaque mosaicGap : Nat → List Nat

/-- How the mosaic's band writes a data type (R86). -/
opaque dataTypeText : Nat → List Nat

/-- The colours of the mosaic's band and of its text, and the column at which the text begins (R86). -/
opaque mosaicGround : BitVec 24
opaque mosaicInk : BitVec 24
opaque mosaicColumn : Nat

/-- How a picture is scaled into a tile of the mosaic: from the source picture by row and column, its width and height, and those in
the tile, the pixel at a column and a row (R86 names no filter). -/
opaque mosaicScale : (Nat → Nat → BitVec 24) → Nat × Nat → Nat × Nat → Nat → Nat → BitVec 24

/-- The payload of the FP32 NaN that an operation produces, which the spec does not state (R171 states the narrower
formats). -/
opaque fp32NanPayload : Nat

/-- The sign of the NaN of an operation without a NaN operand (infinity minus infinity, zero times infinity). -/
opaque invalidSign : Bool

/-- The integer that a NaN converts to, before the clamp of its format: not stated by R171. -/
opaque nanToInt : Int

/-- The FP32 code of atan2(0, 0), which the spec does not state. -/
opaque atan2Origin : Nat

/-- Normalised coordinates x and y of a distorted image point under K1 and K2 not both zero: the spec gives the camera model
from the ground to the image only, and no inverse of its distortion. All are FP32 codes. -/
opaque undistort : Nat → Nat → Nat → Nat → Nat × Nat

/-- The tolerance in ns that camera intake states while a port receives a frame, by the instant: the time until its fullest buffer
would overflow (R399). The fill of the buffers depends on cycle timing, which the model leaves out. -/
opaque intakeTolerance : Nat → Nat

/-- A value the spec does not state, by the point where it arises and the operand it depends on. (DESIGN CHOICE, assumption 18.) -/
opaque unstated : Nat → Int → Nat

end Sys2Proof.Config
end

