-- ==== Sys2Proof/Machine/Bits.lean ====
section
/-! DEFINITION. Bit fields, signed reading, little-endian bytes (R5) and the plain integer helpers every block uses. -/

namespace Sys2Proof.Machine

/-- Bits `[hi:lo]` of a number, both ends included (R5). -/
def bits (n hi lo : Nat) : Nat := (n >>> lo) % 2 ^ (hi + 1 - lo)

/-- Bit `k` of a number. -/
def bit (n k : Nat) : Bool := n.testBit k

/-- The number with bits `[hi:lo]` replaced by the low bits of `v`. -/
def setBits (n hi lo v : Nat) : Nat :=
  let w := 2 ^ (hi + 1 - lo)
  n - (bits n hi lo) * 2 ^ lo + (v % w) * 2 ^ lo

/-- A truth value as 0 or 1. -/
def b2n (b : Bool) : Nat := if b then 1 else 0

/-- The low `w` bits read as a two's complement number. -/
def sgn (w n : Nat) : Int :=
  let m := n % 2 ^ w
  if m < 2 ^ (w - 1) then (m : Int) else (m : Int) - (2 ^ w : Nat)

/-- An integer as `w` bits of two's complement, the rest dropped. -/
def wrap (w : Nat) (i : Int) : Nat := (i % ((2 ^ w : Nat) : Int)).toNat

/-- An integer held between two ends. -/
def clampI (lo hi i : Int) : Int := if i < lo then lo else if hi < i then hi else i

/-- Add one, staying at the greatest value of `w` bits. -/
def satInc (w n : Nat) : Nat := if n + 1 < 2 ^ w then n + 1 else 2 ^ w - 1

/-- Division rounded up. -/
def ceilDiv (a b : Nat) : Nat := if b = 0 then 0 else (a + b - 1) / b

/-- Integer division of a signed number by 2^s, rounded toward minus infinity. -/
def sar (i : Int) (s : Nat) : Int := i / ((2 ^ s : Nat) : Int)

/-- `i / 2^s` rounded to nearest, ties to even. -/
def rneShift (i : Int) (s : Nat) : Int :=
  if s = 0 then i
  else
    let d : Int := ((2 ^ s : Nat) : Int)
    let q := i / d
    let r := i - q * d
    let half : Int := ((2 ^ (s - 1) : Nat) : Int)
    if r < half then q else if half < r then q + 1 else if q % 2 = 0 then q else q + 1

/-- `a / b` (with `b > 0`) rounded to nearest, ties to even. -/
def rneDiv (a : Int) (b : Nat) : Int :=
  if b = 0 then 0
  else
    let q := a / (b : Int)
    let r := a - q * (b : Int)
    if 2 * r < (b : Int) then q else if (b : Int) < 2 * r then q + 1 else if q % 2 = 0 then q else q + 1

/-- Integer square root by bisection on its bits. -/
def isqrtGo (n : Nat) : Nat → Nat → Nat
  | 0, acc => acc
  | k + 1, acc =>
    let c := acc + 2 ^ k
    isqrtGo n k (if c * c ≤ n then c else acc)

/-- `⌊√n⌋`. -/
def isqrt (n : Nat) : Nat := isqrtGo n (Nat.log2 n / 2 + 1) 0

/-- `n` little-endian bytes of a number (R5). -/
def leBytes : Nat → Nat → List Byte
  | 0, _ => []
  | n + 1, v => BitVec.ofNat 8 v :: leBytes n (v / 256)

/-- The number that little-endian bytes spell (R5). -/
def ofLE : List Byte → Nat
  | [] => 0
  | b :: r => b.toNat + 256 * ofLE r

/-- The number that big-endian bytes spell. -/
def ofBE (l : List Byte) : Nat := ofLE l.reverse

/-- `n` big-endian bytes of a number. -/
def beBytes (n v : Nat) : List Byte := (leBytes n v).reverse

/-- Bytes `[o, o+n)` of a list, zero past its end. -/
def slice (l : List Byte) (o n : Nat) : List Byte :=
  let t := (l.drop o).take n
  t ++ List.replicate (n - t.length) 0

/-- The little-endian number of `n` bytes at offset `o`. -/
def fieldLE (l : List Byte) (o n : Nat) : Nat := ofLE (slice l o n)

/-- The signed little-endian number of `n` bytes at offset `o`. -/
def fieldSLE (l : List Byte) (o n : Nat) : Int := sgn (8 * n) (fieldLE l o n)

/-- Every byte is zero. -/
def allZero (l : List Byte) : Bool := l.all (fun b => b == 0)

/-- The list with the bytes at offset `o` overwritten (never lengthened). -/
def overwrite (l : List Byte) (o : Nat) (d : List Byte) : List Byte :=
  l.take o ++ (d.take (l.length - o)) ++ l.drop (o + d.length)

/-- The list with element `i` replaced. -/
def setNth {α : Type} : List α → Nat → α → List α
  | [], _, _ => []
  | _ :: r, 0, v => v :: r
  | a :: r, i + 1, v => a :: setNth r i v

/-- Sum of a list of integers. -/
def sumI (l : List Int) : Int := l.foldl (· + ·) 0

/-- Sum of a list of numbers. -/
def sumN (l : List Nat) : Nat := l.foldl (· + ·) 0

/-- The number of set bits among the low `w`. -/
def popcount (w n : Nat) : Nat := ((List.range w).filter (fun k => n.testBit k)).length

/-- The positions of the set bits among the low `w`, rising. -/
def setPositions (w n : Nat) : List Nat := (List.range w).filter (fun k => n.testBit k)

/-- The number whose set bits are the listed positions. -/
def ofPositions (l : List Nat) : Nat := l.foldl (fun a k => a ||| (2 ^ k)) 0

/-- A stable insertion by a key. -/
def insertBy {α : Type} (le : α → α → Bool) (x : α) : List α → List α
  | [] => [x]
  | y :: r => if le y x then y :: insertBy le x r else x :: y :: r

/-- A stable insertion sort: `le a b` says that `a` may stand before `b`. -/
def sortBy {α : Type} (le : α → α → Bool) (l : List α) : List α :=
  l.foldl (fun acc x => insertBy le x acc) []

/-- Every pair of a list of rows and a list of columns, row by row. -/
def pairsOf {α β : Type} (l : List α) (m : List β) : List (α × β) :=
  l.flatMap (fun a => m.map (fun b => (a, b)))

/-- The numbers from `lo` up to, not including, `hi`. -/
def upTo (lo hi : Nat) : List Nat := (List.range (hi - lo)).map (fun i => lo + i)

end Sys2Proof.Machine
end

