-- ==== Sys2Proof/Machine/Maps.lean ====
section
/-! DEFINITION. The operations on sparse data: maps by number and byte stores in their one canonical form. -/

namespace Sys2Proof.Machine

/-- The entry of a key. -/
def Map.get {α : Type} : Map α → Nat → Option α
  | [], _ => none
  | (k, v) :: r, q => if q = k then some v else if q < k then none else Map.get r q

/-- The entry of a key, or a default. -/
def Map.getD {α : Type} (m : Map α) (q : Nat) (d : α) : α := (Map.get m q).getD d

/-- The map with a key's entry written. -/
def Map.set {α : Type} : Map α → Nat → α → Map α
  | [], q, v => [(q, v)]
  | (k, u) :: r, q, v =>
    if q = k then (q, v) :: r else if q < k then (q, v) :: (k, u) :: r else (k, u) :: Map.set r q v

/-- The map without a key. -/
def Map.erase {α : Type} : Map α → Nat → Map α
  | [], _ => []
  | (k, u) :: r, q => if q = k then r else if q < k then (k, u) :: r else (k, u) :: Map.erase r q

/-- A key has an entry. -/
def Map.has {α : Type} (m : Map α) (q : Nat) : Bool := (Map.get m q).isSome

/-- The map with one entry changed by a function, where it is present. -/
def Map.upd {α : Type} (m : Map α) (q : Nat) (f : α → α) : Map α :=
  match Map.get m q with
  | none => m
  | some v => Map.set m q (f v)

/-- The byte at an address of a store whose unlisted bytes read `d`. -/
def Mem.get (d : Byte) : Mem → Nat → Byte
  | [], _ => d
  | (k, v) :: r, q => if q = k then v else if q < k then d else Mem.get d r q

/-- The store with one byte written; a byte equal to `d` is not listed. -/
def Mem.set (d : Byte) : Mem → Nat → Byte → Mem
  | [], q, v => if v = d then [] else [(q, v)]
  | (k, u) :: r, q, v =>
    if q = k then (if v = d then r else (q, v) :: r)
    else if q < k then (if v = d then (k, u) :: r else (q, v) :: (k, u) :: r)
    else (k, u) :: Mem.set d r q v

/-- The addresses rise strictly from above `lo` and no entry equals `d`. -/
def Mem.wfFrom (d : Byte) : Nat → Mem → Bool
  | _, [] => true
  | lo, (k, v) :: r => decide (lo ≤ k) && decide (v ≠ d) && Mem.wfFrom d (k + 1) r

/-- The canonical form of a store. -/
def Mem.wf (d : Byte) (m : Mem) : Bool := Mem.wfFrom d 0 m

/-- `n` bytes from an address up, of a store whose entries below the address are gone. -/
def Mem.run (d : Byte) : Nat → Mem → Nat → List Byte
  | 0, _, _ => []
  | n + 1, [], a => d :: Mem.run d n [] (a + 1)
  | n + 1, (k, v) :: r, a => if k = a then v :: Mem.run d n r (a + 1) else d :: Mem.run d n ((k, v) :: r) (a + 1)

/-- `n` bytes from an address up. -/
def Mem.read (d : Byte) (m : Mem) (a n : Nat) : List Byte := Mem.run d n (m.dropWhile (fun e => decide (e.1 < a))) a

/-- The entries of bytes from an address up, without those equal to `d`. -/
def Mem.entries (d : Byte) : Nat → List Byte → Mem
  | _, [] => []
  | a, b :: r => if b = d then Mem.entries d (a + 1) r else (a, b) :: Mem.entries d (a + 1) r

/-- The store with bytes written from an address up. -/
def Mem.write (d : Byte) (m : Mem) (a : Nat) (l : List Byte) : Mem :=
  let hi := a + l.length
  m.takeWhile (fun e => decide (e.1 < a)) ++ Mem.entries d a l ++ m.dropWhile (fun e => decide (e.1 < hi))

/-- The store with the bytes written whose mask bit is set. -/
def Mem.writeMasked (d : Byte) (m : Mem) (a : Nat) : List (Byte × Bool) → Mem
  | [] => m
  | (b, e) :: r => Mem.writeMasked d (if e then Mem.set d m a b else m) (a + 1) r

/-- The store without every entry of `[lo, hi)`: that range reads its default. -/
def Mem.clear (m : Mem) (lo hi : Nat) : Mem := m.filter (fun e => e.1 < lo || hi ≤ e.1)

/-- The store with the `n` bytes at `src` copied to `dst`. -/
def Mem.copy (m : Mem) (src dst n : Nat) : Mem :=
  m.filter (fun e => e.1 < dst)
    ++ (m.filter (fun e => src ≤ e.1 && e.1 < src + n)).map (fun e => (e.1 - src + dst, e.2))
    ++ m.filter (fun e => dst + n ≤ e.1)

/-- A strictly rising list of numbers with one added. -/
def setInsert : List Nat → Nat → List Nat
  | [], q => [q]
  | k :: r, q => if q = k then k :: r else if q < k then q :: k :: r else k :: setInsert r q

/-- A list of numbers with one removed. -/
def setErase (l : List Nat) (q : Nat) : List Nat := l.filter (fun k => k != q)

end Sys2Proof.Machine
end

