-- ==== Sys2Proof/Machine/Float.lean ====
section
/-! DEFINITION. The number formats (R155–R157), round to nearest with ties to even (R161), and exact floating arithmetic
rounded once (R163, R209). No operation produces an infinity (R171). -/

namespace Sys2Proof.Machine

/-- A decoded floating-point number: NaN, infinity, or (−1)^neg × m × 2^e. -/
inductive Fp where
  | nan (neg : Bool)
  | inf (neg : Bool)
  | fin (neg : Bool) (m : Nat) (e : Int)
  deriving DecidableEq, Repr

/-- A floating-point format: width, mantissa bits, bias, greatest finite code, whether the top exponent holds infinity
and NaN (IEEE) or NaN at all ones only (E4M3), and the code of its NaN. -/
structure FpFmt where
  width : Nat
  mb : Nat
  bias : Nat
  maxCode : Nat
  ieee : Bool
  nanCode : Nat
  deriving DecidableEq, Repr

/-- The formats of R155. The FP32 NaN code is not stated by the spec: its payload is a constant left open. -/
def fmtE4M3 : FpFmt := ⟨8, 3, 7, 0x7E, false, 0x7F⟩
def fmtE5M2 : FpFmt := ⟨8, 2, 15, 0x7B, true, 0x7E⟩
def fmtFP16 : FpFmt := ⟨16, 10, 15, 0x7BFF, true, 0x7E00⟩
def fmtFP32 : FpFmt := ⟨32, 23, 127, 0x7F7FFFFF, true, 0x7F800000 + 1 + Config.fp32NanPayload % (2 ^ 23 - 1)⟩

/-- A code decoded, subnormals kept (R157). -/
def FpFmt.decode (f : FpFmt) (code : Nat) : Fp :=
  let neg := code.testBit (f.width - 1)
  let c := code % 2 ^ (f.width - 1)
  let ex := c / 2 ^ f.mb
  let mn := c % 2 ^ f.mb
  let top := 2 ^ (f.width - 1 - f.mb) - 1
  if f.ieee && ex == top then (if mn = 0 then .inf neg else .nan neg)
  else if !f.ieee && c == 2 ^ (f.width - 1) - 1 then .nan neg
  else if ex = 0 then .fin neg mn (1 - (f.bias : Int) - f.mb)
  else .fin neg (mn + 2 ^ f.mb) ((ex : Int) - f.bias - f.mb)

/-- A sign bit and a magnitude code joined. -/
def FpFmt.join (f : FpFmt) (neg : Bool) (c : Nat) : Nat := (if neg then 2 ^ (f.width - 1) else 0) + c

/-- A finite magnitude m × 2^e rounded once to a magnitude code, before the range is applied (R161). -/
def FpFmt.roundMag (f : FpFmt) (m : Nat) (e : Int) : Nat :=
  if m = 0 then 0
  else
    let emin : Int := 1 - (f.bias : Int) - f.mb
    let ue := max (((Nat.log2 m : Nat) : Int) + e - f.mb) emin
    let q : Nat := if e ≥ ue then m * 2 ^ (e - ue).toNat else (rneShift m (ue - e).toNat).toNat
    (ue - emin).toNat * 2 ^ f.mb + q

/-- A number rounded once to a format; an excess magnitude becomes the greatest finite one (R171). -/
def FpFmt.encode (f : FpFmt) : Fp → Nat
  | .nan neg => f.join neg f.nanCode
  | .inf neg => f.join neg f.maxCode
  | .fin neg m e => f.join neg (min (f.roundMag m e) f.maxCode)

/-- The rounding of R171 counts as saturated: beyond the greatest finite value once it is rounded, or NaN. (DESIGN CHOICE, assumption
148.) -/
def FpFmt.saturates (f : FpFmt) : Fp → Bool
  | .nan _ => true
  | .inf _ => true
  | .fin _ m e => decide (f.maxCode < f.roundMag m e)

/-- A finite number is zero. -/
def Fp.isZero : Fp → Bool
  | .fin _ m _ => m == 0
  | _ => false

/-- The sign. -/
def Fp.neg : Fp → Bool
  | .nan n => n
  | .inf n => n
  | .fin n _ _ => n

/-- The number with the other sign. -/
def Fp.negate : Fp → Fp
  | .nan n => .nan (!n)
  | .inf n => .inf (!n)
  | .fin n m e => .fin (!n) m e

/-- The exact product. -/
def Fp.mul (a b : Fp) : Fp :=
  let n := a.neg != b.neg
  match a, b with
  | .nan x, _ => .nan x
  | _, .nan x => .nan x
  | .inf _, .inf _ => .inf n
  | .inf _, .fin _ m _ => if m = 0 then .nan Config.invalidSign else .inf n
  | .fin _ m _, .inf _ => if m = 0 then .nan Config.invalidSign else .inf n
  | .fin _ m e, .fin _ m' e' => .fin n (m * m') (e + e')

/-- The exact sum; an exact zero of unlike signs is +0. (DESIGN CHOICE, assumption 16.) -/
def Fp.add (a b : Fp) : Fp :=
  match a, b with
  | .nan x, _ => .nan x
  | _, .nan x => .nan x
  | .inf x, .inf y => if x = y then .inf x else .nan Config.invalidSign
  | .inf x, .fin _ _ _ => .inf x
  | .fin _ _ _, .inf y => .inf y
  | .fin n m e, .fin n' m' e' =>
    let e0 := min e e'
    let v : Int := (if n then -1 else 1) * ((m * 2 ^ (e - e0).toNat : Nat) : Int)
    let v' : Int := (if n' then -1 else 1) * ((m' * 2 ^ (e' - e0).toNat : Nat) : Int)
    let t := v + v'
    if t = 0 then .fin (n && n') 0 e0 else .fin (decide (t < 0)) t.natAbs e0

/-- An integer as an exact number. -/
def Fp.ofInt (i : Int) : Fp := .fin (decide (i < 0)) i.natAbs 0

/-- A number times 2^k, exact. -/
def Fp.scale (a : Fp) (k : Int) : Fp :=
  match a with
  | .fin n m e => .fin n m (e + k)
  | x => x

/-- A finite number rounded to an integer (R161); an infinity or NaN has none. -/
def Fp.toIntRne : Fp → Option Int
  | .fin n m e =>
    let s : Int := if n then -1 else 1
    if 0 ≤ e then some (s * ((m * 2 ^ e.toNat : Nat) : Int)) else some (rneShift (s * (m : Int)) (-e).toNat)
  | _ => none

/-- `a < b` of two numbers that are not NaN. -/
def Fp.lt (a b : Fp) : Bool :=
  match a, b with
  | .nan _, _ => false
  | _, .nan _ => false
  | .inf true, .inf true => false
  | .inf true, _ => true
  | _, .inf true => false
  | .inf false, _ => false
  | _, .inf false => true
  | .fin n m e, .fin n' m' e' =>
    let e0 := min e e'
    let v : Int := (if n then -1 else 1) * ((m * 2 ^ (e - e0).toNat : Nat) : Int)
    let v' : Int := (if n' then -1 else 1) * ((m' * 2 ^ (e' - e0).toNat : Nat) : Int)
    decide (v < v')

/-- FP32 and FP16 sums and products of codes, one rounding (R161). -/
def addF32 (a b : Nat) : Nat := fmtFP32.encode ((fmtFP32.decode a).add (fmtFP32.decode b))
def mulF32 (a b : Nat) : Nat := fmtFP32.encode ((fmtFP32.decode a).mul (fmtFP32.decode b))
def addF16 (a b : Nat) : Nat := fmtFP16.encode ((fmtFP16.decode a).add (fmtFP16.decode b))
def mulF16 (a b : Nat) : Nat := fmtFP16.encode ((fmtFP16.decode a).mul (fmtFP16.decode b))
/-- The FP16 fused multiply-add, one rounding (R209). -/
def fmaF16 (a b c : Nat) : Nat :=
  fmtFP16.encode (((fmtFP16.decode a).mul (fmtFP16.decode b)).add (fmtFP16.decode c))
/-- FP16 × FP16 + FP32, the product exact, one rounding to FP32 (R209). -/
def fmaW (a b c : Nat) : Nat :=
  fmtFP32.encode (((fmtFP16.decode a).mul (fmtFP16.decode b)).add (fmtFP32.decode c))

/-- MAX_FP32 and MIN_FP32: a NaN operand makes the result that NaN, the earlier NaN first (R224). -/
def pickF32 (wantMax : Bool) (a b : Nat) : Nat :=
  match fmtFP32.decode a, fmtFP32.decode b with
  | .nan _, _ => a
  | _, .nan _ => b
  | x, y => if wantMax then (if x.lt y then b else a) else (if y.lt x then b else a)

/-- The INT32 sum of two codes, saturating (R168); with whether it saturated. -/
def satAdd32 (a b : Int) : Int × Bool :=
  let t := a + b
  (clampI (-(2 ^ 31)) (2 ^ 31 - 1) t, decide (t < -(2 ^ 31)) || decide (2 ^ 31 - 1 < t))

/-! ## Requantisation (R162, R171) -/

/-- rne_shift of R162: `v × 2^(−k)` rounded; exact for `k ≤ 0`. -/
def rneShiftK (v k : Int) : Int := if k ≤ 0 then v * ((2 ^ (-k).toNat : Nat) : Int) else rneShift v k.toNat

/-- The code range of an integer format 0x0–0x3 (R155). -/
def intRange (fmt : Nat) : Int × Int :=
  if fmt = 0 then (-8, 7) else if fmt = 1 then (0, 15) else if fmt = 2 then (-128, 127) else (0, 255)

/-- A format is an integer storage format 0x0–0x3. -/
def isIntFmt (fmt : Nat) : Bool := decide (fmt ≤ 3)

/-- The floating formats by code (R155). -/
def fpOf (fmt : Nat) : FpFmt :=
  if fmt = 4 then fmtE4M3 else if fmt = 5 then fmtE5M2 else if fmt = 6 then fmtFP16 else fmtFP32

/-- Integer accumulation to an integer format (R171): code, saturated, underflowed. -/
def requantInt (v k zo : Int) (fmt : Nat) (accSat : Bool) : Int × Bool × Bool :=
  let r := rneShiftK v k
  let (lo, hi) := intRange fmt
  (clampI lo hi (r + zo), decide (r + zo < lo) || decide (hi < r + zo) || accSat, decide (v ≠ 0) && decide (r = 0))

/-- A real value already scaled to the output shift, to an output format (R171): code, saturated, underflowed. A NaN or an
infinite value has no integer: the spec gives a NaN result a code only in floating formats, so the integer code of a NaN is
a constant left open. (DEDUCED, assumption 64.) -/
def requantReal (y : Fp) (zo : Int) (fmt : Nat) : Nat × Bool × Bool :=
  if isIntFmt fmt then
    let (lo, hi) := intRange fmt
    match y with
    | .nan _ => (wrap 16 (clampI lo hi Config.nanToInt), true, false)
    | .inf n => (wrap 16 (if n then lo else hi), true, false)
    | .fin _ m _ =>
      let r := (y.toIntRne).getD 0
      (wrap 16 (clampI lo hi (r + zo)), decide (r + zo < lo) || decide (hi < r + zo), decide (m ≠ 0) && decide (r = 0))
  else
    let f := fpOf fmt
    let c := f.encode y
    (c, f.saturates y, !y.isZero && c % 2 ^ (f.width - 1) == 0)

/-- Bits of an element of a format (R155). -/
def fmtBits (fmt : Nat) : Nat :=
  if fmt ≤ 1 then 4 else if fmt ≤ 5 then 8 else if fmt = 6 then 16 else 32

/-- The integer that an integer code reads as. -/
def intCode (fmt : Nat) (c : Nat) : Int :=
  if fmt = 0 then sgn 4 c else if fmt = 1 then ((c % 16 : Nat) : Int) else if fmt = 2 then sgn 8 c
  else if fmt = 3 then ((c % 256 : Nat) : Int) else sgn 32 c

/-- The exact value of a code before its zero point and shift. -/
def codeValue (fmt : Nat) (c : Nat) : Fp :=
  if fmt ≤ 3 ∨ fmt = 8 then Fp.ofInt (intCode fmt c) else (fpOf fmt).decode c

/-- The elements of a packed payload (R156). -/
def unpackCodes (fmt : Nat) (l : List Byte) (n : Nat) : List Nat :=
  (List.range n).map (fun i =>
    if fmt ≤ 1 then
      let b := (l[i / 2]?.getD 0).toNat
      if i % 2 = 0 then b % 16 else b / 16
    else let k := fmtBits fmt / 8; fieldLE l (i * k) k)

/-- Codes packed into bytes (R156). -/
def packCodes (fmt : Nat) (cs : List Nat) : List Byte :=
  if fmt ≤ 1 then
    (List.range (ceilDiv cs.length 2)).map (fun i =>
      BitVec.ofNat 8 ((cs[2 * i]?.getD 0) % 16 + ((cs[2 * i + 1]?.getD 0) % 16) * 16))
  else cs.flatMap (fun c => leBytes (fmtBits fmt / 8) c)

end Sys2Proof.Machine
end

