-- ==== Sys2Proof/Machine/Fp32.lean ====
section
/-! DEFINITION. FP32 arithmetic on codes, one rounding per operation (R110, R161, R246): the four operations, square root,
and the correctly rounded sine, cosine and arc tangent, with the 3 × 3 rotations of R247. -/

namespace Sys2Proof.Machine

/-- An FP32 code. -/
abbrev F32 := Nat

/-- A number rounded once to FP32. -/
def toF (x : Fp) : F32 := fmtFP32.encode x

/-- An FP32 code as a number. -/
def ofF (x : F32) : Fp := fmtFP32.decode x

/-- An integer rounded once to FP32. -/
def fInt (i : Int) : F32 := toF (Fp.ofInt i)

/-- An integer times a power of two rounded once to FP32. -/
def fScaled (i : Int) (e : Int) : F32 := toF ((Fp.ofInt i).scale e)

/-- The exact quotient of two numbers with a sticky bit below 80 further bits; a zero divisor gives the greatest magnitude
(R171), zero by zero has no result. -/
def Fp.div (a b : Fp) : Fp :=
  let n := a.neg != b.neg
  match a, b with
  | .nan x, _ => .nan x
  | _, .nan x => .nan x
  | .inf _, .inf _ => .nan Config.invalidSign
  | .inf _, .fin _ _ _ => .inf n
  | .fin _ _ _, .inf _ => .fin n 0 0
  | .fin _ m e, .fin _ m' e' =>
    if m' = 0 then (if m = 0 then .nan Config.invalidSign else .inf n)
    else
      let q := (m * 2 ^ 80) / m'
      let r := (m * 2 ^ 80) % m'
      .fin n (2 * q + (if r = 0 then 0 else 1)) (e - e' - 81)

/-- The rational number p ÷ q rounded once to FP32. -/
def fRat (p : Int) (q : Nat) : F32 := toF ((Fp.ofInt p).div (Fp.ofInt q))

def fadd (a b : F32) : F32 := addF32 a b
def fmul (a b : F32) : F32 := mulF32 a b
def fneg (a : F32) : F32 := toF (ofF a).negate
def fsub (a b : F32) : F32 := addF32 a (fneg b)
def fdiv (a b : F32) : F32 := toF ((ofF a).div (ofF b))

/-- a < b and a ≤ b of numbers that are not NaN. -/
def flt (a b : F32) : Bool := (ofF a).lt (ofF b)
def fle (a b : F32) : Bool := match ofF a, ofF b with
  | .nan _, _ => false
  | _, .nan _ => false
  | _, _ => !flt b a

/-- The lesser and the greater of two numbers. -/
def fmin (a b : F32) : F32 := if flt b a then b else a
def fmax (a b : F32) : F32 := if flt a b then b else a

/-- A number held between two ends. -/
def fclamp (a lo hi : F32) : F32 := fmin (fmax a lo) hi

/-- The magnitude. -/
def fabs (a : F32) : F32 := a % 2 ^ 31

/-- A number rounded to the nearest integer, ties to even (R161); what a NaN gives is left open. -/
def fRound (a : F32) : Int := ((ofF a).toIntRne).getD Config.nanToInt

/-- A number times 2^k rounded to the nearest integer. -/
def fRoundScaled (a : F32) (k : Int) : Int := (((ofF a).scale k).toIntRne).getD Config.nanToInt

/-- The greatest integer not above a number. -/
def fFloor (a : F32) : Int :=
  match ofF a with
  | .fin n m e =>
    let v : Int := (if n then -1 else 1) * (m : Int)
    if 0 ≤ e then v * ((2 ^ e.toNat : Nat) : Int) else sar v (-e).toNat
  | _ => Config.nanToInt

/-- The correctly rounded square root; a negative operand has none. -/
def fsqrt (a : F32) : F32 :=
  match ofF a with
  | .fin n m e =>
    if m = 0 then a
    else if n then toF (.nan Config.invalidSign)
    else
      let e1 : Int := if e % 2 = 0 then e - 60 else e - 61
      let m1 := m * 2 ^ (e - e1).toNat
      let r := isqrt m1
      toF (.fin false (2 * r + (if r * r = m1 then 0 else 1)) (e1 / 2 - 1))
  | .inf n => if n then toF (.nan Config.invalidSign) else a
  | .nan _ => a

/-! ## Sine, cosine and arc tangent: fixed point with 440 fraction bits, far below the closest that any FP32 argument's
result comes to a rounding boundary. -/

def fixOne : Int := ((2 ^ 440 : Nat) : Int)

/-- π with 440 fraction bits. -/
def fixPi : Int := 8919653111686155361594895283741457667927754617975811017404146498622904977937858519328448476565678712740932499400936380777796272225360

/-- The product of two fixed-point numbers. -/
def fixMul (a b : Int) : Int := (a * b) / fixOne

/-- A finite number in fixed point. -/
def Fp.toFix : Fp → Int
  | .fin n m e =>
    let k := e + 440
    (if n then -1 else 1) * (if 0 ≤ k then ((m * 2 ^ k.toNat : Nat) : Int) else ((m / 2 ^ (-k).toNat : Nat) : Int))
  | _ => 0

/-- The alternating series Σ (−1)^k r^(2k+i) ÷ (2k+i)!, from the term for `i`. -/
def trigSeries (r2 : Int) : Nat → Nat → Int → Int
  | 0, _, _ => 0
  | n + 1, i, t => t + trigSeries r2 n (i + 2) (-(fixMul t r2) / (((i + 1) * (i + 2) : Nat) : Int))

/-- An angle brought between −π and π. -/
def fixReduce (x : Int) : Int :=
  let two := 2 * fixPi
  let r := x % two
  if r ≤ fixPi then r else r - two

def fixSin (x : Int) : Int := let r := fixReduce x; trigSeries (fixMul r r) 70 1 r
def fixCos (x : Int) : Int := let r := fixReduce x; trigSeries (fixMul r r) 70 0 fixOne

/-- A fixed-point number rounded once to FP32. -/
def ofFix (v : Int) : F32 := toF (.fin (decide (v < 0)) v.natAbs (-440))

/-- The correctly rounded sine and cosine of an angle in radians. -/
def fsin (a : F32) : F32 := if (ofF a).isZero then a else ofFix (fixSin (ofF a).toFix)
def fcos (a : F32) : F32 := ofFix (fixCos (ofF a).toFix)

/-- tan of half the angle whose tangent is t. -/
def fixHalf (t : Int) : Int :=
  let h := (isqrt ((fixOne * fixOne + t * t).toNat) : Nat)
  (t * fixOne) / (fixOne + (h : Int))

/-- The series t − t³/3 + t⁵/5 − …. -/
def atanSeries (t2 : Int) : Nat → Nat → Int → Int
  | 0, _, _ => 0
  | n + 1, i, t => t / (i : Int) + atanSeries t2 n (i + 2) (-(fixMul t t2))

/-- The arc tangent of 0 ≤ t ≤ 1: the angle is halved three times. -/
def fixAtan (t : Int) : Int :=
  let h := fixHalf (fixHalf (fixHalf t))
  8 * atanSeries (fixMul h h) 80 1 h

/-- The exact ratio of two magnitudes in fixed point, where the first is the lesser. -/
def fixRatio (a b : Fp) : Int :=
  match a, b with
  | .fin _ m e, .fin _ m' e' =>
    if m' = 0 then 0
    else
      let k := e - e' + 440
      if 0 ≤ k then ((m * 2 ^ k.toNat / m' : Nat) : Int) else ((m / (m' * 2 ^ (-k).toNat) : Nat) : Int)
  | _, _ => 0

/-- The correctly rounded angle of the point (x, y) from −π to π. The angle of the origin is not stated by the spec.
(DESIGN CHOICE, assumption 17.) -/
def fatan2 (y x : F32) : F32 :=
  let fy := ofF y
  let fx := ofF x
  match fy, fx with
  | .nan _, _ => y
  | _, .nan _ => x
  | _, _ =>
    if fy.isZero && fx.isZero then Config.atan2Origin
    else
      let small := flt (fabs y) (fabs x)
      let a0 := if small then fixAtan (fixRatio (ofF (fabs y)) (ofF (fabs x)))
        else fixPi / 2 - fixAtan (fixRatio (ofF (fabs x)) (ofF (fabs y)))
      let a1 := if fx.neg then fixPi - a0 else a0
      ofFix (if fy.neg then -a1 else a1)

/-- 2π and π/180 rounded to FP32. -/
def fTwoPi : F32 := ofFix (2 * fixPi)
def fDeg : F32 := ofFix (fixPi / 180)

/-- An angle of 2^−32 turns in radians: converted once, then one multiplication by 2π (R246). -/
def fTurns (t : Int) : F32 := fmul (fScaled t (-32)) fTwoPi

/-- An angle in radians rounded to 2^−32 turns. -/
def toTurns (a : F32) : Int := fRoundScaled (fdiv a fTwoPi) 32

/-! ## Rotations (R247) -/

/-- A vector and a matrix of rows. -/
structure Vec3 where
  x : F32
  y : F32
  z : F32
  deriving DecidableEq, Repr

/-- Rotations of a vector about Z, Y and X by an angle in radians. -/
def rotZ (a : F32) (v : Vec3) : Vec3 :=
  let c := fcos a
  let n := fsin a
  { x := fsub (fmul c v.x) (fmul n v.y), y := fadd (fmul n v.x) (fmul c v.y), z := v.z }
def rotY (a : F32) (v : Vec3) : Vec3 :=
  let c := fcos a
  let n := fsin a
  { x := fadd (fmul c v.x) (fmul n v.z), y := v.y, z := fsub (fmul c v.z) (fmul n v.x) }
def rotX (a : F32) (v : Vec3) : Vec3 :=
  let c := fcos a
  let n := fsin a
  { x := v.x, y := fsub (fmul c v.y) (fmul n v.z), z := fadd (fmul n v.y) (fmul c v.z) }

/-- R0: image columns grow to the machine's right, rows to its rear (R247). -/
def rot0 (v : Vec3) : Vec3 := { x := fneg v.y, y := fneg v.x, z := fneg v.z }

/-- Component sums and multiples of vectors. -/
def Vec3.add (a b : Vec3) : Vec3 := { x := fadd a.x b.x, y := fadd a.y b.y, z := fadd a.z b.z }
def Vec3.sub (a b : Vec3) : Vec3 := { x := fsub a.x b.x, y := fsub a.y b.y, z := fsub a.z b.z }
def Vec3.scale (k : F32) (a : Vec3) : Vec3 := { x := fmul k a.x, y := fmul k a.y, z := fmul k a.z }

end Sys2Proof.Machine
end

