-- ==== Sys2Proof/Machine/RegMap.lean ====
section
/-! DEFINITION. The control-space registers: one address per register name and one row per register with its access
masks (R11), its reset value and its commit group (R42), transcribed from the register tables of the chapters. -/

namespace Sys2Proof.Machine

/-- Where a register's reset value comes from. -/
inductive ResetKind where
  | fixed                       -- the number of the row
  | grade (lo i x : Nat)        -- the row's number plus `i` (ZN-816-I) or `x` (ZN-816-X) at bit `lo`
  | bus24 (h l hh hl : Nat)     -- the thresholds of R507, chosen by the BUS24 strap
  | sampled                     -- the straps as sampled (R501)
  deriving DecidableEq, Repr

/-- One row of a register table: `count` registers from `base`, `stride` apart. -/
structure RegDesc where
  base : Nat
  count : Nat
  stride : Nat
  wc : Nat
  w1c : Nat
  ro : Nat
  rw : Nat
  reset : Nat
  kind : ResetKind
  group : Nat
  perUnit : Bool
  deriving DecidableEq, Repr

/-- GEN_ID (R32 of 01_architecture.md): fields PART [15:0] RO, GRADE [19:16] RO, STEPPING [23:20] RO, VENDOR [31:24] RO. -/
def Reg.GEN_ID : Nat := 0x0
/-- WHS_PERIOD (R35 of 02_whistle_and_commit.md): fields TICK_NS [19:0] WC, TICK_FRAC [29:20] WC. -/
def Reg.WHS_PERIOD : Nat := 0x10000
/-- WHS_COMMIT (R41 of 02_whistle_and_commit.md): fields LEAD_NS [15:0] WC. -/
def Reg.WHS_COMMIT : Nat := 0x10004
/-- WHS_SUBMIT_LO (R39 of 02_whistle_and_commit.md): fields PAGE [31:0] WC. -/
def Reg.WHS_SUBMIT_LO : Nat := 0x10008
/-- WHS_SUBMIT_HI (R39 of 02_whistle_and_commit.md): fields PAGE [31:0] WC. -/
def Reg.WHS_SUBMIT_HI : Nat := 0x1000C
/-- WHS_IRQ_ENABLE (R58 of 02_whistle_and_commit.md): fields EN [19:0] WC, WHISTLE_DIV [31:24] WC. -/
def Reg.WHS_IRQ_ENABLE : Nat := 0x10010
/-- WHS_IRQ_STATUS (R58 of 02_whistle_and_commit.md): fields EVENTS [5:0] W1C, BLOCK [19:8] RO. -/
def Reg.WHS_IRQ_STATUS : Nat := 0x10014
/-- WHS_EPOCH (R50 of 02_whistle_and_commit.md): fields EPOCH [31:0] RO. -/
def Reg.WHS_EPOCH : Nat := 0x10018
/-- WHS_COUNT_LO (R59 of 02_whistle_and_commit.md): fields COUNT [31:0] RO. -/
def Reg.WHS_COUNT_LO : Nat := 0x1001C
/-- WHS_COUNT_HI (R59 of 02_whistle_and_commit.md): fields COUNT [15:0] RO. -/
def Reg.WHS_COUNT_HI : Nat := 0x10020
/-- WHS_TS_LO (R59 of 02_whistle_and_commit.md): fields TS [31:0] RO. -/
def Reg.WHS_TS_LO : Nat := 0x10024
/-- WHS_TS_HI (R59 of 02_whistle_and_commit.md): fields TS [31:0] RO. -/
def Reg.WHS_TS_HI : Nat := 0x10028
/-- WHS_STATUS (R39 of 02_whistle_and_commit.md): fields CHECKING [0] RO, LATE_PENDING [1] RO. -/
def Reg.WHS_STATUS : Nat := 0x1002C
/-- FAB_PLAN_STATUS (R85 of 03_uzon_plan.md): fields ACTIVE_SRC [1:0] RO, PENDING [6:4] RO, FAIL_CODE [15:8] RO, SWITCHES [31:16] RO. -/
def Reg.FAB_PLAN_STATUS : Nat := 0x20000
/-- FAB_PLAN_ID (R553 of 03_uzon_plan.md): fields ID [31:0] RO. -/
def Reg.FAB_PLAN_ID : Nat := 0x20004
/-- FAB_PLAN_VER (R553 of 03_uzon_plan.md): fields VER [31:0] RO. -/
def Reg.FAB_PLAN_VER : Nat := 0x20008
/-- FAB_PLAN_HASH (R60 of 03_uzon_plan.md): fields HASH [31:0] RO. -/
def Reg.FAB_PLAN_HASH (i : Nat) : Nat := 0x20010 + i * 0x4
/-- FAB_PEND_HASH (R82 of 03_uzon_plan.md): fields HASH [31:0] RO. -/
def Reg.FAB_PEND_HASH (i : Nat) : Nat := 0x20040 + i * 0x4
/-- FAB_HUDDLES (R66 of 03_uzon_plan.md): fields HUDDLES [7:0] RO, TOP [15:8] RO, DEPTH [23:16] RO. -/
def Reg.FAB_HUDDLES : Nat := 0x20070
/-- FAB_LEND (R28 of 03_uzon_plan.md): fields BANKS [8:0] RO. -/
def Reg.FAB_LEND : Nat := 0x20074
/-- FAB_DET_FW (R468 of 18_determinism.md): fields FW_VER [31:0] RO. -/
def Reg.FAB_DET_FW : Nat := 0x20080
/-- FAB_DET_CLK (R468 of 18_determinism.md): fields ACLK_MHZ [8:0] RO, ROM_REV [23:16] RO. -/
def Reg.FAB_DET_CLK : Nat := 0x20084
/-- FAB_DET_EVENTS (R468 of 18_determinism.md): fields EVENTS [1:0] W1C. -/
def Reg.FAB_DET_EVENTS : Nat := 0x20088
/-- FAB_DET_RESTARTS (R468 of 18_determinism.md): fields COUNT [31:0] RO. -/
def Reg.FAB_DET_RESTARTS : Nat := 0x2008C
/-- HUD_INFO (R74 of 03_uzon_plan.md): fields ID [7:0] RO, PARENT [15:8] RO, KIND [16] RO, PINNED [17] RO, SPLIT [23:22] RO, DEPTH [31:24] RO. -/
def Reg.HUD_INFO (i : Nat) : Nat := 0x30000 + i * 0x100
/-- HUD_SIZE (R68 of 03_uzon_plan.md): fields CORES [12:0] RO, ENGINES [20:16] RO, REDUCED [31:24] RO. -/
def Reg.HUD_SIZE (i : Nat) : Nat := 0x30004 + i * 0x100
/-- HUD_SHARE (R70 of 03_uzon_plan.md): fields BANKS [8:0] RO, ME_SRAM [22:16] RO. -/
def Reg.HUD_SHARE (i : Nat) : Nat := 0x30008 + i * 0x100
/-- HUD_JOB_LO (R76 of 03_uzon_plan.md): fields ADDR [31:0] WC. -/
def Reg.HUD_JOB_LO (i : Nat) : Nat := 0x30010 + i * 0x100
/-- HUD_JOB_HI (R76 of 03_uzon_plan.md): fields ADDR [7:0] WC. -/
def Reg.HUD_JOB_HI (i : Nat) : Nat := 0x30014 + i * 0x100
/-- HUD_JOB_COUNT (R76 of 03_uzon_plan.md): fields COUNT [11:0] WC. -/
def Reg.HUD_JOB_COUNT (i : Nat) : Nat := 0x30018 + i * 0x100
/-- HUD_GUARD (R79 of 03_uzon_plan.md): fields ENABLE [0] WC. -/
def Reg.HUD_GUARD (i : Nat) : Nat := 0x3001C + i * 0x100
/-- HUD_STATUS (R76 of 03_uzon_plan.md): fields BUSY [0] RO, DONE [1] RO, PIN_BROKEN [2] RO, EPOCH [31:16] RO. -/
def Reg.HUD_STATUS (i : Nat) : Nat := 0x30020 + i * 0x100
/-- HUD_EVENTS (R76 of 03_uzon_plan.md): fields EVENTS [4:0] W1C. -/
def Reg.HUD_EVENTS (i : Nat) : Nat := 0x30024 + i * 0x100
/-- HUD_DONE_COUNT (R76 of 03_uzon_plan.md): fields JOBS [31:0] RO. -/
def Reg.HUD_DONE_COUNT (i : Nat) : Nat := 0x30028 + i * 0x100
/-- CAM_PORT_CTRL (R114 of 04_intake.md): fields ENABLE [0] WC, LANES [2:1] WC, BUS [4:3] WC, SENSOR_ADDR [11:5] WC, BAYER [13:12] WC. -/
def Reg.CAM_PORT_CTRL (i : Nat) : Nat := 0x40000 + i * 0x80
/-- CAM_PORT_FULL_FMT (R114 of 04_intake.md): fields VC [3:0] WC, DT [9:4] WC. -/
def Reg.CAM_PORT_FULL_FMT (i : Nat) : Nat := 0x40004 + i * 0x80
/-- CAM_PORT_BAND_FMT (R114 of 04_intake.md): fields VC [3:0] WC, DT [9:4] WC. -/
def Reg.CAM_PORT_BAND_FMT (i : Nat) : Nat := 0x4000C + i * 0x80
/-- CAM_PORT_FULL_SIZE (R114 of 04_intake.md): fields WIDTH [13:0] WC, HEIGHT [29:16] WC. -/
def Reg.CAM_PORT_FULL_SIZE (i : Nat) : Nat := 0x40008 + i * 0x80
/-- CAM_PORT_BAND_SIZE (R114 of 04_intake.md): fields WIDTH [13:0] WC, HEIGHT [29:16] WC. -/
def Reg.CAM_PORT_BAND_SIZE (i : Nat) : Nat := 0x40010 + i * 0x80
/-- CAM_PORT_FULL_EXPO (R114 of 04_intake.md): fields EXPO_NS [23:0] WC. -/
def Reg.CAM_PORT_FULL_EXPO (i : Nat) : Nat := 0x40014 + i * 0x80
/-- CAM_PORT_BAND_EXPO (R114 of 04_intake.md): fields EXPO_NS [23:0] WC. -/
def Reg.CAM_PORT_BAND_EXPO (i : Nat) : Nat := 0x40018 + i * 0x80
/-- CAM_PORT_ROWTIME (R114 of 04_intake.md): fields FULL_ROW_NS [15:0] WC, BAND_ROW_NS [31:16] WC. -/
def Reg.CAM_PORT_ROWTIME (i : Nat) : Nat := 0x4001C + i * 0x80
/-- CAM_PORT_FSYNC (R114 of 04_intake.md): fields DIV [7:0] WC, START [15:8] WC, WIDTH_US [23:16] WC, ACTIVE_LOW [24] WC. -/
def Reg.CAM_PORT_FSYNC (i : Nat) : Nat := 0x40020 + i * 0x80
/-- CAM_PORT_PHASE (R114 of 04_intake.md): fields PHASE_NS [17:0] WC. -/
def Reg.CAM_PORT_PHASE (i : Nat) : Nat := 0x40024 + i * 0x80
/-- CAM_PORT_SCHED (R114 of 04_intake.md): fields KIND [15:0] WC, COUNT [20:16] WC. -/
def Reg.CAM_PORT_SCHED (i : Nat) : Nat := 0x40028 + i * 0x80
/-- CAM_PORT_LIST0 (R114 of 04_intake.md): fields LIST [31:0] WC. -/
def Reg.CAM_PORT_LIST0 (i : Nat) : Nat := 0x4002C + i * 0x80
/-- CAM_PORT_LIST1 (R114 of 04_intake.md): fields LIST [31:0] WC. -/
def Reg.CAM_PORT_LIST1 (i : Nat) : Nat := 0x40030 + i * 0x80
/-- CAM_PORT_LIST2 (R114 of 04_intake.md): fields LIST [31:0] WC. -/
def Reg.CAM_PORT_LIST2 (i : Nat) : Nat := 0x40034 + i * 0x80
/-- CAM_PORT_LIST3 (R114 of 04_intake.md): fields LIST [31:0] WC. -/
def Reg.CAM_PORT_LIST3 (i : Nat) : Nat := 0x40038 + i * 0x80
/-- CAM_PORT_RING_LO (R114 of 04_intake.md): fields ADDR [31:12] WC. -/
def Reg.CAM_PORT_RING_LO (i : Nat) : Nat := 0x40040 + i * 0x80
/-- CAM_PORT_RING_HI (R114 of 04_intake.md): fields ADDR [7:0] WC. -/
def Reg.CAM_PORT_RING_HI (i : Nat) : Nat := 0x40044 + i * 0x80
/-- CAM_PORT_RING (R114 of 04_intake.md): fields FULL_SLOTS [7:0] WC, BAND_SLOTS [15:8] WC. -/
def Reg.CAM_PORT_RING (i : Nat) : Nat := 0x40048 + i * 0x80
/-- CAM_PORT_STATUS (R114 of 04_intake.md): fields HS_ACTIVE [0] RO, DESKEW_DONE [1] RO, NO_SIGNAL [2] RO, SLOT [11:8] RO, FRAMES [31:16] RO. -/
def Reg.CAM_PORT_STATUS (i : Nat) : Nat := 0x40050 + i * 0x80
/-- CAM_PORT_EVENTS (R114 of 04_intake.md): fields EVENTS [10:0] W1C. -/
def Reg.CAM_PORT_EVENTS (i : Nat) : Nat := 0x40054 + i * 0x80
/-- CAM_PORT_ERRCNT (R114 of 04_intake.md): fields BAD [15:0] RO, CORR [31:16] RO. -/
def Reg.CAM_PORT_ERRCNT (i : Nat) : Nat := 0x40058 + i * 0x80
/-- CAM_BUS_CTRL (R114 of 04_intake.md): fields MODE [1:0] WC, RATE [11:4] WC. -/
def Reg.CAM_BUS_CTRL (i : Nat) : Nat := 0x41000 + i * 0x20
/-- CAM_BUS_STATUS (R114 of 04_intake.md): fields BUSY [0] RO, QUEUED [8:4] RO. -/
def Reg.CAM_BUS_STATUS (i : Nat) : Nat := 0x41004 + i * 0x20
/-- CAM_BUS_EVENTS (R114 of 04_intake.md): fields EVENTS [3:0] W1C. -/
def Reg.CAM_BUS_EVENTS (i : Nat) : Nat := 0x41008 + i * 0x20
/-- CAM_ENC_CTRL (R107 of 04_intake.md): fields EN [1:0] WC, INV [3:2] WC, FILTER [7:4] WC. -/
def Reg.CAM_ENC_CTRL : Nat := 0x42000
/-- CAM_ENC_SCALE (R107 of 04_intake.md): fields UM [31:0] WC. -/
def Reg.CAM_ENC_SCALE (i : Nat) : Nat := 0x42004 + i * 0x4
/-- CAM_TRACK (R110 of 04_intake.md): fields TRACK_MM [15:0] WC. -/
def Reg.CAM_TRACK : Nat := 0x4200C
/-- CAM_ENC_COUNT (R107 of 04_intake.md): fields COUNT [31:0] RO. -/
def Reg.CAM_ENC_COUNT (i : Nat) : Nat := 0x42010 + i * 0x4
/-- CAM_ENC_ERRCNT (R107 of 04_intake.md): fields ENC0 [15:0] RO, ENC1 [31:16] RO. -/
def Reg.CAM_ENC_ERRCNT : Nat := 0x42018
/-- CAM_IMU_CTRL (R109 of 04_intake.md): fields EN [0] WC, MODE3 [1] WC, SCK_MHZ [6:2] WC, DRDY_EN [7] WC, BIG_ENDIAN [8] WC, INV [11:9] WC, READ_ADDR [22:16] WC. -/
def Reg.CAM_IMU_CTRL : Nat := 0x42020
/-- CAM_IMU_GYRO_SCALE (R114 of 04_intake.md): fields UDPS [31:0] WC. -/
def Reg.CAM_IMU_GYRO_SCALE : Nat := 0x42024
/-- CAM_IMU_ACC_SCALE (R114 of 04_intake.md): fields UG [31:0] WC. -/
def Reg.CAM_IMU_ACC_SCALE : Nat := 0x42028
/-- CAM_PPS_CTRL (R108 of 04_intake.md): fields EN [0] WC, FALLING [1] WC. -/
def Reg.CAM_PPS_CTRL : Nat := 0x42030
/-- CAM_PPS_TS_LO (R108 of 04_intake.md): fields TS [31:0] RO. -/
def Reg.CAM_PPS_TS_LO : Nat := 0x42034
/-- CAM_PPS_TS_HI (R108 of 04_intake.md): fields TS [31:0] RO. -/
def Reg.CAM_PPS_TS_HI : Nat := 0x42038
/-- CAM_PPS_PERIOD (R108 of 04_intake.md): fields STEPS [31:0] RO. -/
def Reg.CAM_PPS_PERIOD : Nat := 0x4203C
/-- CAM_MOTION_CTRL (R110 of 04_intake.md): fields ORIGIN_RESET [0] WC, USE_VISION [1] WC, USE_IMU [2] WC, G_YAW [15:8] WC, G_VIS [23:16] WC. -/
def Reg.CAM_MOTION_CTRL : Nat := 0x42040
/-- CAM_MOTION_VIS (R110 of 04_intake.md): fields SLIP_UM [15:0] WC, VIS_MIN [23:16] WC. -/
def Reg.CAM_MOTION_VIS : Nat := 0x42044
/-- CAM_POSE_BASE_LO (R112 of 04_intake.md): fields ADDR [31:21] WC. -/
def Reg.CAM_POSE_BASE_LO : Nat := 0x42048
/-- CAM_POSE_BASE_HI (R112 of 04_intake.md): fields ADDR [7:0] WC. -/
def Reg.CAM_POSE_BASE_HI : Nat := 0x4204C
/-- CAM_MOTION_EVENTS (R114 of 04_intake.md): fields EVENTS [5:0] W1C. -/
def Reg.CAM_MOTION_EVENTS : Nat := 0x42050
/-- CAM_MOUNT_XY (R111 of 04_intake.md): fields X_MM [15:0] WC, Y_MM [31:16] WC. -/
def Reg.CAM_MOUNT_XY (i : Nat) : Nat := 0x43000 + i * 0x10
/-- CAM_MOUNT_Z (R111 of 04_intake.md): fields Z_MM [15:0] WC. -/
def Reg.CAM_MOUNT_Z (i : Nat) : Nat := 0x43004 + i * 0x10
/-- CAM_MOUNT_YP (R111 of 04_intake.md): fields YAW [15:0] WC, PITCH [31:16] WC. -/
def Reg.CAM_MOUNT_YP (i : Nat) : Nat := 0x43008 + i * 0x10
/-- CAM_MOUNT_ROLL (R111 of 04_intake.md): fields ROLL [15:0] WC. -/
def Reg.CAM_MOUNT_ROLL (i : Nat) : Nat := 0x4300C + i * 0x10
/-- CAM_IRQ_ENABLE (R114 of 04_intake.md): fields EN [5:0] WC. -/
def Reg.CAM_IRQ_ENABLE : Nat := 0x44000
/-- CAM_IRQ_STATUS (R114 of 04_intake.md): fields EVENTS [5:0] W1C. -/
def Reg.CAM_IRQ_STATUS : Nat := 0x44004
/-- CAM_INTAKE (R106 of 04_intake.md): fields BYTES [31:0] RO. -/
def Reg.CAM_INTAKE : Nat := 0x44008
/-- CAM_LIST (R101 of 04_intake.md): fields WORD [31:0] WC. -/
def Reg.CAM_LIST (i : Nat) : Nat := 0x48000 + i * 0x4
/-- VSN_SEQ_CTRL (R154 of 05_vision_engines.md): fields ENABLE [0] WC, REFINE_EN [1] WC, REFINE_THR [15:8] WC, REFINE_MAX [27:16] WC. -/
def Reg.VSN_SEQ_CTRL (i : Nat) : Nat := 0x60000 + i * 0x40
/-- VSN_SEQ_RING_LO (R154 of 05_vision_engines.md): fields ADDR [31:16] WC. -/
def Reg.VSN_SEQ_RING_LO (i : Nat) : Nat := 0x60004 + i * 0x40
/-- VSN_SEQ_RING_HI (R154 of 05_vision_engines.md): fields ADDR [7:0] WC. -/
def Reg.VSN_SEQ_RING_HI (i : Nat) : Nat := 0x60008 + i * 0x40
/-- VSN_SEQ_RING (R154 of 05_vision_engines.md): fields SLOTS [7:0] WC, SLOT_64K [23:8] WC. -/
def Reg.VSN_SEQ_RING (i : Nat) : Nat := 0x6000C + i * 0x40
/-- VSN_SEQ_DVIS (R154 of 05_vision_engines.md): fields TOL_UM [15:0] WC, MIN_TRACKS [27:16] WC. -/
def Reg.VSN_SEQ_DVIS (i : Nat) : Nat := 0x60010 + i * 0x40
/-- VSN_SEQ_NEED (R154 of 05_vision_engines.md): fields FULL [15:0] RO, BAND [31:16] RO. -/
def Reg.VSN_SEQ_NEED (i : Nat) : Nat := 0x60014 + i * 0x40
/-- VSN_SEQ_STATUS (R154 of 05_vision_engines.md): fields IN_FLIGHT [1:0] RO, REFINING [2] RO, LAST_SEQ [31:16] RO. -/
def Reg.VSN_SEQ_STATUS (i : Nat) : Nat := 0x60018 + i * 0x40
/-- VSN_SEQ_EVENTS (R154 of 05_vision_engines.md): fields EVENTS [5:0] W1C. -/
def Reg.VSN_SEQ_EVENTS (i : Nat) : Nat := 0x6001C + i * 0x40
/-- VSN_SEQ_COUNT (R154 of 05_vision_engines.md): fields FRAMES [15:0] RO, REFINED [31:16] RO. -/
def Reg.VSN_SEQ_COUNT (i : Nat) : Nat := 0x60020 + i * 0x40
/-- VSN_ENG_BUSY (R154 of 05_vision_engines.md): fields BUSY [11:0] RO. -/
def Reg.VSN_ENG_BUSY : Nat := 0x61000
/-- VSN_PB_INFO (R154 of 05_vision_engines.md): fields COUNT [7:0] RO, PATTERN [8] RO. -/
def Reg.VSN_PB_INFO : Nat := 0x61004
/-- VSN_IRQ_ENABLE (R154 of 05_vision_engines.md): fields EN [5:0] WC. -/
def Reg.VSN_IRQ_ENABLE : Nat := 0x61010
/-- VSN_IRQ_STATUS (R154 of 05_vision_engines.md): fields EVENTS [5:0] W1C. -/
def Reg.VSN_IRQ_STATUS : Nat := 0x61014
/-- MXE_ENG_STATUS (R206 of 07_matrix_engines.md): fields BUSY [0] RO, HALF_RATE [1] RO, CHECK_FAIL [2] RO, HUDDLE [15:8] RO, EPOCH [31:16] RO. -/
def Reg.MXE_ENG_STATUS (i : Nat) : Nat := 0x80000 + i * 0x40
/-- MXE_ENG_JOB_LO (R206 of 07_matrix_engines.md): fields ADDR [31:0] RO. -/
def Reg.MXE_ENG_JOB_LO (i : Nat) : Nat := 0x80004 + i * 0x40
/-- MXE_ENG_JOB_HI (R206 of 07_matrix_engines.md): fields ADDR [7:0] RO. -/
def Reg.MXE_ENG_JOB_HI (i : Nat) : Nat := 0x80008 + i * 0x40
/-- MXE_ENG_TILE (R206 of 07_matrix_engines.md): fields TILE [31:0] RO. -/
def Reg.MXE_ENG_TILE (i : Nat) : Nat := 0x8000C + i * 0x40
/-- MXE_ENG_EVENTS (R206 of 07_matrix_engines.md): fields EVENTS [6:0] W1C. -/
def Reg.MXE_ENG_EVENTS (i : Nat) : Nat := 0x80010 + i * 0x40
/-- MXE_ENG_JOBS (R206 of 07_matrix_engines.md): fields JOBS [31:0] RO. -/
def Reg.MXE_ENG_JOBS (i : Nat) : Nat := 0x80014 + i * 0x40
/-- MXE_ENG_BUSY (R206 of 07_matrix_engines.md): fields CYCLES [31:0] RO. -/
def Reg.MXE_ENG_BUSY (i : Nat) : Nat := 0x80018 + i * 0x40
/-- MXE_IRQ_ENABLE (R206 of 07_matrix_engines.md): fields EN [6:0] WC. -/
def Reg.MXE_IRQ_ENABLE : Nat := 0x81000
/-- MXE_IRQ_STATUS (R206 of 07_matrix_engines.md): fields EVENTS [6:0] W1C. -/
def Reg.MXE_IRQ_STATUS : Nat := 0x81004
/-- MXE_CHECK (R206 of 07_matrix_engines.md): fields FAIL_MASK [15:0] RO, DONE [16] RO. -/
def Reg.MXE_CHECK : Nat := 0x81008
/-- SLV_SQ_STATUS (R244 of 08_sliver_cores.md): fields ACTIVE [4:0] RO, SPARE [5] RO, REDUCED [6] RO, LOST [7] RO, HUDDLE [15:8] RO, EPOCH [31:16] RO. -/
def Reg.SLV_SQ_STATUS (i : Nat) : Nat := 0xA0000 + i * 0x10
/-- SLV_SQ_BENCH (R244 of 08_sliver_cores.md): fields SLOTS [16:0] RO. -/
def Reg.SLV_SQ_BENCH (i : Nat) : Nat := 0xA0004 + i * 0x10
/-- SLV_SQ_MAP (R244 of 08_sliver_cores.md): fields SUB_LOGICAL [3:0] RO, SUB_VALID [4] RO, OFF_LOGICAL [11:8] RO, OFF_VALID [12] RO. -/
def Reg.SLV_SQ_MAP (i : Nat) : Nat := 0xA0008 + i * 0x10
/-- SLV_SQ_JOBS (R244 of 08_sliver_cores.md): fields JOBS [31:0] RO. -/
def Reg.SLV_SQ_JOBS (i : Nat) : Nat := 0xA000C + i * 0x10
/-- SLV_SUMMARY (R244 of 08_sliver_cores.md): fields ACTIVE [12:0] RO, REDUCED [24:16] RO. -/
def Reg.SLV_SUMMARY : Nat := 0xB0000
/-- SLV_DUGOUT (R244 of 08_sliver_cores.md): fields BENCHED [12:0] RO, LOST [24:16] RO. -/
def Reg.SLV_DUGOUT : Nat := 0xB0004
/-- SLV_SPARE_CHECK (R241 of 08_sliver_cores.md): fields PERIOD [15:0] WC. -/
def Reg.SLV_SPARE_CHECK : Nat := 0xB0008
/-- SLV_CHECK (R244 of 08_sliver_cores.md): fields DONE [0] RO, FAILED [28:16] RO. -/
def Reg.SLV_CHECK : Nat := 0xB000C
/-- SLV_EVENTS (R244 of 08_sliver_cores.md): fields EVENTS [7:0] W1C. -/
def Reg.SLV_EVENTS : Nat := 0xB0010
/-- SLV_IRQ_ENABLE (R244 of 08_sliver_cores.md): fields EN [7:0] WC. -/
def Reg.SLV_IRQ_ENABLE : Nat := 0xB0014
/-- SLV_IRQ_STATUS (R244 of 08_sliver_cores.md): fields EVENTS [7:0] W1C. -/
def Reg.SLV_IRQ_STATUS : Nat := 0xB0018
/-- SLV_MEM_CORR (R236 of 08_sliver_cores.md): fields COUNT [31:0] RO. -/
def Reg.SLV_MEM_CORR : Nat := 0xB001C
/-- SYN_RT_CTRL (R267 of 09_sweep_synthesis.md): fields ENABLE [0] WC, NFULL [2:1] WC, NBAND [4:3] WC, DATUM_ROW [15:8] WC, LEAD [25:16] WC. -/
def Reg.SYN_RT_CTRL (i : Nat) : Nat := 0xC0000 + i * 0x40
/-- SYN_RT_GEOM (R267 of 09_sweep_synthesis.md): fields NOZ_X_MM [15:0] WC, Y_OFF_MM [31:16] WC. -/
def Reg.SYN_RT_GEOM (i : Nat) : Nat := 0xC0004 + i * 0x40
/-- SYN_RT_PITCH (R267 of 09_sweep_synthesis.md): fields PITCH_NM [21:0] WC. -/
def Reg.SYN_RT_PITCH (i : Nat) : Nat := 0xC0008 + i * 0x40
/-- SYN_RT_AGE (R267 of 09_sweep_synthesis.md): fields AGE_MAX [9:0] WC, PRED_DECAY [23:16] WC, PRED_MAX [27:24] WC. -/
def Reg.SYN_RT_AGE (i : Nat) : Nat := 0xC000C + i * 0x40
/-- SYN_RT_WEIGHT (R267 of 09_sweep_synthesis.md): fields W_FULL [7:0] WC, W_BAND [15:8] WC, DIFF_MAX [23:16] WC, DOM [31:24] WC. -/
def Reg.SYN_RT_WEIGHT (i : Nat) : Nat := 0xC0010 + i * 0x40
/-- SYN_RT_STEREO (R267 of 09_sweep_synthesis.md): fields BASE_MM [15:0] WC, HCONF_MIN [23:16] WC, PRIOR_CONF [31:24] WC. -/
def Reg.SYN_RT_STEREO (i : Nat) : Nat := 0xC0014 + i * 0x40
/-- SYN_RT_FILL (R267 of 09_sweep_synthesis.md): fields FILL_RGB [23:0] WC. -/
def Reg.SYN_RT_FILL (i : Nat) : Nat := 0xC0018 + i * 0x40
/-- SYN_RT_HEIGHT (R267 of 09_sweep_synthesis.md): fields HMAX_MM [9:0] WC. -/
def Reg.SYN_RT_HEIGHT (i : Nat) : Nat := 0xC001C + i * 0x40
/-- SYN_RT_RING_LO (R267 of 09_sweep_synthesis.md): fields ADDR [31:16] WC. -/
def Reg.SYN_RT_RING_LO (i : Nat) : Nat := 0xC0020 + i * 0x40
/-- SYN_RT_RING_HI (R267 of 09_sweep_synthesis.md): fields ADDR [7:0] WC. -/
def Reg.SYN_RT_RING_HI (i : Nat) : Nat := 0xC0024 + i * 0x40
/-- SYN_RT_RING (R267 of 09_sweep_synthesis.md): fields SLOTS [4:0] WC. -/
def Reg.SYN_RT_RING (i : Nat) : Nat := 0xC0028 + i * 0x40
/-- SYN_RT_STATUS (R267 of 09_sweep_synthesis.md): fields STATUS [1:0] RO, MEAN_CONF [15:8] RO, STARVED [31:16] RO. -/
def Reg.SYN_RT_STATUS (i : Nat) : Nat := 0xC002C + i * 0x40
/-- SYN_RT_EVENTS (R267 of 09_sweep_synthesis.md): fields EVENTS [6:0] W1C. -/
def Reg.SYN_RT_EVENTS (i : Nat) : Nat := 0xC0030 + i * 0x40
/-- SYN_RT_FILLED (R267 of 09_sweep_synthesis.md): fields N_FILLED [18:0] RO. -/
def Reg.SYN_RT_FILLED (i : Nat) : Nat := 0xC0034 + i * 0x40
/-- SYN_CAM_FX (R267 of 09_sweep_synthesis.md): fields FX [31:0] WC. -/
def Reg.SYN_CAM_FX (i : Nat) : Nat := 0xC0800 + i * 0x40
/-- SYN_CAM_FY (R267 of 09_sweep_synthesis.md): fields FY [31:0] WC. -/
def Reg.SYN_CAM_FY (i : Nat) : Nat := 0xC0804 + i * 0x40
/-- SYN_CAM_CX (R267 of 09_sweep_synthesis.md): fields CX [31:0] WC. -/
def Reg.SYN_CAM_CX (i : Nat) : Nat := 0xC0808 + i * 0x40
/-- SYN_CAM_CY (R267 of 09_sweep_synthesis.md): fields CY [31:0] WC. -/
def Reg.SYN_CAM_CY (i : Nat) : Nat := 0xC080C + i * 0x40
/-- SYN_CAM_K1 (R267 of 09_sweep_synthesis.md): fields K1 [31:0] WC. -/
def Reg.SYN_CAM_K1 (i : Nat) : Nat := 0xC0810 + i * 0x40
/-- SYN_CAM_K2 (R267 of 09_sweep_synthesis.md): fields K2 [31:0] WC. -/
def Reg.SYN_CAM_K2 (i : Nat) : Nat := 0xC0814 + i * 0x40
/-- SYN_CAM_FULL_ORG (R267 of 09_sweep_synthesis.md): fields ORG_X [13:0] WC, ORG_Y [29:16] WC, BIN [31:30] WC. -/
def Reg.SYN_CAM_FULL_ORG (i : Nat) : Nat := 0xC0818 + i * 0x40
/-- SYN_CAM_BAND_ORG (R267 of 09_sweep_synthesis.md): fields ORG_X [13:0] WC, ORG_Y [29:16] WC, BIN [31:30] WC. -/
def Reg.SYN_CAM_BAND_ORG (i : Nat) : Nat := 0xC081C + i * 0x40
/-- SYN_CAM_BLACK (R267 of 09_sweep_synthesis.md): fields BLACK [11:0] WC. -/
def Reg.SYN_CAM_BLACK (i : Nat) : Nat := 0xC0820 + i * 0x40
/-- SYN_CAM_GAIN_RG (R267 of 09_sweep_synthesis.md): fields GAIN_R [15:0] WC, GAIN_G [31:16] WC. -/
def Reg.SYN_CAM_GAIN_RG (i : Nat) : Nat := 0xC0824 + i * 0x40
/-- SYN_CAM_GAIN_B (R267 of 09_sweep_synthesis.md): fields GAIN_B [15:0] WC. -/
def Reg.SYN_CAM_GAIN_B (i : Nat) : Nat := 0xC0828 + i * 0x40
/-- SYN_JOB (R261 of 09_sweep_synthesis.md): fields BUDGET [23:0] WC. -/
def Reg.SYN_JOB : Nat := 0xC1000
/-- SYN_IRQ_ENABLE (R267 of 09_sweep_synthesis.md): fields EN [6:0] WC. -/
def Reg.SYN_IRQ_ENABLE : Nat := 0xC1004
/-- SYN_IRQ_STATUS (R267 of 09_sweep_synthesis.md): fields EVENTS [6:0] W1C. -/
def Reg.SYN_IRQ_STATUS : Nat := 0xC1008
/-- SYN_VW_CTRL (R294 of 10_view_synthesis.md): fields ENABLE [0] WC, HUD [15:8] WC, DIV [23:16] WC. -/
def Reg.SYN_VW_CTRL : Nat := 0xC2000
/-- SYN_VW_DESC_LO (R294 of 10_view_synthesis.md): fields ADDR [31:4] WC. -/
def Reg.SYN_VW_DESC_LO : Nat := 0xC2004
/-- SYN_VW_DESC_HI (R294 of 10_view_synthesis.md): fields ADDR [7:0] WC. -/
def Reg.SYN_VW_DESC_HI : Nat := 0xC2008
/-- SYN_VW_PIC_LO (R294 of 10_view_synthesis.md): fields ADDR [31:12] WC. -/
def Reg.SYN_VW_PIC_LO : Nat := 0xC200C
/-- SYN_VW_PIC_HI (R294 of 10_view_synthesis.md): fields ADDR [7:0] WC. -/
def Reg.SYN_VW_PIC_HI : Nat := 0xC2010
/-- SYN_VW_STATUS (R294 of 10_view_synthesis.md): fields DV [7:0] RO, SHED30 [8] RO, BUSY [11:9] RO, LAST_SLOT [13:12] RO, PICS [31:16] RO. -/
def Reg.SYN_VW_STATUS : Nat := 0xC2014
/-- SYN_VW_LAST (R294 of 10_view_synthesis.md): fields VIEW_START [31:0] RO. -/
def Reg.SYN_VW_LAST : Nat := 0xC2018
/-- SYN_VW_REPEATS (R294 of 10_view_synthesis.md): fields COUNT [31:0] RO. -/
def Reg.SYN_VW_REPEATS : Nat := 0xC201C
/-- SYN_VW_EVENTS (R294 of 10_view_synthesis.md): fields EVENTS [8:0] W1C. -/
def Reg.SYN_VW_EVENTS : Nat := 0xC2020
/-- SYN_VW_IRQ_ENABLE (R294 of 10_view_synthesis.md): fields EN [8:0] WC. -/
def Reg.SYN_VW_IRQ_ENABLE : Nat := 0xC2024
/-- TRK_RT_CTRL (R315 of 11_tracks_and_decisions.md): fields PULSE [0] WC, BLIND [2:1] WC, TRACKS [3] WC, MIN_ON [15:8] WC, MIN_OFF [23:16] WC. -/
def Reg.TRK_RT_CTRL (i : Nat) : Nat := 0xD0000 + i * 0x40
/-- TRK_RT_THR (R315 of 11_tracks_and_decisions.md): fields ON_THR [7:0] WC, OFF_THR [15:8] WC, PROT_THR [23:16] WC, CONF_MIN [31:24] WC. -/
def Reg.TRK_RT_THR (i : Nat) : Nat := 0xD0004 + i * 0x40
/-- TRK_RT_COL0 (R315 of 11_tracks_and_decisions.md): fields COL0 [20:0] WC. -/
def Reg.TRK_RT_COL0 (i : Nat) : Nat := 0xD0008 + i * 0x40
/-- TRK_RT_PITCH (R315 of 11_tracks_and_decisions.md): fields PITCH [20:0] WC, SPREAD [27:24] WC. -/
def Reg.TRK_RT_PITCH (i : Nat) : Nat := 0xD000C + i * 0x40
/-- TRK_RT_MARGIN (R315 of 11_tracks_and_decisions.md): fields FRONT_MM [7:0] WC, BACK_MM [15:8] WC, MARGIN_MIN [23:16] WC. -/
def Reg.TRK_RT_MARGIN (i : Nat) : Nat := 0xD0010 + i * 0x40
/-- TRK_RT_ADV (R315 of 11_tracks_and_decisions.md): fields ADV_NS [17:0] WC. -/
def Reg.TRK_RT_ADV (i : Nat) : Nat := 0xD0014 + i * 0x40
/-- TRK_RT_CLASS (R315 of 11_tracks_and_decisions.md): fields ROLE [31:0] WC. -/
def Reg.TRK_RT_CLASS (i : Nat) : Nat := 0xD0018 + i * 0x40
/-- TRK_RT_MAP_LO (R315 of 11_tracks_and_decisions.md): fields ADDR [31:1] WC. -/
def Reg.TRK_RT_MAP_LO (i : Nat) : Nat := 0xD001C + i * 0x40
/-- TRK_RT_MAP_HI (R315 of 11_tracks_and_decisions.md): fields ADDR [7:0] WC. -/
def Reg.TRK_RT_MAP_HI (i : Nat) : Nat := 0xD0020 + i * 0x40
/-- TRK_RT_STATUS (R315 of 11_tracks_and_decisions.md): fields STILL [0] RO, HOLD [1] RO, DETS [15:8] RO, ON [26:16] RO. -/
def Reg.TRK_RT_STATUS (i : Nat) : Nat := 0xD0024 + i * 0x40
/-- TRK_RT_EVENTS (R315 of 11_tracks_and_decisions.md): fields EVENTS [6:0] W1C. -/
def Reg.TRK_RT_EVENTS (i : Nat) : Nat := 0xD0028 + i * 0x40
/-- TRK_CTRL (R315 of 11_tracks_and_decisions.md): fields CLEAR [0] WC, CONFIRM_HITS [15:8] WC, CONFIRM_CONF [23:16] WC, DROP_CONF [31:24] WC. -/
def Reg.TRK_CTRL : Nat := 0xD1000
/-- TRK_ASSOC (R315 of 11_tracks_and_decisions.md): fields GATE_MM [15:0] WC, CONF_GAIN [23:16] WC, MISS_DECAY [31:24] WC. -/
def Reg.TRK_ASSOC : Nat := 0xD1004
/-- TRK_LIFE (R315 of 11_tracks_and_decisions.md): fields MISS_MAX [7:0] WC, RETAIN [17:8] WC, DET_MIN [31:24] WC. -/
def Reg.TRK_LIFE : Nat := 0xD1008
/-- TRK_STILL (R315 of 11_tracks_and_decisions.md): fields STILL_UM [15:0] WC. -/
def Reg.TRK_STILL : Nat := 0xD100C
/-- TRK_JOB (R315 of 11_tracks_and_decisions.md): fields BUDGET [23:0] WC. -/
def Reg.TRK_JOB : Nat := 0xD1010
/-- TRK_SNAP_LO (R315 of 11_tracks_and_decisions.md): fields ADDR [31:16] WC. -/
def Reg.TRK_SNAP_LO : Nat := 0xD1014
/-- TRK_SNAP_HI (R315 of 11_tracks_and_decisions.md): fields ADDR [7:0] WC, ENABLE [31] WC. -/
def Reg.TRK_SNAP_HI : Nat := 0xD1018
/-- TRK_OCCUPANCY (R315 of 11_tracks_and_decisions.md): fields USED [12:0] RO, CONFIRMED [28:16] RO. -/
def Reg.TRK_OCCUPANCY : Nat := 0xD1020
/-- TRK_STATS (R315 of 11_tracks_and_decisions.md): fields UNTRACKED [31:0] RO. -/
def Reg.TRK_STATS : Nat := 0xD1024
/-- TRK_EVICT (R315 of 11_tracks_and_decisions.md): fields EVICTED [31:0] RO. -/
def Reg.TRK_EVICT : Nat := 0xD1028
/-- TRK_IRQ_ENABLE (R315 of 11_tracks_and_decisions.md): fields EN [6:0] WC. -/
def Reg.TRK_IRQ_ENABLE : Nat := 0xD102C
/-- TRK_IRQ_STATUS (R315 of 11_tracks_and_decisions.md): fields EVENTS [6:0] W1C. -/
def Reg.TRK_IRQ_STATUS : Nat := 0xD1030
/-- FRS_CTRL (R339 of 12_field_raster.md): fields ENABLE [0] WC, RB_SAFE [1] WC, FAULT_CLR [2] WC, RB_LIMIT [15:8] WC. -/
def Reg.FRS_CTRL : Nat := 0xE0000
/-- FRS_CHAIN_EN (R339 of 12_field_raster.md): fields EN [7:0] WC, TK_MASK [15:8] WC. -/
def Reg.FRS_CHAIN_EN : Nat := 0xE0004
/-- FRS_LINE (R339 of 12_field_raster.md): fields LENGTH [10:0] WC. -/
def Reg.FRS_LINE : Nat := 0xE0008
/-- FRS_FRAME (R339 of 12_field_raster.md): fields LINES [15:0] WC, MATCH [31:16] WC. -/
def Reg.FRS_FRAME : Nat := 0xE000C
/-- FRS_TIMING (R339 of 12_field_raster.md): fields FETCH_NS [17:0] WC. -/
def Reg.FRS_TIMING : Nat := 0xE0010
/-- FRS_PULSE (R339 of 12_field_raster.md): fields STEPS [18:0] WC. -/
def Reg.FRS_PULSE : Nat := 0xE0014
/-- FRS_CHAIN_LEN (R339 of 12_field_raster.md): fields LEN [7:0] WC. -/
def Reg.FRS_CHAIN_LEN (i : Nat) : Nat := 0xE0020 + i * 0x4
/-- FRS_EHOLD (R330 of 12_field_raster.md): fields MODE [1:0] RW, RELEASE_PENDING [2] RO, KEY [31:16] WO. -/
def Reg.FRS_EHOLD : Nat := 0xE0040
/-- FRS_STATUS (R339 of 12_field_raster.md): fields ENABLED [0] RO, TAKEOVER [1] RO, FAULT_SAFE [2] RO, OUTCOME [4:3] RO, CAUSE [15:8] RO, NLINES [31:16] RO. -/
def Reg.FRS_STATUS : Nat := 0xE0044
/-- FRS_UNDERRUNS (R339 of 12_field_raster.md): fields COUNT [31:0] RO. -/
def Reg.FRS_UNDERRUNS : Nat := 0xE0048
/-- FRS_HOLDS (R339 of 12_field_raster.md): fields COUNT [31:0] RO. -/
def Reg.FRS_HOLDS : Nat := 0xE004C
/-- FRS_RB (R339 of 12_field_raster.md): fields CHAINS [7:0] RO, DIRECT [8] RO, RUN [31:16] RO. -/
def Reg.FRS_RB : Nat := 0xE0050
/-- FRS_TOL (R338 of 12_field_raster.md): fields TOL_NS [31:0] RO. -/
def Reg.FRS_TOL : Nat := 0xE0054
/-- FRS_EVENTS (R339 of 12_field_raster.md): fields EVENTS [8:0] W1C. -/
def Reg.FRS_EVENTS : Nat := 0xE0058
/-- FRS_IRQ_ENABLE (R339 of 12_field_raster.md): fields EN [8:0] WC. -/
def Reg.FRS_IRQ_ENABLE : Nat := 0xE005C
/-- VRS_CTRL (R363 of 13_view_raster.md): fields DP_EN [0] WC, LVDS_EN [1] WC, ADAPTIVE [2] WC, SSC [3] WC, FORMAT [5:4] WC, HS_VS_NEG [7:6] WC. -/
def Reg.VRS_CTRL : Nat := 0xF0000
/-- VRS_LINK (R363 of 13_view_raster.md): fields RATE [1:0] WC, LANES [3:2] WC, FALLBACK [4] WC. -/
def Reg.VRS_LINK : Nat := 0xF0004
/-- VRS_PCLK (R363 of 13_view_raster.md): fields HZ [31:0] WC. -/
def Reg.VRS_PCLK : Nat := 0xF0008
/-- VRS_HTIME0 (R363 of 13_view_raster.md): fields HACT [15:0] WC, HTOTAL [31:16] WC. -/
def Reg.VRS_HTIME0 : Nat := 0xF000C
/-- VRS_HTIME1 (R363 of 13_view_raster.md): fields HFP [11:0] WC, HSW [23:12] WC. -/
def Reg.VRS_HTIME1 : Nat := 0xF0010
/-- VRS_VTIME0 (R363 of 13_view_raster.md): fields VACT [15:0] WC, VFP_MIN [31:16] WC. -/
def Reg.VRS_VTIME0 : Nat := 0xF0014
/-- VRS_VTIME1 (R363 of 13_view_raster.md): fields VSW [7:0] WC, VBP [19:8] WC. -/
def Reg.VRS_VTIME1 : Nat := 0xF0018
/-- VRS_BG (R363 of 13_view_raster.md): fields BG [23:0] WC. -/
def Reg.VRS_BG : Nat := 0xF001C
/-- VRS_STATIC (R363 of 13_view_raster.md): fields STATIC_N [7:0] WC, SLOW [12:8] WC. -/
def Reg.VRS_STATIC : Nat := 0xF0020
/-- VRS_LINE (R363 of 13_view_raster.md): fields MATCH [11:0] WC. -/
def Reg.VRS_LINE : Nat := 0xF0024
/-- VRS_LV_CTRL (R363 of 13_view_raster.md): fields SCALE2 [0] WC, JEIDA [1] WC, LV_DIV [5:2] WC. -/
def Reg.VRS_LV_CTRL : Nat := 0xF0040
/-- VRS_LV_PCLK (R363 of 13_view_raster.md): fields HZ [31:0] WC. -/
def Reg.VRS_LV_PCLK : Nat := 0xF0044
/-- VRS_LV_HTIME0 (R363 of 13_view_raster.md): fields HACT [15:0] WC, HTOTAL [31:16] WC. -/
def Reg.VRS_LV_HTIME0 : Nat := 0xF0048
/-- VRS_LV_HTIME1 (R363 of 13_view_raster.md): fields HFP [11:0] WC, HSW [23:12] WC. -/
def Reg.VRS_LV_HTIME1 : Nat := 0xF004C
/-- VRS_LV_VTIME0 (R363 of 13_view_raster.md): fields VACT [15:0] WC, VFP_MIN [31:16] WC. -/
def Reg.VRS_LV_VTIME0 : Nat := 0xF0050
/-- VRS_LV_VTIME1 (R363 of 13_view_raster.md): fields VSW [7:0] WC, VBP [19:8] WC. -/
def Reg.VRS_LV_VTIME1 : Nat := 0xF0054
/-- VRS_STATUS (R363 of 13_view_raster.md): fields HPD [0] RO, LINK_UP [1] RO, RATE [3:2] RO, LANES [5:4] RO, SLOW [6] RO, BLANKED [7] RO, PENDING [8] RO, STATIC_RUN [31:16] RO. -/
def Reg.VRS_STATUS : Nat := 0xF0080
/-- VRS_VTOTAL (R363 of 13_view_raster.md): fields LINES [19:0] RO. -/
def Reg.VRS_VTOTAL : Nat := 0xF0084
/-- VRS_LV_VTOTAL (R363 of 13_view_raster.md): fields LINES [19:0] RO. -/
def Reg.VRS_LV_VTOTAL : Nat := 0xF0088
/-- VRS_UNDERRUNS (R363 of 13_view_raster.md): fields DP [15:0] RO, LV [31:16] RO. -/
def Reg.VRS_UNDERRUNS : Nat := 0xF008C
/-- VRS_TOL (R355 of 13_view_raster.md): fields TOL_NS [31:0] RO. -/
def Reg.VRS_TOL : Nat := 0xF0090
/-- VRS_CRC_EXP (R363 of 13_view_raster.md): fields CRC [31:0] RO. -/
def Reg.VRS_CRC_EXP : Nat := 0xF0094
/-- VRS_CRC_ACT (R363 of 13_view_raster.md): fields CRC [31:0] RO. -/
def Reg.VRS_CRC_ACT : Nat := 0xF0098
/-- VRS_LV_CRC_EXP (R363 of 13_view_raster.md): fields CRC [31:0] RO. -/
def Reg.VRS_LV_CRC_EXP : Nat := 0xF009C
/-- VRS_LV_CRC_ACT (R363 of 13_view_raster.md): fields CRC [31:0] RO. -/
def Reg.VRS_LV_CRC_ACT : Nat := 0xF00A0
/-- VRS_EVENTS (R363 of 13_view_raster.md): fields EVENTS [11:0] W1C. -/
def Reg.VRS_EVENTS : Nat := 0xF00A4
/-- VRS_IRQ_ENABLE (R363 of 13_view_raster.md): fields EN [11:0] WC. -/
def Reg.VRS_IRQ_ENABLE : Nat := 0xF00A8
/-- VRS_DPCD (R363 of 13_view_raster.md): fields DPCD [31:0] RO. -/
def Reg.VRS_DPCD (i : Nat) : Nat := 0xF1000 + i * 0x4
/-- VRS_EDID (R363 of 13_view_raster.md): fields EDID [31:0] RO. -/
def Reg.VRS_EDID (i : Nat) : Nat := 0xF1100 + i * 0x4
/-- SCH_CTX_CTRL (R387 of 14_scheduling_and_draw.md): fields PAUSE [0] WC, CLASS [1] WC, TICKETS [15:8] WC. -/
def Reg.SCH_CTX_CTRL (i : Nat) : Nat := 0x100000 + i * 0x20
/-- SCH_CTX_JOB_LO (R387 of 14_scheduling_and_draw.md): fields ADDR [31:0] WC. -/
def Reg.SCH_CTX_JOB_LO (i : Nat) : Nat := 0x100004 + i * 0x20
/-- SCH_CTX_JOB_HI (R387 of 14_scheduling_and_draw.md): fields ADDR [7:0] WC. -/
def Reg.SCH_CTX_JOB_HI (i : Nat) : Nat := 0x100008 + i * 0x20
/-- SCH_CTX_JOB_COUNT (R387 of 14_scheduling_and_draw.md): fields COUNT [11:0] WC. -/
def Reg.SCH_CTX_JOB_COUNT (i : Nat) : Nat := 0x10000C + i * 0x20
/-- SCH_CTX_STATUS (R387 of 14_scheduling_and_draw.md): fields RESIDENT [0] RO, ROLE [1] RO, RUNNING [2] RO, PREEMPTED [3] RO, SUSPENDED [4] RO, HUDDLE [15:8] RO, EPOCH [31:16] RO. -/
def Reg.SCH_CTX_STATUS (i : Nat) : Nat := 0x100010 + i * 0x20
/-- SCH_CTX_SHARE (R387 of 14_scheduling_and_draw.md): fields BANKS [8:0] RO, RX_4K [22:16] RO. -/
def Reg.SCH_CTX_SHARE (i : Nat) : Nat := 0x100014 + i * 0x20
/-- SCH_CTX_TPL_LO (R387 of 14_scheduling_and_draw.md): fields ADDR [31:0] RO. -/
def Reg.SCH_CTX_TPL_LO (i : Nat) : Nat := 0x100018 + i * 0x20
/-- SCH_CTX_TPL_HI (R387 of 14_scheduling_and_draw.md): fields ADDR [7:0] RO. -/
def Reg.SCH_CTX_TPL_HI (i : Nat) : Nat := 0x10001C + i * 0x20
/-- SCH_POOL (R387 of 14_scheduling_and_draw.md): fields TOTAL [8:0] RO, FREE [24:16] RO. -/
def Reg.SCH_POOL : Nat := 0x101000
/-- SCH_RESIDENT (R387 of 14_scheduling_and_draw.md): fields MASK [31:0] RO. -/
def Reg.SCH_RESIDENT : Nat := 0x101004
/-- SCH_DRAW_SEED (R382 of 14_scheduling_and_draw.md): fields SEED [31:0] WC. -/
def Reg.SCH_DRAW_SEED : Nat := 0x101008
/-- SCH_DRAW_COPY (R383 of 14_scheduling_and_draw.md): fields CLASS [0] WC, TICKETS [15:8] WC. -/
def Reg.SCH_DRAW_COPY : Nat := 0x10100C
/-- SCH_DRAW_DEAD (R384 of 14_scheduling_and_draw.md): fields COUNT [31:0] RO. -/
def Reg.SCH_DRAW_DEAD : Nat := 0x101010
/-- SCH_DRAW_REVOKE (R384 of 14_scheduling_and_draw.md): fields COUNT [31:0] RO. -/
def Reg.SCH_DRAW_REVOKE : Nat := 0x101014
/-- SCH_PREEMPTS (R387 of 14_scheduling_and_draw.md): fields COUNT [31:0] RO. -/
def Reg.SCH_PREEMPTS : Nat := 0x101018
/-- SCH_EVENTS (R387 of 14_scheduling_and_draw.md): fields EVENTS [3:0] W1C. -/
def Reg.SCH_EVENTS : Nat := 0x10101C
/-- SCH_IRQ_ENABLE (R387 of 14_scheduling_and_draw.md): fields EN [3:0] WC. -/
def Reg.SCH_IRQ_ENABLE : Nat := 0x101020
/-- MEM_SR_CTRL (R406 of 15_memory_system.md): fields ENABLE [0] WC, IDLE_NS [31:16] WC. -/
def Reg.MEM_SR_CTRL : Nat := 0x110000
/-- MEM_SR_MARGIN (R406 of 15_memory_system.md): fields MARGIN_NS [15:0] WC. -/
def Reg.MEM_SR_MARGIN : Nat := 0x110004
/-- MEM_COPY (R406 of 15_memory_system.md): fields RATE [5:0] WC. -/
def Reg.MEM_COPY : Nat := 0x110008
/-- MEM_SCRUB (R406 of 15_memory_system.md): fields COURT_MS [15:0] WC, DDR_S [31:16] WC. -/
def Reg.MEM_SCRUB : Nat := 0x11000C
/-- MEM_STATUS (R406 of 15_memory_system.md): fields SR [7:0] RO, INIT_DONE [8] RO, QUEUED [24:16] RO. -/
def Reg.MEM_STATUS : Nat := 0x110010
/-- MEM_TOL (R406 of 15_memory_system.md): fields TOL_NS [31:0] RO. -/
def Reg.MEM_TOL : Nat := 0x110014
/-- MEM_COURT_CORR (R406 of 15_memory_system.md): fields COUNT [31:0] RO. -/
def Reg.MEM_COURT_CORR : Nat := 0x110018
/-- MEM_COURT_UE (R406 of 15_memory_system.md): fields COUNT [31:0] RO. -/
def Reg.MEM_COURT_UE : Nat := 0x11001C
/-- MEM_DDR_CORR (R406 of 15_memory_system.md): fields COUNT [31:0] RO. -/
def Reg.MEM_DDR_CORR : Nat := 0x110020
/-- MEM_DDR_UE (R406 of 15_memory_system.md): fields COUNT [31:0] RO. -/
def Reg.MEM_DDR_UE : Nat := 0x110024
/-- MEM_ERR_ADDR_LO (R406 of 15_memory_system.md): fields ADDR [31:6] RO. -/
def Reg.MEM_ERR_ADDR_LO : Nat := 0x110028
/-- MEM_ERR_ADDR_HI (R406 of 15_memory_system.md): fields ADDR [7:0] RO. -/
def Reg.MEM_ERR_ADDR_HI : Nat := 0x11002C
/-- MEM_ERR_INFO (R406 of 15_memory_system.md): fields LPDDR6 [0] RO, INPUT [15:8] RO. -/
def Reg.MEM_ERR_INFO : Nat := 0x110030
/-- MEM_SR_ENTRIES (R406 of 15_memory_system.md): fields COUNT [31:0] RO. -/
def Reg.MEM_SR_ENTRIES : Nat := 0x110034
/-- MEM_EVENTS (R406 of 15_memory_system.md): fields EVENTS [7:0] W1C. -/
def Reg.MEM_EVENTS : Nat := 0x110038
/-- MEM_IRQ_ENABLE (R406 of 15_memory_system.md): fields EN [7:0] WC. -/
def Reg.MEM_IRQ_ENABLE : Nat := 0x11003C
/-- MEM_CH_STATUS (R406 of 15_memory_system.md): fields SR [0] RO, TRAINED [1] RO, MR4 [10:8] RO. -/
def Reg.MEM_CH_STATUS (i : Nat) : Nat := 0x110100 + i * 0x10
/-- MEM_CH_BYTES (R406 of 15_memory_system.md): fields BYTES [31:0] RO. -/
def Reg.MEM_CH_BYTES (i : Nat) : Nat := 0x110104 + i * 0x10
/-- MEM_CH_SRTIME (R406 of 15_memory_system.md): fields TICKS [31:0] RO. -/
def Reg.MEM_CH_SRTIME (i : Nat) : Nat := 0x110108 + i * 0x10
/-- HPT_STATUS (R431 of 16_host_port.md): fields EVENTS [5:0] W1C, READY [8] RO, SELF_REFRESH [9] RO, FSP [11:10] RO, BG_MODE [12] RO, OPEN [31:16] RO. -/
def Reg.HPT_STATUS : Nat := 0x120000
/-- HPT_UNMAPPED_ADDR (R431 of 16_host_port.md): fields VALUE [31:0] RO. -/
def Reg.HPT_UNMAPPED_ADDR : Nat := 0x120004
/-- HPT_PARTIAL_ADDR (R431 of 16_host_port.md): fields VALUE [31:0] RO. -/
def Reg.HPT_PARTIAL_ADDR : Nat := 0x120008
/-- HPT_ACTS (R431 of 16_host_port.md): fields VALUE [31:0] RO. -/
def Reg.HPT_ACTS : Nat := 0x12000C
/-- HPT_READ_BYTES (R431 of 16_host_port.md): fields VALUE [31:0] RO. -/
def Reg.HPT_READ_BYTES : Nat := 0x120010
/-- HPT_WRITE_BYTES (R431 of 16_host_port.md): fields VALUE [31:0] RO. -/
def Reg.HPT_WRITE_BYTES : Nat := 0x120014
/-- HPT_REFRESH (R431 of 16_host_port.md): fields VALUE [31:0] RO. -/
def Reg.HPT_REFRESH : Nat := 0x120018
/-- HPT_RATE (R431 of 16_host_port.md): fields MTS [13:0] RO. -/
def Reg.HPT_RATE : Nat := 0x12001C
/-- HPT_IRQ_ENABLE (R431 of 16_host_port.md): fields EN [5:0] WC. -/
def Reg.HPT_IRQ_ENABLE : Nat := 0x120020
/-- LYS_RING (R456 of 17_lysba_ring.md): fields ID [2:0] WC, SIZE_M1 [6:4] WC, PAIR [8] WC, LINK_EN [10:9] WC. -/
def Reg.LYS_RING : Nat := 0x130000
/-- LYS_TK (R456 of 17_lysba_ring.md): fields ENABLE [0] WC, POLICY [2:1] WC, HUD [15:8] WC. -/
def Reg.LYS_TK : Nat := 0x130004
/-- LYS_TK_MAP (R456 of 17_lysba_ring.md): fields CHAIN [23:0] WC. -/
def Reg.LYS_TK_MAP : Nat := 0x130008
/-- LYS_TK_JOB (R456 of 17_lysba_ring.md): fields BUDGET [23:0] WC. -/
def Reg.LYS_TK_JOB : Nat := 0x13000C
/-- LYS_SYNC_STATUS (R456 of 17_lysba_ring.md): fields MASTER [0] RO, LOCKED [1] RO, PERIOD_MISMATCH [2] RO, ERROR [15:8] RO. -/
def Reg.LYS_SYNC_STATUS : Nat := 0x130010
/-- LYS_SYNC_OFFSET_LO (R456 of 17_lysba_ring.md): fields OFFSET [31:0] RO. -/
def Reg.LYS_SYNC_OFFSET_LO : Nat := 0x130014
/-- LYS_SYNC_OFFSET_HI (R456 of 17_lysba_ring.md): fields OFFSET [15:0] RO. -/
def Reg.LYS_SYNC_OFFSET_HI : Nat := 0x130018
/-- LYS_PAIR_STATUS (R456 of 17_lysba_ring.md): fields PARTNER_OK [0] RO, TAKEOVER [1] RO, MISSED [3:2] RO, BATCH [31:16] RO. -/
def Reg.LYS_PAIR_STATUS : Nat := 0x13001C
/-- LYS_STATS (R456 of 17_lysba_ring.md): fields ORPHAN_REPLY [15:0] RO, STALE_REPLY [31:16] RO. -/
def Reg.LYS_STATS : Nat := 0x130020
/-- LYS_DROPS (R456 of 17_lysba_ring.md): fields HOPS [15:0] RO, TYPE [31:16] RO. -/
def Reg.LYS_DROPS : Nat := 0x130024
/-- LYS_MIRROR_BEATS (R456 of 17_lysba_ring.md): fields SENT [15:0] RO, RECEIVED [31:16] RO. -/
def Reg.LYS_MIRROR_BEATS : Nat := 0x130028
/-- LYS_EVENTS (R456 of 17_lysba_ring.md): fields EVENTS [10:0] W1C. -/
def Reg.LYS_EVENTS : Nat := 0x13002C
/-- LYS_IRQ_ENABLE (R456 of 17_lysba_ring.md): fields EN [10:0] WC. -/
def Reg.LYS_IRQ_ENABLE : Nat := 0x130030
/-- LYS_LINK_STATUS (R456 of 17_lysba_ring.md): fields STATE [2:0] RO, NARROW [3] RO, FAIL_CAUSE [7:4] RO, PEER_ID [10:8] RO, LANE_OK [23:16] RO. -/
def Reg.LYS_LINK_STATUS (i : Nat) : Nat := 0x130100 + i * 0x20
/-- LYS_LINK_DELAY (R456 of 17_lysba_ring.md): fields STEPS [15:0] RO. -/
def Reg.LYS_LINK_DELAY (i : Nat) : Nat := 0x130104 + i * 0x20
/-- LYS_LINK_ERR (R456 of 17_lysba_ring.md): fields CRC [15:0] RO, REPLAY [31:16] RO. -/
def Reg.LYS_LINK_ERR (i : Nat) : Nat := 0x130108 + i * 0x20
/-- LYS_LINK_RETRAINS (R456 of 17_lysba_ring.md): fields RETRAIN [15:0] RO, FAIL [31:16] RO. -/
def Reg.LYS_LINK_RETRAINS (i : Nat) : Nat := 0x13010C + i * 0x20
/-- LYS_LINK_SLOTS (R456 of 17_lysba_ring.md): fields DATA [31:0] RO. -/
def Reg.LYS_LINK_SLOTS (i : Nat) : Nat := 0x130110 + i * 0x20
/-- SEC_STATUS (R493 of 19_boot_and_security.md): fields BENCH [0] RO, OWNER [1] RO, IDENTITY [2] RO, START_OK [3] RO, OWNER_EN [4] RO, FW_SLOT [6:5] RO, BENCH_F [7] RO, QUEUED [12:8] RO. -/
def Reg.SEC_STATUS : Nat := 0x140000
/-- SEC_BOOT (R493 of 19_boot_and_security.md): fields REASON [7:0] RO, FAILED [11:8] RO, FW_ERR [23:16] RO. -/
def Reg.SEC_BOOT : Nat := 0x140004
/-- SEC_FW_MIN (R493 of 19_boot_and_security.md): fields VERSION [31:0] RO. -/
def Reg.SEC_FW_MIN : Nat := 0x140008
/-- SEC_OWNER_ID_LO (R493 of 19_boot_and_security.md): fields KEY_ID [31:0] RO. -/
def Reg.SEC_OWNER_ID_LO : Nat := 0x14000C
/-- SEC_OWNER_ID_HI (R493 of 19_boot_and_security.md): fields KEY_ID [31:0] RO. -/
def Reg.SEC_OWNER_ID_HI : Nat := 0x140010
/-- SEC_OWNER_SEQ (R493 of 19_boot_and_security.md): fields SEQ [31:0] RO. -/
def Reg.SEC_OWNER_SEQ : Nat := 0x140014
/-- SEC_LAST (R493 of 19_boot_and_security.md): fields OPCODE [15:0] RO, CODE [23:16] RO. -/
def Reg.SEC_LAST : Nat := 0x140018
/-- SEC_EVENTS (R493 of 19_boot_and_security.md): fields EVENTS [5:0] W1C. -/
def Reg.SEC_EVENTS : Nat := 0x14001C
/-- SEC_IRQ_ENABLE (R493 of 19_boot_and_security.md): fields EN [5:0] WC. -/
def Reg.SEC_IRQ_ENABLE : Nat := 0x140020
/-- SEC_DEVICE_ID (R493 of 19_boot_and_security.md): fields ID [31:0] RO. -/
def Reg.SEC_DEVICE_ID (i : Nat) : Nat := 0x140040 + i * 0x4
/-- PWR_STATUS (R515 of 20_power_reset_pins.md): fields LEVEL [2:0] RO, HOLD_DONE [3] RO, THERMAL [4] RO, STOP_TEMP [5] RO, PG [13:8] RO, STABLE [31:16] RO. -/
def Reg.PWR_STATUS : Nat := 0x150000
/-- PWR_BUS (R515 of 20_power_reset_pins.md): fields CODE [11:0] RO, MV [31:16] RO. -/
def Reg.PWR_BUS : Nat := 0x150004
/-- PWR_CORE (R515 of 20_power_reset_pins.md): fields MV [9:0] RO. -/
def Reg.PWR_CORE : Nat := 0x150008
/-- PWR_TJ (R515 of 20_power_reset_pins.md): fields TJ [7:0] RO, SENSOR [11:8] RO. -/
def Reg.PWR_TJ : Nat := 0x15000C
/-- PWR_STEP1_BUS (R507 of 20_power_reset_pins.md): fields THR_MV [15:0] WC, HYST_MV [27:16] WC. -/
def Reg.PWR_STEP1_BUS : Nat := 0x150010
/-- PWR_STEP1_CORE (R507 of 20_power_reset_pins.md): fields THR_MV [9:0] WC, HYST_MV [23:16] WC. -/
def Reg.PWR_STEP1_CORE : Nat := 0x150014
/-- PWR_STEP2_BUS (R507 of 20_power_reset_pins.md): fields THR_MV [15:0] WC, HYST_MV [27:16] WC. -/
def Reg.PWR_STEP2_BUS : Nat := 0x150018
/-- PWR_STEP2_CORE (R507 of 20_power_reset_pins.md): fields THR_MV [9:0] WC, HYST_MV [23:16] WC. -/
def Reg.PWR_STEP2_CORE : Nat := 0x15001C
/-- PWR_STEP3_BUS (R507 of 20_power_reset_pins.md): fields THR_MV [15:0] WC, HYST_MV [27:16] WC. -/
def Reg.PWR_STEP3_BUS : Nat := 0x150020
/-- PWR_STEP3_CORE (R507 of 20_power_reset_pins.md): fields THR_MV [9:0] WC, HYST_MV [23:16] WC. -/
def Reg.PWR_STEP3_CORE : Nat := 0x150024
/-- PWR_STEP4_BUS (R507 of 20_power_reset_pins.md): fields THR_MV [15:0] WC, HYST_MV [27:16] WC. -/
def Reg.PWR_STEP4_BUS : Nat := 0x150028
/-- PWR_STEP4_CORE (R507 of 20_power_reset_pins.md): fields THR_MV [9:0] WC, HYST_MV [23:16] WC. -/
def Reg.PWR_STEP4_CORE : Nat := 0x15002C
/-- PWR_STEP5_BUS (R507 of 20_power_reset_pins.md): fields THR_MV [15:0] WC, HYST_MV [27:16] WC. -/
def Reg.PWR_STEP5_BUS : Nat := 0x150030
/-- PWR_STEP5_CORE (R507 of 20_power_reset_pins.md): fields THR_MV [9:0] WC, HYST_MV [23:16] WC. -/
def Reg.PWR_STEP5_CORE : Nat := 0x150034
/-- PWR_STEP6_BUS (R507 of 20_power_reset_pins.md): fields THR_MV [15:0] WC, HYST_MV [27:16] WC. -/
def Reg.PWR_STEP6_BUS : Nat := 0x150038
/-- PWR_STEP6_CORE (R507 of 20_power_reset_pins.md): fields THR_MV [9:0] WC, HYST_MV [23:16] WC. -/
def Reg.PWR_STEP6_CORE : Nat := 0x15003C
/-- PWR_STEP7_BUS (R507 of 20_power_reset_pins.md): fields THR_MV [15:0] WC, HYST_MV [27:16] WC. -/
def Reg.PWR_STEP7_BUS : Nat := 0x150040
/-- PWR_STEP7_CORE (R507 of 20_power_reset_pins.md): fields THR_MV [9:0] WC, HYST_MV [23:16] WC. -/
def Reg.PWR_STEP7_CORE : Nat := 0x150044
/-- PWR_SHED_CTRL (R515 of 20_power_reset_pins.md): fields MASK [6:0] WC, HOLD_TICKS [15:8] WC. -/
def Reg.PWR_SHED_CTRL : Nat := 0x150050
/-- PWR_THERM (R515 of 20_power_reset_pins.md): fields TJ_SHED [7:0] WC, TJ_STOP [15:8] WC, HYST [19:16] WC. -/
def Reg.PWR_THERM : Nat := 0x150054
/-- PWR_STRAP (R515 of 20_power_reset_pins.md): fields STRAPS [3:0] RO. -/
def Reg.PWR_STRAP : Nat := 0x150058
/-- PWR_RESET (R515 of 20_power_reset_pins.md): fields CAUSE [2:0] RO, PG_FELL [13:8] RO. -/
def Reg.PWR_RESET : Nat := 0x15005C
/-- PWR_SHEDS (R515 of 20_power_reset_pins.md): fields COUNT [31:0] RO. -/
def Reg.PWR_SHEDS : Nat := 0x150060
/-- PWR_EVENTS (R515 of 20_power_reset_pins.md): fields EVENTS [4:0] W1C. -/
def Reg.PWR_EVENTS : Nat := 0x150064
/-- PWR_IRQ_ENABLE (R515 of 20_power_reset_pins.md): fields EN [4:0] WC. -/
def Reg.PWR_IRQ_ENABLE : Nat := 0x150068
/-- LOG_COUNT (R542 of 21_log_and_counters.md): fields COUNT [31:0] RO. -/
def Reg.LOG_COUNT : Nat := 0x160000
/-- LOG_READ (R545 of 21_log_and_counters.md): fields READ [31:0] RW. -/
def Reg.LOG_READ : Nat := 0x160004
/-- LOG_CTRL (R542 of 21_log_and_counters.md): fields STOP_FULL [0] RW, MIN_SEV [2:1] RW, IRQ_SEV [4:3] RW. -/
def Reg.LOG_CTRL : Nat := 0x160008
/-- LOG_DROPPED (R542 of 21_log_and_counters.md): fields COUNT [31:0] RO. -/
def Reg.LOG_DROPPED : Nat := 0x16000C
/-- LOG_FILTERED (R542 of 21_log_and_counters.md): fields COUNT [31:0] RO. -/
def Reg.LOG_FILTERED : Nat := 0x160010
/-- LOG_PERSIST (R527 of 21_log_and_counters.md): fields WORD [31:0] RO. -/
def Reg.LOG_PERSIST : Nat := 0x160014
/-- LOG_EVENTS (R542 of 21_log_and_counters.md): fields EVENTS [4:0] W1C. -/
def Reg.LOG_EVENTS : Nat := 0x160018
/-- LOG_IRQ_ENABLE (R542 of 21_log_and_counters.md): fields EN [4:0] WC. -/
def Reg.LOG_IRQ_ENABLE : Nat := 0x16001C
/-- PMC_CNT_CFG0 (R543 of 21_log_and_counters.md): fields EVENT [7:0] WC, EN [8] WC, CLR [9] WC, PRIV [13:10] WC, CLASS [15:14] WC, WIN [18:16] WC, WIN_EN [19] WC, OVF_IRQ [20] WC. -/
def Reg.PMC_CNT_CFG0 (i : Nat) : Nat := 0x170000 + i * 0x10
/-- PMC_CNT_CFG1 (R543 of 21_log_and_counters.md): fields MASTER [6:0] WC, MASTER_MASK [14:8] WC, CTX [21:16] WC. -/
def Reg.PMC_CNT_CFG1 (i : Nat) : Nat := 0x170004 + i * 0x10
/-- PMC_CNT_LO (R534 of 21_log_and_counters.md): fields COUNT [31:0] RO. -/
def Reg.PMC_CNT_LO (i : Nat) : Nat := 0x170008 + i * 0x10
/-- PMC_CNT_HI (R534 of 21_log_and_counters.md): fields COUNT [15:0] RO. -/
def Reg.PMC_CNT_HI (i : Nat) : Nat := 0x17000C + i * 0x10
/-- PMC_WIN_BASE_LO (R543 of 21_log_and_counters.md): fields ADDR [31:6] WC. -/
def Reg.PMC_WIN_BASE_LO (i : Nat) : Nat := 0x170400 + i * 0x10
/-- PMC_WIN_BASE_HI (R543 of 21_log_and_counters.md): fields ADDR [7:0] WC. -/
def Reg.PMC_WIN_BASE_HI (i : Nat) : Nat := 0x170404 + i * 0x10
/-- PMC_WIN_LIMIT_LO (R543 of 21_log_and_counters.md): fields ADDR [31:6] WC. -/
def Reg.PMC_WIN_LIMIT_LO (i : Nat) : Nat := 0x170408 + i * 0x10
/-- PMC_WIN_LIMIT_HI (R543 of 21_log_and_counters.md): fields ADDR [7:0] WC. -/
def Reg.PMC_WIN_LIMIT_HI (i : Nat) : Nat := 0x17040C + i * 0x10
/-- PMC_CTRL (R543 of 21_log_and_counters.md): fields ENABLE [0] WC, CLEAR_ALL [1] WC. -/
def Reg.PMC_CTRL : Nat := 0x170500
/-- PMC_OVF_LO (R533 of 21_log_and_counters.md): fields OVF [31:0] W1C. -/
def Reg.PMC_OVF_LO : Nat := 0x170504
/-- PMC_OVF_HI (R533 of 21_log_and_counters.md): fields OVF [31:0] W1C. -/
def Reg.PMC_OVF_HI : Nat := 0x170508
/-- PMC_SCOUT_CTRL (R537 of 21_log_and_counters.md): fields ENABLE [0] WC, JITTER [4:1] WC. -/
def Reg.PMC_SCOUT_CTRL : Nat := 0x17050C
/-- PMC_SCOUT_PERIOD (R538 of 21_log_and_counters.md): fields PERIOD [23:0] WC. -/
def Reg.PMC_SCOUT_PERIOD : Nat := 0x170510
/-- PMC_SCOUT_FILTER0 (R537 of 21_log_and_counters.md): fields CLASS_MASK [15:0] WC, TEAM_MASK [31:16] WC. -/
def Reg.PMC_SCOUT_FILTER0 : Nat := 0x170514
/-- PMC_SCOUT_FILTER1 (R537 of 21_log_and_counters.md): fields CTX [5:0] WC, LC [8] WC, BE [9] WC. -/
def Reg.PMC_SCOUT_FILTER1 : Nat := 0x170518
/-- PMC_SCOUT_COUNT (R539 of 21_log_and_counters.md): fields COUNT [31:0] RO. -/
def Reg.PMC_SCOUT_COUNT : Nat := 0x17051C
/-- PMC_EVENTS (R543 of 21_log_and_counters.md): fields EVENTS [1:0] W1C. -/
def Reg.PMC_EVENTS : Nat := 0x170520
/-- PMC_IRQ_ENABLE (R543 of 21_log_and_counters.md): fields EN [1:0] WC. -/
def Reg.PMC_IRQ_ENABLE : Nat := 0x170524

/-- The commit group `hudJob`. -/
def grpHudJob : Nat := 1
/-- The commit group `camFmt`. -/
def grpCamFmt : Nat := 2
/-- The commit group `camSched`. -/
def grpCamSched : Nat := 3
/-- The commit group `camMount`. -/
def grpCamMount : Nat := 4
/-- The commit group `camList`. -/
def grpCamList : Nat := 5
/-- The commit group `vsnRing`. -/
def grpVsnRing : Nat := 6
/-- The commit group `synRt`. -/
def grpSynRt : Nat := 7
/-- The commit group `synRing`. -/
def grpSynRing : Nat := 8
/-- The commit group `synCam`. -/
def grpSynCam : Nat := 9
/-- The commit group `synVw`. -/
def grpSynVw : Nat := 10
/-- The commit group `trkRt`. -/
def grpTrkRt : Nat := 11
/-- The commit group `frsTiming`. -/
def grpFrsTiming : Nat := 12
/-- The commit group `vrsDp`. -/
def grpVrsDp : Nat := 13
/-- The commit group `vrsLv`. -/
def grpVrsLv : Nat := 14
/-- The commit group `ctxJob`. -/
def grpCtxJob : Nat := 15
/-- The commit group `lysRing`. -/
def grpLysRing : Nat := 16
/-- The commit group `pwrStep`. -/
def grpPwrStep : Nat := 17
/-- The commit group `pmcCnt`. -/
def grpPmcCnt : Nat := 18
/-- The commit group `pmcWin`. -/
def grpPmcWin : Nat := 19
/-- Register rows of the 64 KiB at 0x0_0000. -/
def regRows0 : List RegDesc := [
  ⟨0x0, 1, 0x0, 0x0, 0x0, 0xFFFFFFFF, 0x0, 0x54100816, .grade 16 0 1, 0, false⟩]
/-- Register rows of the 64 KiB at 0x1_0000. -/
def regRows1 : List RegDesc := [
  ⟨0x10000, 1, 0x0, 0x3FFFFFFF, 0x0, 0x0, 0x0, 0x2AB65B9A, .fixed, 0, false⟩,
  ⟨0x10004, 1, 0x0, 0xFFFF, 0x0, 0x0, 0x0, 0x1770, .fixed, 0, false⟩,
  ⟨0x10008, 1, 0x0, 0xFFFFFFFF, 0x0, 0x0, 0x0, 0x0, .fixed, 0, false⟩,
  ⟨0x1000C, 1, 0x0, 0xFFFFFFFF, 0x0, 0x0, 0x0, 0x0, .fixed, 0, false⟩,
  ⟨0x10010, 1, 0x0, 0xFF0FFFFF, 0x0, 0x0, 0x0, 0x0, .fixed, 0, false⟩,
  ⟨0x10014, 1, 0x0, 0x0, 0x3F, 0xFFF00, 0x0, 0x0, .fixed, 0, false⟩,
  ⟨0x10018, 1, 0x0, 0x0, 0x0, 0xFFFFFFFF, 0x0, 0x0, .fixed, 0, false⟩,
  ⟨0x1001C, 1, 0x0, 0x0, 0x0, 0xFFFFFFFF, 0x0, 0x0, .fixed, 0, false⟩,
  ⟨0x10020, 1, 0x0, 0x0, 0x0, 0xFFFF, 0x0, 0x0, .fixed, 0, false⟩,
  ⟨0x10024, 1, 0x0, 0x0, 0x0, 0xFFFFFFFF, 0x0, 0x0, .fixed, 0, false⟩,
  ⟨0x10028, 1, 0x0, 0x0, 0x0, 0xFFFFFFFF, 0x0, 0x0, .fixed, 0, false⟩,
  ⟨0x1002C, 1, 0x0, 0x0, 0x0, 0x3, 0x0, 0x0, .fixed, 0, false⟩]
/-- Register rows of the 64 KiB at 0x2_0000. -/
def regRows2 : List RegDesc := [
  ⟨0x20000, 1, 0x0, 0x0, 0x0, 0xFFFFFF73, 0x0, 0x0, .fixed, 0, false⟩,
  ⟨0x20004, 1, 0x0, 0x0, 0x0, 0xFFFFFFFF, 0x0, 0x0, .fixed, 0, false⟩,
  ⟨0x20008, 1, 0x0, 0x0, 0x0, 0xFFFFFFFF, 0x0, 0x0, .fixed, 0, false⟩,
  ⟨0x20010, 12, 0x4, 0x0, 0x0, 0xFFFFFFFF, 0x0, 0x0, .fixed, 0, false⟩,
  ⟨0x20040, 12, 0x4, 0x0, 0x0, 0xFFFFFFFF, 0x0, 0x0, .fixed, 0, false⟩,
  ⟨0x20070, 1, 0x0, 0x0, 0x0, 0xFFFFFF, 0x0, 0x0, .fixed, 0, false⟩,
  ⟨0x20074, 1, 0x0, 0x0, 0x0, 0x1FF, 0x0, 0x0, .fixed, 0, false⟩,
  ⟨0x20080, 1, 0x0, 0x0, 0x0, 0xFFFFFFFF, 0x0, 0x0, .fixed, 0, false⟩,
  ⟨0x20084, 1, 0x0, 0x0, 0x0, 0xFF01FF, 0x0, 0x10000, .grade 0 400 360, 0, false⟩,
  ⟨0x20088, 1, 0x0, 0x0, 0x3, 0x0, 0x0, 0x0, .fixed, 0, false⟩,
  ⟨0x2008C, 1, 0x0, 0x0, 0x0, 0xFFFFFFFF, 0x0, 0x0, .fixed, 0, false⟩]
/-- Register rows of the 64 KiB at 0x3_0000. -/
def regRows3 : List RegDesc := [
  ⟨0x30000, 255, 0x100, 0x0, 0x0, 0xFFC3FFFF, 0x0, 0x0, .fixed, 0, false⟩,
  ⟨0x30004, 255, 0x100, 0x0, 0x0, 0xFF1F1FFF, 0x0, 0x0, .fixed, 0, false⟩,
  ⟨0x30008, 255, 0x100, 0x0, 0x0, 0x7F01FF, 0x0, 0x0, .fixed, 0, false⟩,
  ⟨0x30010, 255, 0x100, 0xFFFFFFFF, 0x0, 0x0, 0x0, 0x0, .fixed, 1, true⟩,
  ⟨0x30014, 255, 0x100, 0xFF, 0x0, 0x0, 0x0, 0x0, .fixed, 1, true⟩,
  ⟨0x30018, 255, 0x100, 0xFFF, 0x0, 0x0, 0x0, 0x0, .fixed, 1, true⟩,
  ⟨0x3001C, 255, 0x100, 0x1, 0x0, 0x0, 0x0, 0x0, .fixed, 0, false⟩,
  ⟨0x30020, 255, 0x100, 0x0, 0x0, 0xFFFF0007, 0x0, 0x0, .fixed, 0, false⟩,
  ⟨0x30024, 255, 0x100, 0x0, 0x1F, 0x0, 0x0, 0x0, .fixed, 0, false⟩,
  ⟨0x30028, 255, 0x100, 0x0, 0x0, 0xFFFFFFFF, 0x0, 0x0, .fixed, 0, false⟩]
/-- Register rows of the 64 KiB at 0x4_0000, part 1. -/
def regRows4_0 : List RegDesc := [
  ⟨0x40000, 16, 0x80, 0x3FFF, 0x0, 0x0, 0x0, 0x18, .fixed, 0, false⟩,
  ⟨0x40004, 16, 0x80, 0x3FF, 0x0, 0x0, 0x0, 0x0, .fixed, 2, true⟩,
  ⟨0x4000C, 16, 0x80, 0x3FF, 0x0, 0x0, 0x0, 0x0, .fixed, 2, true⟩,
  ⟨0x40008, 16, 0x80, 0x3FFF3FFF, 0x0, 0x0, 0x0, 0x0, .fixed, 2, true⟩,
  ⟨0x40010, 16, 0x80, 0x3FFF3FFF, 0x0, 0x0, 0x0, 0x0, .fixed, 2, true⟩,
  ⟨0x40014, 16, 0x80, 0xFFFFFF, 0x0, 0x0, 0x0, 0x0, .fixed, 2, true⟩,
  ⟨0x40018, 16, 0x80, 0xFFFFFF, 0x0, 0x0, 0x0, 0x0, .fixed, 2, true⟩,
  ⟨0x4001C, 16, 0x80, 0xFFFFFFFF, 0x0, 0x0, 0x0, 0x0, .fixed, 2, true⟩,
  ⟨0x40020, 16, 0x80, 0x1FFFFFF, 0x0, 0x0, 0x0, 0x0, .fixed, 0, false⟩,
  ⟨0x40024, 16, 0x80, 0x3FFFF, 0x0, 0x0, 0x0, 0x0, .fixed, 0, false⟩,
  ⟨0x40028, 16, 0x80, 0x1FFFFF, 0x0, 0x0, 0x0, 0x0, .fixed, 3, true⟩,
  ⟨0x4002C, 16, 0x80, 0xFFFFFFFF, 0x0, 0x0, 0x0, 0xFFFFFFFF, .fixed, 3, true⟩,
  ⟨0x40030, 16, 0x80, 0xFFFFFFFF, 0x0, 0x0, 0x0, 0xFFFFFFFF, .fixed, 3, true⟩,
  ⟨0x40034, 16, 0x80, 0xFFFFFFFF, 0x0, 0x0, 0x0, 0xFFFFFFFF, .fixed, 3, true⟩,
  ⟨0x40038, 16, 0x80, 0xFFFFFFFF, 0x0, 0x0, 0x0, 0xFFFFFFFF, .fixed, 3, true⟩,
  ⟨0x40040, 16, 0x80, 0xFFFFF000, 0x0, 0x0, 0x0, 0x0, .fixed, 2, true⟩,
  ⟨0x40044, 16, 0x80, 0xFF, 0x0, 0x0, 0x0, 0x0, .fixed, 2, true⟩,
  ⟨0x40048, 16, 0x80, 0xFFFF, 0x0, 0x0, 0x0, 0x0, .fixed, 2, true⟩,
  ⟨0x40050, 16, 0x80, 0x0, 0x0, 0xFFFF0F07, 0x0, 0x0, .fixed, 0, false⟩,
  ⟨0x40054, 16, 0x80, 0x0, 0x7FF, 0x0, 0x0, 0x0, .fixed, 0, false⟩,
  ⟨0x40058, 16, 0x80, 0x0, 0x0, 0xFFFFFFFF, 0x0, 0x0, .fixed, 0, false⟩,
  ⟨0x41000, 3, 0x20, 0xFF3, 0x0, 0x0, 0x0, 0x10, .fixed, 0, false⟩,
  ⟨0x41004, 3, 0x20, 0x0, 0x0, 0x1F1, 0x0, 0x0, .fixed, 0, false⟩,
  ⟨0x41008, 3, 0x20, 0x0, 0xF, 0x0, 0x0, 0x0, .fixed, 0, false⟩]
/-- Register rows of the 64 KiB at 0x4_0000, part 2. -/
def regRows4_1 : List RegDesc := [
  ⟨0x42000, 1, 0x0, 0xFF, 0x0, 0x0, 0x0, 0x0, .fixed, 0, false⟩,
  ⟨0x42004, 2, 0x4, 0xFFFFFFFF, 0x0, 0x0, 0x0, 0x10000, .fixed, 0, false⟩,
  ⟨0x4200C, 1, 0x0, 0xFFFF, 0x0, 0x0, 0x0, 0x0, .fixed, 0, false⟩,
  ⟨0x42010, 2, 0x4, 0x0, 0x0, 0xFFFFFFFF, 0x0, 0x0, .fixed, 0, false⟩,
  ⟨0x42018, 1, 0x0, 0x0, 0x0, 0xFFFFFFFF, 0x0, 0x0, .fixed, 0, false⟩,
  ⟨0x42020, 1, 0x0, 0x7F0FFF, 0x0, 0x0, 0x0, 0x4, .fixed, 0, false⟩,
  ⟨0x42024, 1, 0x0, 0xFFFFFFFF, 0x0, 0x0, 0x0, 0x1, .fixed, 0, false⟩,
  ⟨0x42028, 1, 0x0, 0xFFFFFFFF, 0x0, 0x0, 0x0, 0x1, .fixed, 0, false⟩,
  ⟨0x42030, 1, 0x0, 0x3, 0x0, 0x0, 0x0, 0x0, .fixed, 0, false⟩,
  ⟨0x42034, 1, 0x0, 0x0, 0x0, 0xFFFFFFFF, 0x0, 0x0, .fixed, 0, false⟩,
  ⟨0x42038, 1, 0x0, 0x0, 0x0, 0xFFFFFFFF, 0x0, 0x0, .fixed, 0, false⟩,
  ⟨0x4203C, 1, 0x0, 0x0, 0x0, 0xFFFFFFFF, 0x0, 0x0, .fixed, 0, false⟩,
  ⟨0x42040, 1, 0x0, 0xFFFF07, 0x0, 0x0, 0x0, 0x0, .fixed, 0, false⟩,
  ⟨0x42044, 1, 0x0, 0xFFFFFF, 0x0, 0x0, 0x0, 0x0, .fixed, 0, false⟩,
  ⟨0x42048, 1, 0x0, 0xFFE00000, 0x0, 0x0, 0x0, 0x0, .fixed, 0, false⟩,
  ⟨0x4204C, 1, 0x0, 0xFF, 0x0, 0x0, 0x0, 0x0, .fixed, 0, false⟩,
  ⟨0x42050, 1, 0x0, 0x0, 0x3F, 0x0, 0x0, 0x0, .fixed, 0, false⟩,
  ⟨0x43000, 16, 0x10, 0xFFFFFFFF, 0x0, 0x0, 0x0, 0x0, .fixed, 4, true⟩,
  ⟨0x43004, 16, 0x10, 0xFFFF, 0x0, 0x0, 0x0, 0x0, .fixed, 4, true⟩,
  ⟨0x43008, 16, 0x10, 0xFFFFFFFF, 0x0, 0x0, 0x0, 0x0, .fixed, 4, true⟩,
  ⟨0x4300C, 16, 0x10, 0xFFFF, 0x0, 0x0, 0x0, 0x0, .fixed, 4, true⟩,
  ⟨0x44000, 1, 0x0, 0x3F, 0x0, 0x0, 0x0, 0x0, .fixed, 0, false⟩,
  ⟨0x44004, 1, 0x0, 0x0, 0x3F, 0x0, 0x0, 0x0, .fixed, 0, false⟩,
  ⟨0x44008, 1, 0x0, 0x0, 0x0, 0xFFFFFFFF, 0x0, 0x0, .fixed, 0, false⟩]
/-- Register rows of the 64 KiB at 0x4_0000, part 3. -/
def regRows4_2 : List RegDesc := [
  ⟨0x48000, 4096, 0x4, 0xFFFFFFFF, 0x0, 0x0, 0x0, 0x0, .fixed, 5, false⟩]
/-- Register rows of the 64 KiB at 0x6_0000. -/
def regRows6 : List RegDesc := [
  ⟨0x60000, 16, 0x40, 0xFFFFF03, 0x0, 0x0, 0x0, 0x0, .fixed, 0, false⟩,
  ⟨0x60004, 16, 0x40, 0xFFFF0000, 0x0, 0x0, 0x0, 0x0, .fixed, 6, true⟩,
  ⟨0x60008, 16, 0x40, 0xFF, 0x0, 0x0, 0x0, 0x0, .fixed, 6, true⟩,
  ⟨0x6000C, 16, 0x40, 0xFFFFFF, 0x0, 0x0, 0x0, 0x0, .fixed, 6, true⟩,
  ⟨0x60010, 16, 0x40, 0xFFFFFFF, 0x0, 0x0, 0x0, 0x80000, .fixed, 0, false⟩,
  ⟨0x60014, 16, 0x40, 0x0, 0x0, 0xFFFFFFFF, 0x0, 0x0, .fixed, 0, false⟩,
  ⟨0x60018, 16, 0x40, 0x0, 0x0, 0xFFFF0007, 0x0, 0x0, .fixed, 0, false⟩,
  ⟨0x6001C, 16, 0x40, 0x0, 0x3F, 0x0, 0x0, 0x0, .fixed, 0, false⟩,
  ⟨0x60020, 16, 0x40, 0x0, 0x0, 0xFFFFFFFF, 0x0, 0x0, .fixed, 0, false⟩,
  ⟨0x61000, 1, 0x0, 0x0, 0x0, 0xFFF, 0x0, 0x0, .fixed, 0, false⟩,
  ⟨0x61004, 1, 0x0, 0x0, 0x0, 0x1FF, 0x0, 0x0, .fixed, 0, false⟩,
  ⟨0x61010, 1, 0x0, 0x3F, 0x0, 0x0, 0x0, 0x0, .fixed, 0, false⟩,
  ⟨0x61014, 1, 0x0, 0x0, 0x3F, 0x0, 0x0, 0x0, .fixed, 0, false⟩]
/-- Register rows of the 64 KiB at 0x8_0000. -/
def regRows8 : List RegDesc := [
  ⟨0x80000, 16, 0x40, 0x0, 0x0, 0xFFFFFF07, 0x0, 0xFF00, .fixed, 0, false⟩,
  ⟨0x80004, 16, 0x40, 0x0, 0x0, 0xFFFFFFFF, 0x0, 0x0, .fixed, 0, false⟩,
  ⟨0x80008, 16, 0x40, 0x0, 0x0, 0xFF, 0x0, 0x0, .fixed, 0, false⟩,
  ⟨0x8000C, 16, 0x40, 0x0, 0x0, 0xFFFFFFFF, 0x0, 0x0, .fixed, 0, false⟩,
  ⟨0x80010, 16, 0x40, 0x0, 0x7F, 0x0, 0x0, 0x0, .fixed, 0, false⟩,
  ⟨0x80014, 16, 0x40, 0x0, 0x0, 0xFFFFFFFF, 0x0, 0x0, .fixed, 0, false⟩,
  ⟨0x80018, 16, 0x40, 0x0, 0x0, 0xFFFFFFFF, 0x0, 0x0, .fixed, 0, false⟩,
  ⟨0x81000, 1, 0x0, 0x7F, 0x0, 0x0, 0x0, 0x0, .fixed, 0, false⟩,
  ⟨0x81004, 1, 0x0, 0x0, 0x7F, 0x0, 0x0, 0x0, .fixed, 0, false⟩,
  ⟨0x81008, 1, 0x0, 0x0, 0x0, 0x1FFFF, 0x0, 0x0, .fixed, 0, false⟩]
/-- Register rows of the 64 KiB at 0xA_0000. -/
def regRowsA : List RegDesc := [
  ⟨0xA0000, 256, 0x10, 0x0, 0x0, 0xFFFFFFFF, 0x0, 0xFF30, .fixed, 0, false⟩,
  ⟨0xA0004, 256, 0x10, 0x0, 0x0, 0x1FFFF, 0x0, 0x0, .fixed, 0, false⟩,
  ⟨0xA0008, 256, 0x10, 0x0, 0x0, 0x1F1F, 0x0, 0x0, .fixed, 0, false⟩,
  ⟨0xA000C, 256, 0x10, 0x0, 0x0, 0xFFFFFFFF, 0x0, 0x0, .fixed, 0, false⟩]
/-- Register rows of the 64 KiB at 0xB_0000. -/
def regRowsB : List RegDesc := [
  ⟨0xB0000, 1, 0x0, 0x0, 0x0, 0x1FF1FFF, 0x0, 0x1000, .fixed, 0, false⟩,
  ⟨0xB0004, 1, 0x0, 0x0, 0x0, 0x1FF1FFF, 0x0, 0x0, .fixed, 0, false⟩,
  ⟨0xB0008, 1, 0x0, 0xFFFF, 0x0, 0x0, 0x0, 0x960, .fixed, 0, false⟩,
  ⟨0xB000C, 1, 0x0, 0x0, 0x0, 0x1FFF0001, 0x0, 0x0, .fixed, 0, false⟩,
  ⟨0xB0010, 1, 0x0, 0x0, 0xFF, 0x0, 0x0, 0x0, .fixed, 0, false⟩,
  ⟨0xB0014, 1, 0x0, 0xFF, 0x0, 0x0, 0x0, 0x0, .fixed, 0, false⟩,
  ⟨0xB0018, 1, 0x0, 0x0, 0xFF, 0x0, 0x0, 0x0, .fixed, 0, false⟩,
  ⟨0xB001C, 1, 0x0, 0x0, 0x0, 0xFFFFFFFF, 0x0, 0x0, .fixed, 0, false⟩]
/-- Register rows of the 64 KiB at 0xC_0000, part 1. -/
def regRowsC_0 : List RegDesc := [
  ⟨0xC0000, 16, 0x40, 0x3FFFF1F, 0x0, 0x0, 0x0, 0x201A, .fixed, 7, true⟩,
  ⟨0xC0004, 16, 0x40, 0xFFFFFFFF, 0x0, 0x0, 0x0, 0x0, .fixed, 7, true⟩,
  ⟨0xC0008, 16, 0x40, 0x3FFFFF, 0x0, 0x0, 0x0, 0x218712, .fixed, 7, true⟩,
  ⟨0xC000C, 16, 0x40, 0xFFF03FF, 0x0, 0x0, 0x0, 0x8E600F0, .fixed, 7, true⟩,
  ⟨0xC0010, 16, 0x40, 0xFFFFFFFF, 0x0, 0x0, 0x0, 0x5030FF40, .fixed, 7, true⟩,
  ⟨0xC0014, 16, 0x40, 0xFFFFFFFF, 0x0, 0x0, 0x0, 0x20100000, .fixed, 7, true⟩,
  ⟨0xC0018, 16, 0x40, 0xFFFFFF, 0x0, 0x0, 0x0, 0x0, .fixed, 7, true⟩,
  ⟨0xC001C, 16, 0x40, 0x3FF, 0x0, 0x0, 0x0, 0x3F8, .fixed, 7, true⟩,
  ⟨0xC0020, 16, 0x40, 0xFFFF0000, 0x0, 0x0, 0x0, 0x0, .fixed, 8, true⟩,
  ⟨0xC0024, 16, 0x40, 0xFF, 0x0, 0x0, 0x0, 0x0, .fixed, 8, true⟩,
  ⟨0xC0028, 16, 0x40, 0x1F, 0x0, 0x0, 0x0, 0x0, .fixed, 8, true⟩,
  ⟨0xC002C, 16, 0x40, 0x0, 0x0, 0xFFFFFF03, 0x0, 0x0, .fixed, 0, false⟩,
  ⟨0xC0030, 16, 0x40, 0x0, 0x7F, 0x0, 0x0, 0x0, .fixed, 0, false⟩,
  ⟨0xC0034, 16, 0x40, 0x0, 0x0, 0x7FFFF, 0x0, 0x0, .fixed, 0, false⟩,
  ⟨0xC0800, 16, 0x40, 0xFFFFFFFF, 0x0, 0x0, 0x0, 0x0, .fixed, 9, true⟩,
  ⟨0xC0804, 16, 0x40, 0xFFFFFFFF, 0x0, 0x0, 0x0, 0x0, .fixed, 9, true⟩,
  ⟨0xC0808, 16, 0x40, 0xFFFFFFFF, 0x0, 0x0, 0x0, 0x0, .fixed, 9, true⟩,
  ⟨0xC080C, 16, 0x40, 0xFFFFFFFF, 0x0, 0x0, 0x0, 0x0, .fixed, 9, true⟩,
  ⟨0xC0810, 16, 0x40, 0xFFFFFFFF, 0x0, 0x0, 0x0, 0x0, .fixed, 9, true⟩,
  ⟨0xC0814, 16, 0x40, 0xFFFFFFFF, 0x0, 0x0, 0x0, 0x0, .fixed, 9, true⟩,
  ⟨0xC0818, 16, 0x40, 0xFFFF3FFF, 0x0, 0x0, 0x0, 0x0, .fixed, 9, true⟩,
  ⟨0xC081C, 16, 0x40, 0xFFFF3FFF, 0x0, 0x0, 0x0, 0x0, .fixed, 9, true⟩,
  ⟨0xC0820, 16, 0x40, 0xFFF, 0x0, 0x0, 0x0, 0x0, .fixed, 9, true⟩,
  ⟨0xC0824, 16, 0x40, 0xFFFFFFFF, 0x0, 0x0, 0x0, 0x10001000, .fixed, 9, true⟩]
/-- Register rows of the 64 KiB at 0xC_0000, part 2. -/
def regRowsC_1 : List RegDesc := [
  ⟨0xC0828, 16, 0x40, 0xFFFF, 0x0, 0x0, 0x0, 0x1000, .fixed, 9, true⟩,
  ⟨0xC1000, 1, 0x0, 0xFFFFFF, 0x0, 0x0, 0x0, 0x9C40, .fixed, 0, false⟩,
  ⟨0xC1004, 1, 0x0, 0x7F, 0x0, 0x0, 0x0, 0x0, .fixed, 0, false⟩,
  ⟨0xC1008, 1, 0x0, 0x0, 0x7F, 0x0, 0x0, 0x0, .fixed, 0, false⟩,
  ⟨0xC2000, 1, 0x0, 0xFFFF01, 0x0, 0x0, 0x0, 0x14FF00, .fixed, 10, false⟩,
  ⟨0xC2004, 1, 0x0, 0xFFFFFFF0, 0x0, 0x0, 0x0, 0x0, .fixed, 10, false⟩,
  ⟨0xC2008, 1, 0x0, 0xFF, 0x0, 0x0, 0x0, 0x0, .fixed, 10, false⟩,
  ⟨0xC200C, 1, 0x0, 0xFFFFF000, 0x0, 0x0, 0x0, 0x0, .fixed, 10, false⟩,
  ⟨0xC2010, 1, 0x0, 0xFF, 0x0, 0x0, 0x0, 0x0, .fixed, 10, false⟩,
  ⟨0xC2014, 1, 0x0, 0x0, 0x0, 0xFFFF3FFF, 0x0, 0x0, .fixed, 0, false⟩,
  ⟨0xC2018, 1, 0x0, 0x0, 0x0, 0xFFFFFFFF, 0x0, 0x0, .fixed, 0, false⟩,
  ⟨0xC201C, 1, 0x0, 0x0, 0x0, 0xFFFFFFFF, 0x0, 0x0, .fixed, 0, false⟩,
  ⟨0xC2020, 1, 0x0, 0x0, 0x1FF, 0x0, 0x0, 0x0, .fixed, 0, false⟩,
  ⟨0xC2024, 1, 0x0, 0x1FF, 0x0, 0x0, 0x0, 0x0, .fixed, 0, false⟩]
/-- Register rows of the 64 KiB at 0xD_0000. -/
def regRowsD : List RegDesc := [
  ⟨0xD0000, 16, 0x40, 0xFFFF0F, 0x0, 0x0, 0x0, 0x8, .fixed, 11, true⟩,
  ⟨0xD0004, 16, 0x40, 0xFFFFFFFF, 0x0, 0x0, 0x0, 0x10001020, .fixed, 11, true⟩,
  ⟨0xD0008, 16, 0x40, 0x1FFFFF, 0x0, 0x0, 0x0, 0x0, .fixed, 11, true⟩,
  ⟨0xD000C, 16, 0x40, 0xF1FFFFF, 0x0, 0x0, 0x0, 0x71C7, .fixed, 11, true⟩,
  ⟨0xD0010, 16, 0x40, 0xFFFFFF, 0x0, 0x0, 0x0, 0x0, .fixed, 11, true⟩,
  ⟨0xD0014, 16, 0x40, 0x3FFFF, 0x0, 0x0, 0x0, 0x0, .fixed, 11, true⟩,
  ⟨0xD0018, 16, 0x40, 0xFFFFFFFF, 0x0, 0x0, 0x0, 0x0, .fixed, 11, true⟩,
  ⟨0xD001C, 16, 0x40, 0xFFFFFFFE, 0x0, 0x0, 0x0, 0x0, .fixed, 11, true⟩,
  ⟨0xD0020, 16, 0x40, 0xFF, 0x0, 0x0, 0x0, 0x0, .fixed, 11, true⟩,
  ⟨0xD0024, 16, 0x40, 0x0, 0x0, 0x7FFFF03, 0x0, 0x0, .fixed, 0, false⟩,
  ⟨0xD0028, 16, 0x40, 0x0, 0x7F, 0x0, 0x0, 0x0, .fixed, 0, false⟩,
  ⟨0xD1000, 1, 0x0, 0xFFFFFF01, 0x0, 0x0, 0x0, 0x10400300, .fixed, 0, false⟩,
  ⟨0xD1004, 1, 0x0, 0xFFFFFFFF, 0x0, 0x0, 0x0, 0xE0400014, .fixed, 0, false⟩,
  ⟨0xD1008, 1, 0x0, 0xFF03FFFF, 0x0, 0x0, 0x0, 0x800F004, .fixed, 0, false⟩,
  ⟨0xD100C, 1, 0x0, 0xFFFF, 0x0, 0x0, 0x0, 0x64, .fixed, 0, false⟩,
  ⟨0xD1010, 1, 0x0, 0xFFFFFF, 0x0, 0x0, 0x0, 0x1F40, .fixed, 0, false⟩,
  ⟨0xD1014, 1, 0x0, 0xFFFF0000, 0x0, 0x0, 0x0, 0x0, .fixed, 0, false⟩,
  ⟨0xD1018, 1, 0x0, 0x800000FF, 0x0, 0x0, 0x0, 0x0, .fixed, 0, false⟩,
  ⟨0xD1020, 1, 0x0, 0x0, 0x0, 0x1FFF1FFF, 0x0, 0x0, .fixed, 0, false⟩,
  ⟨0xD1024, 1, 0x0, 0x0, 0x0, 0xFFFFFFFF, 0x0, 0x0, .fixed, 0, false⟩,
  ⟨0xD1028, 1, 0x0, 0x0, 0x0, 0xFFFFFFFF, 0x0, 0x0, .fixed, 0, false⟩,
  ⟨0xD102C, 1, 0x0, 0x7F, 0x0, 0x0, 0x0, 0x0, .fixed, 0, false⟩,
  ⟨0xD1030, 1, 0x0, 0x0, 0x7F, 0x0, 0x0, 0x0, .fixed, 0, false⟩]
/-- Register rows of the 64 KiB at 0xE_0000. -/
def regRowsE : List RegDesc := [
  ⟨0xE0000, 1, 0x0, 0xFF07, 0x0, 0x0, 0x0, 0x400, .fixed, 0, false⟩,
  ⟨0xE0004, 1, 0x0, 0xFFFF, 0x0, 0x0, 0x0, 0x0, .fixed, 12, false⟩,
  ⟨0xE0008, 1, 0x0, 0x7FF, 0x0, 0x0, 0x0, 0x410, .fixed, 0, false⟩,
  ⟨0xE000C, 1, 0x0, 0xFFFFFFFF, 0x0, 0x0, 0x0, 0x960, .fixed, 0, false⟩,
  ⟨0xE0010, 1, 0x0, 0x3FFFF, 0x0, 0x0, 0x0, 0x1FBD0, .fixed, 12, false⟩,
  ⟨0xE0014, 1, 0x0, 0x7FFFF, 0x0, 0x0, 0x0, 0x9C40, .fixed, 0, false⟩,
  ⟨0xE0020, 8, 0x4, 0xFF, 0x0, 0x0, 0x0, 0x80, .fixed, 12, false⟩,
  ⟨0xE0040, 1, 0x0, 0x0, 0x0, 0x4, 0x3, 0x0, .fixed, 0, false⟩,
  ⟨0xE0044, 1, 0x0, 0x0, 0x0, 0xFFFFFF1F, 0x0, 0x0, .fixed, 0, false⟩,
  ⟨0xE0048, 1, 0x0, 0x0, 0x0, 0xFFFFFFFF, 0x0, 0x0, .fixed, 0, false⟩,
  ⟨0xE004C, 1, 0x0, 0x0, 0x0, 0xFFFFFFFF, 0x0, 0x0, .fixed, 0, false⟩,
  ⟨0xE0050, 1, 0x0, 0x0, 0x0, 0xFFFF01FF, 0x0, 0x0, .fixed, 0, false⟩,
  ⟨0xE0054, 1, 0x0, 0x0, 0x0, 0xFFFFFFFF, 0x0, 0x0, .fixed, 0, false⟩,
  ⟨0xE0058, 1, 0x0, 0x0, 0x1FF, 0x0, 0x0, 0x0, .fixed, 0, false⟩,
  ⟨0xE005C, 1, 0x0, 0x1FF, 0x0, 0x0, 0x0, 0x0, .fixed, 0, false⟩]
/-- Register rows of the 64 KiB at 0xF_0000, part 1. -/
def regRowsF_0 : List RegDesc := [
  ⟨0xF0000, 1, 0x0, 0xFF, 0x0, 0x0, 0x0, 0x20, .fixed, 13, false⟩,
  ⟨0xF0004, 1, 0x0, 0x1F, 0x0, 0x0, 0x0, 0x1B, .fixed, 13, false⟩,
  ⟨0xF0008, 1, 0x0, 0xFFFFFFFF, 0x0, 0x0, 0x0, 0x8D9EE20, .fixed, 13, false⟩,
  ⟨0xF000C, 1, 0x0, 0xFFFFFFFF, 0x0, 0x0, 0x0, 0x8980780, .fixed, 13, false⟩,
  ⟨0xF0010, 1, 0x0, 0xFFFFFF, 0x0, 0x0, 0x0, 0x2C058, .fixed, 13, false⟩,
  ⟨0xF0014, 1, 0x0, 0xFFFFFFFF, 0x0, 0x0, 0x0, 0x40438, .fixed, 13, false⟩,
  ⟨0xF0018, 1, 0x0, 0xFFFFF, 0x0, 0x0, 0x0, 0x2405, .fixed, 13, false⟩,
  ⟨0xF001C, 1, 0x0, 0xFFFFFF, 0x0, 0x0, 0x0, 0x0, .fixed, 0, false⟩,
  ⟨0xF0020, 1, 0x0, 0x1FFF, 0x0, 0x0, 0x0, 0x100, .fixed, 0, false⟩,
  ⟨0xF0024, 1, 0x0, 0xFFF, 0x0, 0x0, 0x0, 0x0, .fixed, 0, false⟩,
  ⟨0xF0040, 1, 0x0, 0x3F, 0x0, 0x0, 0x0, 0x4, .fixed, 14, false⟩,
  ⟨0xF0044, 1, 0x0, 0xFFFFFFFF, 0x0, 0x0, 0x0, 0x8D9EE20, .fixed, 14, false⟩,
  ⟨0xF0048, 1, 0x0, 0xFFFFFFFF, 0x0, 0x0, 0x0, 0x8980780, .fixed, 14, false⟩,
  ⟨0xF004C, 1, 0x0, 0xFFFFFF, 0x0, 0x0, 0x0, 0x2C058, .fixed, 14, false⟩,
  ⟨0xF0050, 1, 0x0, 0xFFFFFFFF, 0x0, 0x0, 0x0, 0x40438, .fixed, 14, false⟩,
  ⟨0xF0054, 1, 0x0, 0xFFFFF, 0x0, 0x0, 0x0, 0x2405, .fixed, 14, false⟩,
  ⟨0xF0080, 1, 0x0, 0x0, 0x0, 0xFFFF01FF, 0x0, 0x0, .fixed, 0, false⟩,
  ⟨0xF0084, 1, 0x0, 0x0, 0x0, 0xFFFFF, 0x0, 0x0, .fixed, 0, false⟩,
  ⟨0xF0088, 1, 0x0, 0x0, 0x0, 0xFFFFF, 0x0, 0x0, .fixed, 0, false⟩,
  ⟨0xF008C, 1, 0x0, 0x0, 0x0, 0xFFFFFFFF, 0x0, 0x0, .fixed, 0, false⟩,
  ⟨0xF0090, 1, 0x0, 0x0, 0x0, 0xFFFFFFFF, 0x0, 0x0, .fixed, 0, false⟩,
  ⟨0xF0094, 1, 0x0, 0x0, 0x0, 0xFFFFFFFF, 0x0, 0x0, .fixed, 0, false⟩,
  ⟨0xF0098, 1, 0x0, 0x0, 0x0, 0xFFFFFFFF, 0x0, 0x0, .fixed, 0, false⟩,
  ⟨0xF009C, 1, 0x0, 0x0, 0x0, 0xFFFFFFFF, 0x0, 0x0, .fixed, 0, false⟩]
/-- Register rows of the 64 KiB at 0xF_0000, part 2. -/
def regRowsF_1 : List RegDesc := [
  ⟨0xF00A0, 1, 0x0, 0x0, 0x0, 0xFFFFFFFF, 0x0, 0x0, .fixed, 0, false⟩,
  ⟨0xF00A4, 1, 0x0, 0x0, 0xFFF, 0x0, 0x0, 0x0, .fixed, 0, false⟩,
  ⟨0xF00A8, 1, 0x0, 0xFFF, 0x0, 0x0, 0x0, 0x0, .fixed, 0, false⟩,
  ⟨0xF1000, 4, 0x4, 0x0, 0x0, 0xFFFFFFFF, 0x0, 0x0, .fixed, 0, false⟩,
  ⟨0xF1100, 128, 0x4, 0x0, 0x0, 0xFFFFFFFF, 0x0, 0x0, .fixed, 0, false⟩]
/-- Register rows of the 64 KiB at 0x10_0000. -/
def regRows10 : List RegDesc := [
  ⟨0x100000, 32, 0x20, 0xFF03, 0x0, 0x0, 0x0, 0x0, .fixed, 0, false⟩,
  ⟨0x100004, 32, 0x20, 0xFFFFFFFF, 0x0, 0x0, 0x0, 0x0, .fixed, 15, true⟩,
  ⟨0x100008, 32, 0x20, 0xFF, 0x0, 0x0, 0x0, 0x0, .fixed, 15, true⟩,
  ⟨0x10000C, 32, 0x20, 0xFFF, 0x0, 0x0, 0x0, 0x0, .fixed, 15, true⟩,
  ⟨0x100010, 32, 0x20, 0x0, 0x0, 0xFFFFFF1F, 0x0, 0xFF00, .fixed, 0, false⟩,
  ⟨0x100014, 32, 0x20, 0x0, 0x0, 0x7F01FF, 0x0, 0x0, .fixed, 0, false⟩,
  ⟨0x100018, 32, 0x20, 0x0, 0x0, 0xFFFFFFFF, 0x0, 0x0, .fixed, 0, false⟩,
  ⟨0x10001C, 32, 0x20, 0x0, 0x0, 0xFF, 0x0, 0x0, .fixed, 0, false⟩,
  ⟨0x101000, 1, 0x0, 0x0, 0x0, 0x1FF01FF, 0x0, 0x0, .fixed, 0, false⟩,
  ⟨0x101004, 1, 0x0, 0x0, 0x0, 0xFFFFFFFF, 0x0, 0x0, .fixed, 0, false⟩,
  ⟨0x101008, 1, 0x0, 0xFFFFFFFF, 0x0, 0x0, 0x0, 0x5EED0001, .fixed, 0, false⟩,
  ⟨0x10100C, 1, 0x0, 0xFF01, 0x0, 0x0, 0x0, 0x4001, .fixed, 0, false⟩,
  ⟨0x101010, 1, 0x0, 0x0, 0x0, 0xFFFFFFFF, 0x0, 0x0, .fixed, 0, false⟩,
  ⟨0x101014, 1, 0x0, 0x0, 0x0, 0xFFFFFFFF, 0x0, 0x0, .fixed, 0, false⟩,
  ⟨0x101018, 1, 0x0, 0x0, 0x0, 0xFFFFFFFF, 0x0, 0x0, .fixed, 0, false⟩,
  ⟨0x10101C, 1, 0x0, 0x0, 0xF, 0x0, 0x0, 0x0, .fixed, 0, false⟩,
  ⟨0x101020, 1, 0x0, 0xF, 0x0, 0x0, 0x0, 0x0, .fixed, 0, false⟩]
/-- Register rows of the 64 KiB at 0x11_0000. -/
def regRows11 : List RegDesc := [
  ⟨0x110000, 1, 0x0, 0xFFFF0001, 0x0, 0x0, 0x0, 0x7D00001, .fixed, 0, false⟩,
  ⟨0x110004, 1, 0x0, 0xFFFF, 0x0, 0x0, 0x0, 0x1F4, .fixed, 0, false⟩,
  ⟨0x110008, 1, 0x0, 0x3F, 0x0, 0x0, 0x0, 0x8, .fixed, 0, false⟩,
  ⟨0x11000C, 1, 0x0, 0xFFFFFFFF, 0x0, 0x0, 0x0, 0xE1003E8, .fixed, 0, false⟩,
  ⟨0x110010, 1, 0x0, 0x0, 0x0, 0x1FF01FF, 0x0, 0x0, .fixed, 0, false⟩,
  ⟨0x110014, 1, 0x0, 0x0, 0x0, 0xFFFFFFFF, 0x0, 0xFFFFFFFF, .fixed, 0, false⟩,
  ⟨0x110018, 1, 0x0, 0x0, 0x0, 0xFFFFFFFF, 0x0, 0x0, .fixed, 0, false⟩,
  ⟨0x11001C, 1, 0x0, 0x0, 0x0, 0xFFFFFFFF, 0x0, 0x0, .fixed, 0, false⟩,
  ⟨0x110020, 1, 0x0, 0x0, 0x0, 0xFFFFFFFF, 0x0, 0x0, .fixed, 0, false⟩,
  ⟨0x110024, 1, 0x0, 0x0, 0x0, 0xFFFFFFFF, 0x0, 0x0, .fixed, 0, false⟩,
  ⟨0x110028, 1, 0x0, 0x0, 0x0, 0xFFFFFFC0, 0x0, 0x0, .fixed, 0, false⟩,
  ⟨0x11002C, 1, 0x0, 0x0, 0x0, 0xFF, 0x0, 0x0, .fixed, 0, false⟩,
  ⟨0x110030, 1, 0x0, 0x0, 0x0, 0xFF01, 0x0, 0x0, .fixed, 0, false⟩,
  ⟨0x110034, 1, 0x0, 0x0, 0x0, 0xFFFFFFFF, 0x0, 0x0, .fixed, 0, false⟩,
  ⟨0x110038, 1, 0x0, 0x0, 0xFF, 0x0, 0x0, 0x0, .fixed, 0, false⟩,
  ⟨0x11003C, 1, 0x0, 0xFF, 0x0, 0x0, 0x0, 0x0, .fixed, 0, false⟩,
  ⟨0x110100, 8, 0x10, 0x0, 0x0, 0x703, 0x0, 0x0, .fixed, 0, false⟩,
  ⟨0x110104, 8, 0x10, 0x0, 0x0, 0xFFFFFFFF, 0x0, 0x0, .fixed, 0, false⟩,
  ⟨0x110108, 8, 0x10, 0x0, 0x0, 0xFFFFFFFF, 0x0, 0x0, .fixed, 0, false⟩]
/-- Register rows of the 64 KiB at 0x12_0000. -/
def regRows12 : List RegDesc := [
  ⟨0x120000, 1, 0x0, 0x0, 0x3F, 0xFFFF1F00, 0x0, 0x0, .fixed, 0, false⟩,
  ⟨0x120004, 1, 0x0, 0x0, 0x0, 0xFFFFFFFF, 0x0, 0x0, .fixed, 0, false⟩,
  ⟨0x120008, 1, 0x0, 0x0, 0x0, 0xFFFFFFFF, 0x0, 0x0, .fixed, 0, false⟩,
  ⟨0x12000C, 1, 0x0, 0x0, 0x0, 0xFFFFFFFF, 0x0, 0x0, .fixed, 0, false⟩,
  ⟨0x120010, 1, 0x0, 0x0, 0x0, 0xFFFFFFFF, 0x0, 0x0, .fixed, 0, false⟩,
  ⟨0x120014, 1, 0x0, 0x0, 0x0, 0xFFFFFFFF, 0x0, 0x0, .fixed, 0, false⟩,
  ⟨0x120018, 1, 0x0, 0x0, 0x0, 0xFFFFFFFF, 0x0, 0x0, .fixed, 0, false⟩,
  ⟨0x12001C, 1, 0x0, 0x0, 0x0, 0x3FFF, 0x0, 0x0, .fixed, 0, false⟩,
  ⟨0x120020, 1, 0x0, 0x3F, 0x0, 0x0, 0x0, 0x0, .fixed, 0, false⟩]
/-- Register rows of the 64 KiB at 0x13_0000. -/
def regRows13 : List RegDesc := [
  ⟨0x130000, 1, 0x0, 0x777, 0x0, 0x0, 0x0, 0x0, .fixed, 16, false⟩,
  ⟨0x130004, 1, 0x0, 0xFF07, 0x0, 0x0, 0x0, 0xFF00, .fixed, 16, false⟩,
  ⟨0x130008, 1, 0x0, 0xFFFFFF, 0x0, 0x0, 0x0, 0x0, .fixed, 16, false⟩,
  ⟨0x13000C, 1, 0x0, 0xFFFFFF, 0x0, 0x0, 0x0, 0xFA0, .fixed, 16, false⟩,
  ⟨0x130010, 1, 0x0, 0x0, 0x0, 0xFF07, 0x0, 0x0, .fixed, 0, false⟩,
  ⟨0x130014, 1, 0x0, 0x0, 0x0, 0xFFFFFFFF, 0x0, 0x0, .fixed, 0, false⟩,
  ⟨0x130018, 1, 0x0, 0x0, 0x0, 0xFFFF, 0x0, 0x0, .fixed, 0, false⟩,
  ⟨0x13001C, 1, 0x0, 0x0, 0x0, 0xFFFF000F, 0x0, 0x0, .fixed, 0, false⟩,
  ⟨0x130020, 1, 0x0, 0x0, 0x0, 0xFFFFFFFF, 0x0, 0x0, .fixed, 0, false⟩,
  ⟨0x130024, 1, 0x0, 0x0, 0x0, 0xFFFFFFFF, 0x0, 0x0, .fixed, 0, false⟩,
  ⟨0x130028, 1, 0x0, 0x0, 0x0, 0xFFFFFFFF, 0x0, 0x0, .fixed, 0, false⟩,
  ⟨0x13002C, 1, 0x0, 0x0, 0x7FF, 0x0, 0x0, 0x0, .fixed, 0, false⟩,
  ⟨0x130030, 1, 0x0, 0x7FF, 0x0, 0x0, 0x0, 0x0, .fixed, 0, false⟩,
  ⟨0x130100, 2, 0x20, 0x0, 0x0, 0xFF07FF, 0x0, 0x0, .fixed, 0, false⟩,
  ⟨0x130104, 2, 0x20, 0x0, 0x0, 0xFFFF, 0x0, 0x0, .fixed, 0, false⟩,
  ⟨0x130108, 2, 0x20, 0x0, 0x0, 0xFFFFFFFF, 0x0, 0x0, .fixed, 0, false⟩,
  ⟨0x13010C, 2, 0x20, 0x0, 0x0, 0xFFFFFFFF, 0x0, 0x0, .fixed, 0, false⟩,
  ⟨0x130110, 2, 0x20, 0x0, 0x0, 0xFFFFFFFF, 0x0, 0x0, .fixed, 0, false⟩]
/-- Register rows of the 64 KiB at 0x14_0000. -/
def regRows14 : List RegDesc := [
  ⟨0x140000, 1, 0x0, 0x0, 0x0, 0x1FFF, 0x0, 0x0, .fixed, 0, false⟩,
  ⟨0x140004, 1, 0x0, 0x0, 0x0, 0xFF0FFF, 0x0, 0x0, .fixed, 0, false⟩,
  ⟨0x140008, 1, 0x0, 0x0, 0x0, 0xFFFFFFFF, 0x0, 0x0, .fixed, 0, false⟩,
  ⟨0x14000C, 1, 0x0, 0x0, 0x0, 0xFFFFFFFF, 0x0, 0x0, .fixed, 0, false⟩,
  ⟨0x140010, 1, 0x0, 0x0, 0x0, 0xFFFFFFFF, 0x0, 0x0, .fixed, 0, false⟩,
  ⟨0x140014, 1, 0x0, 0x0, 0x0, 0xFFFFFFFF, 0x0, 0x0, .fixed, 0, false⟩,
  ⟨0x140018, 1, 0x0, 0x0, 0x0, 0xFFFFFF, 0x0, 0x0, .fixed, 0, false⟩,
  ⟨0x14001C, 1, 0x0, 0x0, 0x3F, 0x0, 0x0, 0x0, .fixed, 0, false⟩,
  ⟨0x140020, 1, 0x0, 0x3F, 0x0, 0x0, 0x0, 0x0, .fixed, 0, false⟩,
  ⟨0x140040, 12, 0x4, 0x0, 0x0, 0xFFFFFFFF, 0x0, 0x0, .fixed, 0, false⟩]
/-- Register rows of the 64 KiB at 0x15_0000, part 1. -/
def regRows15_0 : List RegDesc := [
  ⟨0x150000, 1, 0x0, 0x0, 0x0, 0xFFFF3F3F, 0x0, 0x0, .fixed, 0, false⟩,
  ⟨0x150004, 1, 0x0, 0x0, 0x0, 0xFFFF0FFF, 0x0, 0x0, .fixed, 0, false⟩,
  ⟨0x150008, 1, 0x0, 0x0, 0x0, 0x3FF, 0x0, 0x0, .fixed, 0, false⟩,
  ⟨0x15000C, 1, 0x0, 0x0, 0x0, 0xFFF, 0x0, 0x0, .fixed, 0, false⟩,
  ⟨0x150010, 1, 0x0, 0xFFFFFFF, 0x0, 0x0, 0x0, 0x0, .bus24 21000 10500 500 250, 17, false⟩,
  ⟨0x150014, 1, 0x0, 0xFF03FF, 0x0, 0x0, 0x0, 0xA02DA, .fixed, 17, false⟩,
  ⟨0x150018, 1, 0x0, 0xFFFFFFF, 0x0, 0x0, 0x0, 0x0, .bus24 20000 10000 500 250, 17, false⟩,
  ⟨0x15001C, 1, 0x0, 0xFF03FF, 0x0, 0x0, 0x0, 0xA02D5, .fixed, 17, false⟩,
  ⟨0x150020, 1, 0x0, 0xFFFFFFF, 0x0, 0x0, 0x0, 0x0, .bus24 19000 9500 500 250, 17, false⟩,
  ⟨0x150024, 1, 0x0, 0xFF03FF, 0x0, 0x0, 0x0, 0xA02D0, .fixed, 17, false⟩,
  ⟨0x150028, 1, 0x0, 0xFFFFFFF, 0x0, 0x0, 0x0, 0x0, .bus24 18000 9000 500 250, 17, false⟩,
  ⟨0x15002C, 1, 0x0, 0xFF03FF, 0x0, 0x0, 0x0, 0xA02CB, .fixed, 17, false⟩,
  ⟨0x150030, 1, 0x0, 0xFFFFFFF, 0x0, 0x0, 0x0, 0x0, .bus24 17000 8500 500 250, 17, false⟩,
  ⟨0x150034, 1, 0x0, 0xFF03FF, 0x0, 0x0, 0x0, 0xA02C6, .fixed, 17, false⟩,
  ⟨0x150038, 1, 0x0, 0xFFFFFFF, 0x0, 0x0, 0x0, 0x0, .bus24 16000 8000 500 250, 17, false⟩,
  ⟨0x15003C, 1, 0x0, 0xFF03FF, 0x0, 0x0, 0x0, 0xA02BC, .fixed, 17, false⟩,
  ⟨0x150040, 1, 0x0, 0xFFFFFFF, 0x0, 0x0, 0x0, 0x0, .bus24 14000 7000 500 250, 17, false⟩,
  ⟨0x150044, 1, 0x0, 0xFF03FF, 0x0, 0x0, 0x0, 0xA02B2, .fixed, 17, false⟩,
  ⟨0x150050, 1, 0x0, 0xFF7F, 0x0, 0x0, 0x0, 0x287F, .fixed, 0, false⟩,
  ⟨0x150054, 1, 0x0, 0xFFFFF, 0x0, 0x0, 0x0, 0x50000, .grade 0 28260 33400, 0, false⟩,
  ⟨0x150058, 1, 0x0, 0x0, 0x0, 0xF, 0x0, 0x0, .sampled, 0, false⟩,
  ⟨0x15005C, 1, 0x0, 0x0, 0x0, 0x3F07, 0x0, 0x0, .fixed, 0, false⟩,
  ⟨0x150060, 1, 0x0, 0x0, 0x0, 0xFFFFFFFF, 0x0, 0x0, .fixed, 0, false⟩,
  ⟨0x150064, 1, 0x0, 0x0, 0x1F, 0x0, 0x0, 0x0, .fixed, 0, false⟩]
/-- Register rows of the 64 KiB at 0x15_0000, part 2. -/
def regRows15_1 : List RegDesc := [
  ⟨0x150068, 1, 0x0, 0x1F, 0x0, 0x0, 0x0, 0x0, .fixed, 0, false⟩]
/-- Register rows of the 64 KiB at 0x16_0000. -/
def regRows16 : List RegDesc := [
  ⟨0x160000, 1, 0x0, 0x0, 0x0, 0xFFFFFFFF, 0x0, 0x0, .fixed, 0, false⟩,
  ⟨0x160004, 1, 0x0, 0x0, 0x0, 0x0, 0xFFFFFFFF, 0x0, .fixed, 0, false⟩,
  ⟨0x160008, 1, 0x0, 0x0, 0x0, 0x0, 0x1F, 0x10, .fixed, 0, false⟩,
  ⟨0x16000C, 1, 0x0, 0x0, 0x0, 0xFFFFFFFF, 0x0, 0x0, .fixed, 0, false⟩,
  ⟨0x160010, 1, 0x0, 0x0, 0x0, 0xFFFFFFFF, 0x0, 0x0, .fixed, 0, false⟩,
  ⟨0x160014, 1, 0x0, 0x0, 0x0, 0xFFFFFFFF, 0x0, 0x0, .fixed, 0, false⟩,
  ⟨0x160018, 1, 0x0, 0x0, 0x1F, 0x0, 0x0, 0x0, .fixed, 0, false⟩,
  ⟨0x16001C, 1, 0x0, 0x1F, 0x0, 0x0, 0x0, 0x0, .fixed, 0, false⟩]
/-- Register rows of the 64 KiB at 0x17_0000. -/
def regRows17 : List RegDesc := [
  ⟨0x170000, 64, 0x10, 0x1FFFFF, 0x0, 0x0, 0x0, 0xFC00, .fixed, 18, true⟩,
  ⟨0x170004, 64, 0x10, 0x3F7F7F, 0x0, 0x0, 0x0, 0x3F0000, .fixed, 18, true⟩,
  ⟨0x170008, 64, 0x10, 0x0, 0x0, 0xFFFFFFFF, 0x0, 0x0, .fixed, 0, false⟩,
  ⟨0x17000C, 64, 0x10, 0x0, 0x0, 0xFFFF, 0x0, 0x0, .fixed, 0, false⟩,
  ⟨0x170400, 8, 0x10, 0xFFFFFFC0, 0x0, 0x0, 0x0, 0x0, .fixed, 19, true⟩,
  ⟨0x170404, 8, 0x10, 0xFF, 0x0, 0x0, 0x0, 0x0, .fixed, 19, true⟩,
  ⟨0x170408, 8, 0x10, 0xFFFFFFC0, 0x0, 0x0, 0x0, 0x0, .fixed, 19, true⟩,
  ⟨0x17040C, 8, 0x10, 0xFF, 0x0, 0x0, 0x0, 0x0, .fixed, 19, true⟩,
  ⟨0x170500, 1, 0x0, 0x3, 0x0, 0x0, 0x0, 0x0, .fixed, 0, false⟩,
  ⟨0x170504, 1, 0x0, 0x0, 0xFFFFFFFF, 0x0, 0x0, 0x0, .fixed, 0, false⟩,
  ⟨0x170508, 1, 0x0, 0x0, 0xFFFFFFFF, 0x0, 0x0, 0x0, .fixed, 0, false⟩,
  ⟨0x17050C, 1, 0x0, 0x1F, 0x0, 0x0, 0x0, 0x8, .fixed, 0, false⟩,
  ⟨0x170510, 1, 0x0, 0xFFFFFF, 0x0, 0x0, 0x0, 0x10000, .fixed, 0, false⟩,
  ⟨0x170514, 1, 0x0, 0xFFFFFFFF, 0x0, 0x0, 0x0, 0xFFFF1FFF, .fixed, 0, false⟩,
  ⟨0x170518, 1, 0x0, 0x33F, 0x0, 0x0, 0x0, 0x33F, .fixed, 0, false⟩,
  ⟨0x17051C, 1, 0x0, 0x0, 0x0, 0xFFFFFFFF, 0x0, 0x0, .fixed, 0, false⟩,
  ⟨0x170520, 1, 0x0, 0x0, 0x3, 0x0, 0x0, 0x0, .fixed, 0, false⟩,
  ⟨0x170524, 1, 0x0, 0x3, 0x0, 0x0, 0x0, 0x0, .fixed, 0, false⟩]
/-- The register rows of the 64 KiB that an address lies in. -/
def regRows (hi : Nat) : List RegDesc :=
  match hi with
  | 0x0 => regRows0
  | 0x1 => regRows1
  | 0x2 => regRows2
  | 0x3 => regRows3
  | 0x4 => regRows4_0 ++ regRows4_1 ++ regRows4_2
  | 0x6 => regRows6
  | 0x8 => regRows8
  | 0xA => regRowsA
  | 0xB => regRowsB
  | 0xC => regRowsC_0 ++ regRowsC_1
  | 0xD => regRowsD
  | 0xE => regRowsE
  | 0xF => regRowsF_0 ++ regRowsF_1
  | 0x10 => regRows10
  | 0x11 => regRows11
  | 0x12 => regRows12
  | 0x13 => regRows13
  | 0x14 => regRows14
  | 0x15 => regRows15_0 ++ regRows15_1
  | 0x16 => regRows16
  | 0x17 => regRows17
  | _ => []

/-- The index of an address within a row, if it is one of the row's registers. -/
def RegDesc.index (d : RegDesc) (a : Nat) : Option Nat :=
  if a < d.base then none
  else if d.stride = 0 then (if a = d.base then some 0 else none)
  else
    let o := a - d.base
    if o % d.stride = 0 && o / d.stride < d.count then some (o / d.stride) else none

/-- The row and index of a control-space address, none where no register is defined (R30). -/
def findRow : List RegDesc → Nat → Option (RegDesc × Nat)
  | [], _ => none
  | d :: r, a =>
    match d.index a with
    | some i => some (d, i)
    | none => findRow r a

/-- The register at a control-space address. -/
def findReg (a : Nat) : Option (RegDesc × Nat) := findRow (regRows (a / 0x10000)) a

/-- The commit group of an address: the group and, where each unit has its own, the unit. The 32 words of one write list form a group
(R101). -/
def groupOf (a : Nat) : Option (Nat × Nat) :=
  match findReg a with
  | none => none
  | some (d, i) =>
    if d.group = 0 then none
    else if 0x48000 ≤ a ∧ a < 0x4C000 then some (d.group, (a - 0x48000) / 128)
    else some (d.group, if d.perUnit then i else 0)

end Sys2Proof.Machine
end

