-- ==== Sys2Proof/Machine/State.lean ====
section
/-! DEFINITION. The state of the ZN-816 as plain data: every register, counter, queue, buffer, mode and pin the spec gives
the part, the queue of commands that wait, and the state right after power-on reset. -/

namespace Sys2Proof.Machine

/-- What stops a run. (DESIGN CHOICE, assumption 12.) -/
inductive Fault where
  /-- Raised by a meaning whose command carries operands that are not well formed (a burst of a wrong number of bytes,
  a command-page write past the end of its page): no such event exists on the part. Safe: the model stops where nothing is described. -/
  | illFormed (row : String)
  deriving DecidableEq, Repr

/-- Why a command has no meaning. -/
inductive Refusal where
  /-- Raised by a dispatch arm of a row that has no meaning yet. Safe. -/
  | notModelled (mnemonic : String)
  deriving DecidableEq, Repr

/-- One entry of the page command's completion record: the page and the place of the command in it (R428). -/
structure CmdRef where
  page : Nat
  entry : Nat
  deriving DecidableEq, Repr

/-! ## Time -/

/-- The time base (R8, R33, R34). Instants count time units of 1/9216 ns from the release of power-on reset, so that
2.5 ns, 10 ns, 1/1024 ns and both ACLK periods are whole numbers of them. (DESIGN CHOICE, assumption 3.) -/
structure Clock where
  /-- The present instant. -/
  now : Nat := 0
  /-- The Whistle generator runs (R34). -/
  started : Bool := false
  /-- Whistles so far: the counter value of the next Whistle (R8: 48 bits). -/
  next : Nat := 0
  /-- The accumulated ideal instant of the next Whistle (R33). -/
  acc : Nat := 0
  /-- The instant of the latest Whistle, on the edge grid. -/
  inst : Nat := 0
  /-- Correction of the accumulated instant of the next Whistle, in time units (R454). -/
  corr : Int := 0
  /-- What a read of WHS_COUNT_LO and of WHS_TS_LO latched (R59). -/
  countHi : Nat := 0
  tsHi : Nat := 0
  deriving DecidableEq, Repr

/-! ## Trouble log -/

/-- An event that waits for the log writer (R523). -/
structure LogEvent where
  ts : Nat
  code : Nat
  block : Nat
  sev : Nat
  args : List Byte
  two : Bool
  /-- The first of its two entries is written; the continuation waits (R520). -/
  cont : Bool := false
  /-- The LOST entry that goes before it is written (R524). -/
  cleared : Bool := false
  deriving DecidableEq, Repr

/-- The trouble log (R517–R527). (DEDUCED, assumption 34.) -/
structure Log where
  /-- The check of R518 holds: the SRAM kept its contents. -/
  valid : Bool := false
  count : Nat := 0
  held : Nat := 0
  /-- The 4,096 slots of 16 bytes, by byte. -/
  ring : Mem := []
  queue : List LogEvent := []
  dropped : Nat := 0
  filtered : Nat := 0
  /-- Drops since the previous LOST entry. -/
  lost : Nat := 0
  persist : Nat := 0
  /-- Codes already written in this tick, for events limited to one a tick. -/
  tickCodes : List Nat := []
  deriving DecidableEq, Repr

/-! ## Host port -/

/-- One open bank (R410): the row, whether the row is a lent aperture row, its 2 KiB buffer, staleness (R430), and the 64 B lines
of the buffer that came poisoned (R405). -/
structure OpenRow where
  row : Nat
  aperture : Bool
  filled : Bool
  stale : Bool
  buf : List Byte
  bad : List Nat := []
  /-- Lines that were filled before the fill is complete, each with its bytes (R412). -/
  early : Map (List Byte) := []
  deriving DecidableEq, Repr

/-- The host port (R407–R431). (DESIGN CHOICE, assumption 43.) -/
structure HostPort where
  banks : Map OpenRow := []
  /-- Mode registers (R418): shared ones by number `n`, those of set point `f` by `256 * (f + 1) + n`. -/
  mr : Map Nat := []
  /-- The operating set point and the one written. -/
  fspOp : Nat := 0
  fspWr : Nat := 0
  /-- The set-point registers that the port follows: those of the operating set point at the latest switch (R418). -/
  inUse : Map Nat := []
  /-- Write-training bursts, oldest first (R419). -/
  fifo : List (List Byte) := []
  /-- Self-refresh, power-down or deep sleep, and which of them: 0, 1 or 2; the instant from which commands are accepted again. -/
  asleep : Bool := false
  sleepKind : Nat := 0
  acceptFrom : Nat := 0
  /-- HOST_RESET_N is low, or the port waits out the 2 ms after its rise (R422). -/
  resetLow : Bool := false
  /-- What the port last drove onto its data pins, each byte with its DMI; the DQ7 input that VREF(CA) follows (R419). -/
  dq : List (Byte × Bool) := []
  dq7 : Bool := false
  /-- The data of the latest read. -/
  out : List Byte := []
  /-- Bytes moved since the latest Whistle. -/
  readTick : Nat := 0
  writeTick : Nat := 0
  /-- Command bus training and WCK2CK levelling are on. -/
  cbt : Bool := false
  levelling : Bool := false
  deriving DecidableEq, Repr

/-! ## Memories -/

/-- A staging copy (R401). -/
structure Copy where
  ref : CmdRef
  toDevice : Bool
  offset : Nat
  size : Nat
  addr : Nat
  /-- The destination lines written so far, and whether a poisoned line was read (R402). -/
  moved : List Nat := []
  failed : Bool := false
  deriving DecidableEq, Repr

/-- Court and LPDDR6 with their controllers (R389–R406). -/
structure MemSys where
  /-- The bytes of the 40-bit device address space. -/
  bytes : Mem := []
  /-- Poisoned 64 B lines, by line address (R405). -/
  poison : List Nat := []
  courtReady : Bool := false
  trained : Nat := 0
  copies : List Copy := []
  /-- Channels in self-refresh. -/
  sr : Nat := 0
  /-- Channels with any self-refresh since the latest Whistle, and payload bytes moved per channel. -/
  srTick : Nat := 0
  chBytes : Map Nat := []
  /-- The instant of each channel's latest request (R399). -/
  lastReq : Map Nat := []
  /-- MR4 report of each channel. -/
  mr4 : Map Nat := []
  /-- LPDDR6 dies report above their range (R505). -/
  hot : Bool := false
  /-- MEM_SCRUB has been committed since reset (R550); the start of each pass. -/
  scrubOn : Bool := false
  courtPass : Nat := 0
  ddrPass : Nat := 0
  refreshes : Nat := 0
  /-- The latches that a read of MEM_ERR_ADDR_LO takes (R406). -/
  errHi : Nat := 0
  errInfo : Nat := 0
  deriving DecidableEq, Repr

/-! ## Uzon plan -/

/-- A huddle record (R66). -/
structure Huddle where
  id : Nat
  parent : Nat
  composite : Bool
  pinned : Bool
  children : Nat
  split : Nat
  squadFirst : Nat
  squadCount : Nat
  engineMask : Nat
  tree : Nat
  tiling : Nat
  meSram : Nat
  deriving DecidableEq, Repr

/-- A stream route (R71). -/
structure Route where
  route : Nat
  source : Nat
  playbook : Nat
  synHud : Nat
  segHud : Nat
  decHud : Nat
  synTick : Nat
  segTick : Nat
  decTick : Nat
  viewTile : Nat
  lead : Nat
  chanFirst : Nat
  chanCount : Nat
  deriving DecidableEq, Repr

/-- A context record (R368). -/
structure CtxRec where
  id : Nat
  cls : Nat
  huddle : Nat
  role : Nat
  tickets : Nat
  rx4k : Nat
  banks : Nat
  perRoute : Nat
  routes : Nat
  jobFirst : Nat
  jobCount : Nat
  deriving DecidableEq, Repr

/-- A tensor record (R180). -/
structure Tensor where
  fmt : Nat
  guard : Bool
  weight : Bool
  gran : Nat
  dq : Nat
  shift : Int
  zero : Nat
  rank : Nat
  dims : List Nat
  producer : Nat
  deriving DecidableEq, Repr

/-- A reduction tree (R223). -/
structure Tree where
  shape : Nat
  op : Nat
  deriving DecidableEq, Repr

/-- A tiling (R221). -/
structure Tiling where
  order16 : Nat
  order15 : Nat
  chunk16 : Nat
  chunk15 : Nat
  tree15 : Nat
  valid15 : Bool
  deriving DecidableEq, Repr

/-- A sliver program (R227): its words, entry and owner. -/
structure Program where
  words : List Nat
  entry : Nat
  huddle : Nat
  deriving DecidableEq, Repr

/-- One instruction of a playbook (R149). -/
structure VInsn where
  op : Nat
  a : Nat
  b : Nat
  c : Nat
  level : Nat
  imm : Nat
  deriving DecidableEq, Repr

/-- A playbook (R148): its entries, 0xFF for none, and its instructions. -/
structure Playbook where
  full : Nat
  band : Nat
  sensor : Nat
  insns : List VInsn
  deriving DecidableEq, Repr

/-- A plan, parsed (R60–R73). -/
structure Plan where
  hash : List Byte := []
  id : Nat := 0
  version : Nat := 0
  benchEligible : Bool := false
  tickNs : Nat := 0
  tickFrac : Nat := 0
  minTick : Nat := 0
  maxTick : Nat := 0
  viewDiv : Nat := 0
  huddles : List Huddle := []
  /-- The owner of each Court bank (R69). -/
  owners : List Nat := []
  /-- Gather-buffer shares, one per composite. -/
  gather : List Nat := []
  routes : List Route := []
  contexts : List CtxRec := []
  /-- Job templates: kind, prefix and bytes (R370). -/
  templates : List (Nat × List Byte) := []
  trees : List Tree := []
  tilings : List Tiling := []
  tensors : List Tensor := []
  programs : List Program := []
  playbooks : List Playbook := []
  /-- The plan's own pattern table (R122, R147), its 1,024 signed bytes. -/
  pattern : Option (List Byte) := none
  deriving DecidableEq, Repr

/-- The plan slots (R80–R85). -/
structure Fab where
  plan : Plan := {}
  /-- A plan is in force (step 10 of R477). -/
  inForce : Bool := false
  src : Nat := 0
  switches : Nat := 0
  pend : Nat := 0
  failCode : Nat := 0
  pendHash : List Byte := []
  pendPlan : Option Plan := none
  /-- The PLAN_LOAD that waits for its verification. -/
  loading : Option CmdRef := none
  loadOffset : Nat := 0
  loadSize : Nat := 0
  /-- Epochs begun since the latest plan switch or period change: lines of older epochs are held (R54). -/
  holdAge : Nat := 0
  /-- The last key record written, for KEY_CHANGED (R467). -/
  keyRecord : Mem := []
  deriving DecidableEq, Repr

/-! ## Commit -/

/-- One reject record of the commit status page (R49). -/
structure Reject where
  addr : Nat
  cause : Nat
  kind : Nat
  value : Nat
  kept : Nat
  deriving DecidableEq, Repr

/-- A completion record (R428): the entries as code, cause and offset. -/
structure CompRec where
  seq : Nat := 0
  tag : Nat := 0
  taken : Nat := 0
  status : Nat := 0
  cause : Nat := 0
  count : Nat := 0
  pending : Nat := 0
  entries : List (Nat × Nat × Nat) := []
  deriving DecidableEq, Repr

/-- The commit window, its shadows and what the commit status page counts (R38–R49). (DEDUCED, assumption 30.) -/
structure Commit where
  /-- WC words written since the latest close, the last value per word (R39). -/
  shadow : Map Word := []
  /-- WC words frozen at the close (R39). -/
  frozen : Map Word := []
  /-- The check interval runs (R37). -/
  checking : Bool := false
  /-- Command pages whose WHS_SUBMIT bit was set since the close. -/
  submit : List Nat := []
  /-- Command pages frozen at the close. -/
  pages : List Nat := []
  /-- Pages whose record showed PENDING other than 0 at the close (R427). -/
  busyPages : List Nat := []
  /-- FAB_PLAN_STATUS.PENDING and FAIL_CODE, the pending hash and the pending plan as they stood at the close (R82). -/
  pendAtClose : Nat := 0
  failAtClose : Nat := 0
  hashAtClose : List Byte := []
  planAtClose : Option Plan := none
  /-- Late words of this window (R38). -/
  late : Nat := 0
  /-- Late words wait for the next commit (WHS_STATUS.LATE_PENDING). -/
  lateWait : Bool := false
  /-- Writes to frozen pages discarded (R40). -/
  locked : Nat := 0
  /-- Lines flagged EPOCH_MIXED since the previous page, the last line's Whistle, and the hold lines among them (R49). -/
  mixed : Nat := 0
  mixedTarget : Nat := 0
  mixedHold : Nat := 0
  /-- Lines flagged EPOCH_MIXED since the previous page, by scan-out Whistle, with those that became hold lines; some stage flagged
  a line since then. -/
  mixedLines : Map Bool := []
  mixedNow : Bool := false
  /-- Jobs stopped by the shot clock since the previous page. -/
  shots : Nat := 0
  /-- The mode epoch (R50). -/
  epoch : Nat := 0
  /-- The register image of the previous epoch, kept until the next epoch begins (R53). -/
  prevImage : Map Word := []
  /-- The commit that made the epoch allows lines under the previous image (R53), but for the huddles it re-shared. -/
  prevUsable : Bool := false
  prevHuddles : List Nat := []
  /-- Set while one Whistle applies: the epoch rises (R50), and the huddles whose contexts join or leave. -/
  epochUp : Bool := false
  reshapes : List Nat := []
  /-- Completion records by page, and ended commands that wait for the next publication phase (R428). -/
  comps : Map CompRec := []
  ended : List (CmdRef × Nat) := []
  deriving DecidableEq, Repr

/-! ## Jobs and contexts -/

/-! ## Sweeps, decisions and pictures as jobs hold them -/

/-- A source frame of a sweep (R250, R251): its slot, what its header said when the list was formed, and the result slot of
its coarse results, none where the playbook has no entry for its kind. -/
structure Src where
  addr : Nat
  port : Nat
  kind : Nat
  standIn : Bool
  seq : Nat
  tick : Nat
  result : Option Nat
  refined : Bool
  deriving DecidableEq, Repr

/-- A sweep that a synthesis job builds (R251, R253, R257, R263): the registers it runs under, its epoch, its sources, its
height map source with REF, and its prediction base with the base's age. -/
structure SynRoute where
  route : Nat
  lead : Nat
  image : Map Word
  epoch : Nat
  srcs : List Src := []
  height : Option (Src × Nat) := none
  base : Option (Nat × Nat) := none
  flags : Nat := 0
  /-- The predicted camera record Pc. -/
  pc : List Byte := []
  /-- The line is mixed and held: no sweep is fused (R52, R53). -/
  held : Bool := false
  deriving DecidableEq, Repr

/-- A track (R300); STATE FREE is an absent track. -/
structure Track where
  x : Int
  y : Int
  id : Nat
  route : Nat
  state : Nat
  matched : Bool
  conf : Nat
  hits : Nat
  misses : Nat
  extA : Nat
  extL : Nat
  cls : Nat
  last : Nat
  deriving DecidableEq, Repr

/-- A route of a decision job: its line's synthesis tick and scan-out Whistle, the registers and epoch it runs under, and
what its input checks found (R295, R314). -/
structure DecRoute where
  route : Nat
  w : Nat
  target : Nat
  image : Map Word
  epoch : Nat
  mixed : Bool := false
  hold : Bool := false
  segFail : Bool := false
  /-- Its track update is done (step 3 of R296): the detections, and the slots it changed with their contents before and after. -/
  upd : Bool := false
  dets : Nat := 0
  undo : List (Nat × Option Track × Option Track) := []
  deriving DecidableEq, Repr

/-- A job: one descriptor or one ROM stage, with what it fixed at its start (R51, R374). -/
structure Job where
  /-- 0 Matrix Engine, 1 sliver, 2 synthesis, 3 decision, 4 GEN, 5 COMPOSE, 6 takeover, 7 built-in check (R521). -/
  kind : Nat
  ctx : Nat
  huddle : Nat
  desc : Nat
  /-- The descriptor bytes latched at start. -/
  bytes : List Byte := []
  /-- The register image in force at start and its epoch (R51). -/
  image : Map Word := []
  epoch : Nat := 0
  /-- The Whistle counter value of the tick of its start. -/
  tick : Nat := 0
  budget : Nat := 0
  /-- Tiles or units complete. -/
  done : Nat := 0
  /-- Those of leaf jobs of the entry that had ended when it was released (R194, R203). -/
  before : Nat := 0
  /-- The part of a split: first row and rows, first channel and channels. -/
  rowLo : Nat := 0
  rowN : Nat := 0
  chLo : Nat := 0
  chN : Nat := 0
  /-- Active cores of each squad of the leaf at start (R465). -/
  counts : List Nat := []
  /-- Complete output tiles of a Matrix Engine job. -/
  tiles : List Nat := []
  /-- The cores of a sliver job in enumeration order (R219), its variant, units and chosen tree (R222). -/
  cores : List Nat := []
  variant : Nat := 16
  units : Nat := 0
  order : Nat := 0
  chunk : Nat := 0
  treeIx : Nat := 0
  /-- The result of the reduction is written (R226). -/
  reduced : Bool := false
  /-- Per core of a released sliver job: units complete and partial (R234). -/
  saved : List (Nat × Nat × List Nat) := []
  /-- The position of the leaf under a split composite (R78). -/
  child : Nat := 0
  /-- CHILD of the list entry, every leaf that the entry runs on, and whether it is a rerun (R78, R179). -/
  entry : Nat := 0xFF
  leaves : List Nat := []
  again : Bool := false
  /-- Cores of the leaf that were fenced at the job's start and take no part in it (R238). -/
  dead : List Nat := []
  /-- Engines and column blocks whose weight tags are checked since the job last started or resumed (R190). -/
  loaded : List (Nat × Nat) := []
  /-- The lines a ROM stage job produces: route, scan-out Whistle, synthesis tick. -/
  lines : List (Nat × Nat × Nat) := []
  /-- The routes of a synthesis or a decision job. -/
  syn : List SynRoute := []
  dec : List DecRoute := []
  /-- An up-scale job of a picture, or the COMPOSE slice (R281, R284). -/
  view : Bool := false
  slice : Nat := 0
  deriving DecidableEq, Repr

/-- A job list in progress: its address, its entries left and the next index (R376). -/
structure WorkList where
  addr : Nat := 0
  left : Nat := 0
  index : Nat := 0
  deriving DecidableEq, Repr

/-- A job that runs once more from the Whistle after `tick` on (R179): its context, descriptor, KIND and CHILD. -/
structure Rerun where
  ctx : Nat
  desc : Nat
  kind : Nat
  child : Nat
  tick : Nat
  deriving DecidableEq, Repr

/-- What a huddle runs (R374, R75–R79). (DESIGN CHOICE, assumption 51.) -/
structure HuddleRun where
  /-- The leaf jobs of the list entry that runs (R78). -/
  group : List Job := []
  /-- Tiles or units complete of leaf jobs of the entry that have ended. -/
  groupDone : Nat := 0
  /-- The entry taken is a rerun (R179). -/
  isRerun : Bool := false
  /-- ROM stage jobs that run on the huddle. -/
  rom : List Job := []
  /-- ROM stage jobs that are due (R374): kind, huddle, the Whistle they are for, and the instant from which they start. -/
  romDue : List (Nat × Nat × Nat × Nat) := []
  /-- The entry taken whose descriptor has not been started yet: context, descriptor address, kind, child. -/
  taken : Option (Nat × Nat × Nat × Nat) := none
  /-- The up-scale list of a picture: the view huddle and its entries; the entry taken is one of it (R281). -/
  ups : Option (Nat × WorkList) := none
  takenUps : Bool := false
  /-- Entries of this and recent ticks (R314): tick of start, descriptor, leaves, epoch, and status, RUNNING until the end. -/
  entries : List (Nat × Nat × List Nat × Nat × Nat) := []
  list : WorkList := {}
  /-- The context whose list that is, 32 the system context. -/
  listCtx : Nat := 32
  preempted : List Job := []
  doneCount : Nat := 0
  epoch : Nat := 0
  pinBroken : Bool := false
  /-- Jobs that run once more before the list (R179). -/
  rerun : List Rerun := []
  /-- The job that a tag mismatch stopped last: the instant, the leaf jobs of its entry and the tiles or units complete (R204). -/
  lastSkew : Option (Nat × List Job × Nat) := none
  deriving DecidableEq, Repr

/-- A resident context (R365, R388). -/
structure Ctx where
  record : CtxRec
  banks : List Nat
  epoch : Nat
  suspended : Bool := false
  list : WorkList := {}
  preempted : List Job := []
  started : Nat := 0
  preempts : Nat := 0
  discarded : Nat := 0
  deriving DecidableEq, Repr

/-- One Draw arbiter (R382): its LFSR word, the burst progress of its inputs, and the inputs that request. -/
structure Arbiter where
  lfsr : Nat
  progress : Map Nat := []
  /-- The input granted in the latest cycle, none for a dead or idle cycle. -/
  last : Option Nat := none
  deriving DecidableEq, Repr

/-- Scheduler and Draw (R365–R388). -/
structure Sch where
  ctxs : Map Ctx := []
  hud : Map HuddleRun := []
  arb : Map Arbiter := []
  /-- Plans left by a switch whose jobs still run: the plan, its huddles' runs and its contexts (R84). -/
  old : List (Plan × Map HuddleRun × Map Ctx) := []
  /-- The seed that the LFSRs were last loaded from. -/
  seed : Nat := 0x5EED0001
  /-- Set while a Whistle applies: a decision point steps its selector, and the choice follows at the end of the apply cycle. -/
  applying : Bool := false
  /-- Set while an event of a job of an earlier plan acts: no new work is taken. -/
  inOld : Bool := false
  deriving DecidableEq, Repr

/-! ## Boot and security -/

/-- A SEC command that waits (R490). -/
structure SecCmd where
  ref : CmdRef
  opcode : Nat
  bytes : List Byte
  /-- What the command took when it began to run: its aperture bytes, or the report it writes. -/
  data : Option (List Byte) := none
  deriving DecidableEq, Repr

/-- Boot, keys and measurements (R470–R494). -/
structure Sec where
  /-- The boot flash (R471); an unlisted byte reads 0xFF, erased. -/
  flash : Mem := []
  /-- The root secret in the key register, none without an identity (R472, R473). -/
  root : Option (BitVec 256) := none
  bench : Bool := false
  benchF : Bool := false
  ownerKey : List Byte := []
  ownerSeq : Nat := 0
  fwMin : Nat := 0
  generation : Nat := 0
  fwSlot : Nat := 0
  fwVersion : Nat := 0
  fwRaiseMin : Bool := false
  meas : List (List Byte) := List.replicate 4 (List.replicate 48 0)
  extends_ : List Nat := [0, 0, 0, 0]
  queue : List SecCmd := []
  startOk : Bool := false
  /-- The Whistle counter value at which the start succeeds (R480). -/
  okAt : Option Nat := none
  /-- The code of a step that failed, whose start is not recorded yet. -/
  failing : Option Nat := none
  /-- A failed start waits for its warm reset. -/
  resetDue : Bool := false
  reason : Nat := 0
  failed : Nat := 0
  fwErr : Nat := 0
  /-- FAILED of the record that a failure of this start writes (R480). -/
  failNext : Nat := 1
  /-- The flash answered the probe of this start (R470). -/
  flashOn : Bool := true
  /-- The plan of step 9 with its source, and the instant of step 10 or of the failure (R477). -/
  ready : Option (Plan × Nat) := none
  readyAt : Nat := 0
  /-- A measurement changed since the status page was written (R494). -/
  pageDue : Bool := false
  deriving DecidableEq, Repr

/-! ## Power -/

/-- Where the part stands between a reset and a plan in force (R499, R513). -/
inductive Phase where
  | reset | boot | run
  deriving DecidableEq, Repr

/-- Supplies, resets and shedding (R495–R515). -/
structure Pwr where
  phase : Phase := .reset
  cause : Nat := 0
  pgFell : Nat := 0
  /-- The levels of PG[5:0] and POR_N, and the straps as sampled (R501). -/
  pg : Nat := 0
  porN : Bool := false
  straps : Nat := 0
  /-- The latest 16 conversions of each sense, newest first, and the filtered values. -/
  busRing : List Nat := []
  coreRing : List Nat := []
  /-- Filtered samples since the evaluation window began: instant, bus mV, core mV or none. -/
  samples : List (Nat × Option Nat × Option Nat) := []
  /-- The latest junction-temperature readings by sensor, and the highest ones since the evaluation window began (R505). -/
  temps : List Int := []
  tempSamples : List (Nat × Int) := []
  level : Nat := 0
  stable : Nat := 0
  evaluated : Bool := false
  /-- The Whistle at which step 6 took force. -/
  step6At : Option Nat := none
  entries : List Nat := [0, 0, 0, 0, 0, 0, 0]
  /-- A WARM_RESET command was accepted; its reset falls at this instant (R502). -/
  warmAt : Option Nat := none
  /-- The instant of the latest reset's cause. -/
  causeAt : Nat := 0
  deriving DecidableEq, Repr

/-! ## Performance monitor -/

/-- How far a tagged instruction has come (R539, R540): issued; its request or message in the queue of a core, behind `left` − 1
others; complete; its job stopped, pre-empted or left before that, or its core benched. -/
inductive ScoutPhase where
  | issued
  | queued (core left : Nat)
  | complete
  | discarded
  deriving DecidableEq, Repr

/-- A tagged instruction (R538, R539): what its record takes from the instant of issue, and how far it has come. -/
structure ScoutTag where
  lcn : Nat
  pc : Nat
  word : BitVec 32 := 0
  ctx : Nat
  huddle : Nat
  whistle : Nat
  /-- The DMA and REMOTE flags and the address of the record. -/
  dma : Bool := false
  remote : Bool := false
  addr : Nat := 0
  phase : ScoutPhase := .issued
  deriving DecidableEq, Repr

/-- Counters and scout (R530–R543). -/
structure Pmc where
  count : Map Nat := []
  hiLatch : Map Nat := []
  scoutLfsr : Nat := 0x5C0F0001
  countdown : Int := 0
  armed : Bool := false
  inFlight : Option ScoutTag := none
  /-- The latest ACLK cycle in which an instruction issued, the cores that have issued one in it, and whether the tag in flight was
  given in it (R538). -/
  cycle : Nat := 0
  issued : List Nat := []
  tagged : Bool := false
  deriving DecidableEq, Repr

/-! ## Field raster -/

/-- A line taken into the line buffer at its fetch point, with the settings of that instant (R321). -/
structure Line where
  target : Nat
  /-- W_T, once it has come. -/
  at_ : Nat := 0
  /-- FRS_CTRL, FRS_CHAIN_EN, FRS_LINE, FRS_PULSE, FRS_FRAME and the chain lengths as they stood at F_T. -/
  ctrl : Nat := 0
  frame : Nat := 0x960
  chainEn : Nat := 0
  length : Nat := 0
  pulse : Nat := 0
  lens : List Nat := []
  /-- The last step of the line (R318). -/
  lastStep : Nat := 0
  /-- The entry's epoch, flags and channel words. -/
  epoch : Nat := 0
  flags : Nat := 0
  words : List Nat := []
  /-- The underrun cause, 0 none (R323). -/
  cause : Nat := 0
  /-- Incomplete because a line-path job of the line stopped at or after F_T (R57, R237). -/
  stopped : Bool := false
  /-- Resolved transitions: channel, then step and level pairs (R320). -/
  moves : List (Nat × List (Nat × Bool)) := []
  lateWrites : Nat := 0
  outcome : Nat := 0
  code : Nat := 0
  /-- The line of the takeover Whistle: its takeover chains show SAFE, cause 0x13 (R336). -/
  tk : Bool := false
  /-- The levels when the line was released, by channel bit. -/
  before : Nat := 0
  /-- Direct-pin transitions that have not taken place: pin, step, level. -/
  due : List (Nat × Nat × Bool) := []
  /-- The emergency hold cancelled the rest of the line. -/
  cancelled : Bool := false
  /-- Intended direct transitions that took place, in order: pin, level, step. -/
  seen : List (Nat × Bool × Nat) := []
  frameSent : Bool := false
  expCrc : List Nat := [0, 0, 0, 0, 0, 0, 0, 0, 0]
  actCrc : List Nat := [0, 0, 0, 0, 0, 0, 0, 0, 0]
  failChains : Nat := 0
  failDirect : Bool := false
  deriving DecidableEq, Repr

/-- A route is done with a line: the line's synthesis tick and epoch, and that its line is a hold line, mixed, or in the gap of a
change of lead (R312, R317). -/
structure RouteNote where
  src : Nat
  epoch : Nat
  held : Bool := false
  mixed : Bool := false
  gap : Bool := false
  deriving DecidableEq, Repr

/-- What routes have done with a line that is being produced (R312): the routes that are done with it, and that channel words have been
written. -/
structure LineNote where
  routes : Map RouteNote := []
  begun : Bool := false
  deriving DecidableEq, Repr

/-- The field head (R316–R340). (DEDUCED, assumption 57.) -/
structure Frs where
  /-- Outputs are enabled: step 10 of the boot sequence is done (R337). -/
  drive : Bool := false
  /-- The level of each channel after the current line, by channel bit. -/
  levels : Nat := 0
  /-- The line fetched for the next Whistle, the line being scanned, and the one before. -/
  fetched : Option Line := none
  cur : Option Line := none
  prev : Option Line := none
  /-- The wire bytes of the latest frame of each chain (R326). -/
  frames : Map (List Byte) := []
  /-- Chains whose FRM is high, and since when (R321). -/
  frm : Nat := 0
  frmRise : Nat := 0
  /-- The code signalled last: 0 SAFE, 1 FREEZE, 2 APPLY; the chains whose SYNC rises for it, the instant of the rise, and the chains
  whose DAT carries 1 (R327). -/
  wireCode : Nat := 0
  sync : Nat := 0
  syncRise : Nat := 0
  /-- The SYNC pulse before: its chains and the instant of its rise (R330); the chains whose SYNC is held or kept high (R327). -/
  pulseWas : Nat := 0
  pulseRise : Nat := 0
  syncKept : Nat := 0xFF
  dat : Nat := 0
  /-- Direct pins that carry the ON level, by pin bit. -/
  pins : Nat := 0
  ehold : Nat := 0
  releasePending : Bool := false
  faultSafe : Bool := false
  faultDue : Bool := false
  rbRun : Nat := 0
  takeover : Bool := false
  /-- The Whistle of the takeover (R336). -/
  takeoverAt : Option Nat := none
  /-- Lines below this Whistle counter value are hold lines after a plan switch (R84). -/
  holdBelow : Nat := 0
  /-- Lines that are being produced, by scan-out Whistle (R312). -/
  lines : Map LineNote := []
  deriving DecidableEq, Repr

/-! ## Sliver cores -/

/-- Why a core stalls (R230, R235, R552); the register and address operands are kept for the instruction's completion. -/
inductive CoreWait where
  /-- WAIT: every GET, PUT and BLKGET of the core. -/
  | dma
  /-- FENCE: every DMA and SEND of the core. -/
  | fence
  | recv (d a : Nat)
  | bar
  | gshift (d tensor tile : Nat)
  /-- A resource is short (four requests in flight, the receive slot): the instruction issues again. -/
  | again
  /-- A SEND to a full mailbox: the instruction issues again. -/
  | full
  deriving DecidableEq, Repr

/-- A DMA request in flight (R207, R442): 0 GET, 1 PUT, 2 BLKGET. -/
structure Dma where
  kind : Nat
  loc : Nat
  addr : Nat
  size : Nat
  tile : Nat
  /-- The remote device, none for a local request, and the request number of each of its beats. -/
  device : Option Nat := none
  reqs : List Nat := []
  deriving DecidableEq, Repr

/-- One sliver core (R207, R213). -/
structure Core where
  /-- The core runs a job of this leaf. -/
  active : Bool := false
  huddle : Nat := 0xFF
  s : Map Word := []
  v : Map (BitVec 256) := []
  w : Map (BitVec 512) := []
  /-- Lanes of each w register whose accumulation saturated (R168). -/
  wsat : Map (BitVec 16) := []
  m : Map (BitVec 16) := []
  pc : BitVec 13 := 0
  loc : Mem := []
  /-- Messages received, oldest first, and messages on their way: sender's logical number, 16 bytes. -/
  mail : List (Nat × List Byte) := []
  inbound : List (Nat × List Byte) := []
  dma : List Dma := []
  wait : Option CoreWait := none
  ended : Bool := false
  /-- Units returned and complete, and the partial of the reduction with the staged words (R220, R225). -/
  taken : Nat := 0
  unitsDone : Nat := 0
  inUnit : Bool := false
  /-- The unit being worked and the remote requests made within it (R443). -/
  unit : Nat := 0
  remoteN : Nat := 0
  partialWords : List Nat := []
  staged : List (List Nat) := []
  /-- Tile counters (R209): saturated, underflowed, elements. -/
  sat : Nat := 0
  uflow : Nat := 0
  elems : Nat := 0
  /-- The tensor, tile, shift and offset of the latest GSHIFT (R233). -/
  gtensor : Option (Nat × Nat × Int × Int) := none
  /-- Tags latched by BLKGET for a tile: tensor, tile, data tag and scale tag (R232). -/
  tags : Option (Nat × Nat × Option Nat × Option Nat) := none
  deriving DecidableEq, Repr

/-- One squad (R238–R244). -/
structure Squad where
  spare : Bool := true
  sub : Option Nat := none
  off : Option Nat := none
  lost : Bool := false
  /-- Benched physical slots, by bit. -/
  bench : Nat := 0
  /-- Slots fenced since the latest Whistle, whose mapping change waits (R238). -/
  fenced : List Nat := []
  jobs : Nat := 0
  checking : Bool := false
  deriving DecidableEq, Repr

/-- The offset sequence of a guarded tensor in one tick (R174): the offsets used by tiles 0, 1, …; the last one is the
offset of the next tile. -/
structure Guard where
  offs : List Int := [0]
  logged : Bool := false
  deriving DecidableEq, Repr

/-- The league and the guarded tensors. (DESIGN CHOICE, assumption 66.) -/
structure Slv where
  squads : Map Squad := []
  cores : Map Core := []
  guards : Map Guard := []
  checkDone : Bool := false
  checkFailed : Nat := 0
  engineDone : Bool := false
  engineFail : Nat := 0
  /-- Busy ACLK cycles of each engine since the latest Whistle (R206). -/
  busy : Map Nat := []
  /-- Of the tile that each engine works on: the instant up to which its cycles are counted, the engine cycles and the ACLK
  cycles spent until then (R204). -/
  spent : Map (Nat × Nat × Nat) := []
  deriving DecidableEq, Repr

/-! ## Lysba -/

/-- A frame: its fields but the CRC, SEQ and ACKSEQ as the frame was sent with them, and the Draw input and tag it enters under
(R437, R440). -/
structure LFrame where
  typ : Nat
  dst : Nat
  src : Nat
  ctx : Nat
  hops : Nat
  info : Nat
  payload : List Byte
  seqNo : Nat := 0
  ackNo : Nat := 0
  input : Nat := 65
  tag : Nat := 32
  deriving DecidableEq, Repr

/-- One Lysba link (R434–R440). -/
structure LLink where
  state : Nat := 0
  narrow : Bool := false
  cause : Nat := 0
  peer : Nat := 0
  laneOk : Nat := 0
  delay : Nat := 0
  crc : Nat := 0
  replays : Nat := 0
  retrains : Nat := 0
  fails : Nat := 0
  slots : Nat := 0
  slotTick : Nat := 0
  /-- SEQ of the next frame sent; the SEQ expected of the peer. -/
  txSeq : Nat := 0
  rxSeq : Nat := 0
  /-- Frames not acknowledged, oldest first, at most 256. -/
  buffer : List (Nat × LFrame) := []
  /-- The SEQ of the latest NAK and how often it has come. -/
  nakSeq : Nat := 0
  nakCount : Nat := 0
  /-- Control frames sent, newest first, for the latest tick; data frames that wait for their slot. -/
  control : List LFrame := []
  queue : List LFrame := []
  deriving DecidableEq, Repr

/-- One entry of a context's receive slot (R377, R443): the key (E, unit, n), the job and core it serves, the request,
and the status of the reply once it is in; its data stands in the slot's memory. -/
structure RxEntry where
  ctx : Nat
  entry : Nat
  join : Nat
  huddle : Nat
  e : Nat
  unit : Nat
  n : Nat
  lcn : Nat
  write : Bool
  device : Nat
  loc : Nat
  reply : Option Nat := none
  deriving DecidableEq, Repr

/-- The mirror copy of the partner (R448): track images by slot, pose records (0 machine, 1 + c camera c), offsets by
the first tensor of their beat, route blocks by route. -/
structure Mirror where
  tracks : Map (List Byte) := []
  poses : Map (List Byte) := []
  offsets : Map (List Byte) := []
  routes : Map (List Byte) := []
  deriving DecidableEq, Repr

/-- One section frame of a batch: section, INFO [31:8] and payload. -/
structure MirrorBeat where
  sect : Nat
  info : Nat
  payload : List Byte
  deriving DecidableEq, Repr

/-! ## Camera intake and motion -/

/-- A frame on a port: its descriptor as it stood at the frame start, and what its header reports (R91–R97). -/
structure Frame where
  port : Nat
  /-- 0 FULL, 1 BAND. -/
  kind : Nat := 0
  vc : Nat := 0
  dt : Nat := 0
  num : Nat := 0
  seq : Nat := 0
  /-- The schedule slot expected, 0xFF with no schedule. -/
  slot : Nat := 0xFF
  width : Nat := 0
  height : Nat := 0
  /-- The slot's address; none where the ring has no slot of the kind. -/
  addr : Option Nat := none
  fsTs : Nat := 0
  feTs : Nat := 0
  tick : Nat := 0
  captTs : Int := 0
  fsyncSeq : Nat := 0xFFFFFFFF
  rowNs : Nat := 0
  epoch : Nat := 0
  bad : Nat := 0
  note : Nat := 0
  /-- Lines seen, a line of another length than the descriptor's was among them, and the Whistle of the latest packet. -/
  lines : Nat := 0
  odd : Bool := false
  lastPkt : Nat := 0
  /-- SEQ of the port's previous frame of the same kind. -/
  prevSeq : Option Nat := none
  /-- The frame matches no stream, or its rest is discarded after an overflow. -/
  discarded : Bool := false
  overflow : Bool := false
  /-- The lines stored when the buffer overflowed. -/
  cut : Nat := 0
  deriving DecidableEq, Repr

/-- One camera port. -/
structure CamPort where
  /-- Frames being received, one per virtual channel at most. -/
  frames : List Frame := []
  /-- Frames of the port so far (R96), and slots taken of each kind. -/
  count : Nat := 0
  fullN : Nat := 0
  bandN : Nat := 0
  /-- SEQ of the latest frame of each kind. -/
  lastSeq : Map Nat := []
  /-- The current schedule slot; none before the first pulse after a commit to the schedule (R99). -/
  slot : Option Nat := none
  /-- FSYNC: pulses so far, the timestamp and instant of the latest, the pin carries its active level. -/
  pulses : Nat := 0
  pulseTs : Nat := 0
  pulseAt : Nat := 0
  pulseTick : Option Nat := none
  high : Bool := false
  /-- Slots whose frame is to be marked LIST_LATE, and pulses whose slot's frame is to be marked LIST_FAIL. -/
  late : List Nat := []
  failed : List Nat := []
  /-- The Whistle of the latest frame end, or of the port's enabling (R92). -/
  lastEnd : Nat := 0
  hs : Bool := false
  hsTick : Bool := false
  deskewed : Bool := false
  noSignal : Bool := false
  deriving DecidableEq, Repr

/-- A complete frame of a port under the Kickoff plan: its size, data type and lines, the timestamp of its end, and the frames per second
from the one before (R86). -/
structure KickPic where
  width : Nat
  height : Nat
  dt : Nat
  lines : List (List Byte)
  ts : Nat
  rate : Nat := 0
  deriving DecidableEq, Repr

/-- What the Kickoff plan holds of a port: the virtual channel chosen, the frame being received, and the green decision
of the latest frame with its tick (R86, R87). -/
structure KickPort where
  vc : Nat
  dt : Nat
  lines : List (List Byte) := []
  receiving : Bool := false
  /-- The latest complete frame. -/
  last : Option KickPic := none
  /-- Decisions of complete frames, newest first: tick, 64 strip bits. -/
  green : List (Nat × Nat) := []
  deriving DecidableEq, Repr

/-- A write list in a master's queue: its port, the slot it prepares and that slot's pulse, the instant of the edge that issued it, and
its entries left (R100–R103). -/
structure BusList where
  port : Nat
  slot : Nat
  pulse : Nat
  at_ : Nat
  entries : List Nat
  deriving DecidableEq, Repr

/-- A step of the address assignment of a bus in I3C mode (R102): the two broadcasts, then for each port SETDASA with its sensor's
address. -/
inductive I3cStep where
  | rstdaa
  | disec
  | setdasa (port addr : Nat)
  deriving DecidableEq, Repr

/-- An I3C/I2C master (R102, R103): address assignment steps left, the dynamic addresses given by port, lists queued, the instant at
which the running entry began, and the bytes of the latest transaction. -/
structure CamBus where
  setup : List I3cStep := []
  dyn : Map Nat := []
  queue : List BusList := []
  since : Nat := 0
  sent : List Byte := []
  deriving DecidableEq, Repr

/-- A wheel encoder (R107): filtered levels, count modulo 2^32, and the count at the latest Whistle. -/
structure Encoder where
  a : Bool := false
  b : Bool := false
  count : Nat := 0
  latch : Nat := 0
  deriving DecidableEq, Repr

/-- A pose record (R113). -/
structure Pose where
  whistle : Nat := 0
  x : Int := 0
  y : Int := 0
  z : Int := 0
  heading : Nat := 0
  pitch : Int := 0
  roll : Int := 0
  speed : Int := 0
  yawRate : Int := 0
  flags : Nat := 0
  epoch : Nat := 0
  lead : Nat := 0
  deriving DecidableEq, Repr

/-- The camera poses of one Whistle, its timestamp, and whether its origin was reset (R112). -/
structure PoseEntry where
  ts : Nat
  origin : Bool
  cams : List Pose
  deriving DecidableEq, Repr

/-- The CAM block (R88–R114). -/
structure Cam where
  ports : Map CamPort := []
  kick : Map KickPort := []
  /-- Frames that ended and wait for the publication of their header (R94). -/
  ended : List Frame := []
  /-- Published frames whose slots no later frame has taken (R103, R105). -/
  recent : List Frame := []
  buses : Map CamBus := []
  /-- Bytes written since the latest Whistle. -/
  bytes : Nat := 0
  encs : List Encoder := [{}, {}]
  /-- The Whistle counter value of the tick of the latest encoder edge. -/
  edgeTick : Option Nat := none
  /-- The stamp of the IMU read that runs; the latest complete sample and its stamp; the Whistle since which EN is 1. -/
  imuRead : Option Nat := none
  /-- The bytes that the latest IMU read sent. -/
  imuSent : List Byte := []
  imu : Option (Nat × List Int) := none
  imuSince : Option Nat := none
  pps : Option Nat := none
  ppsLost : Bool := false
  /-- The timestamp of the commit that enabled PPS. -/
  ppsSince : Nat := 0
  ppsHi : Nat := 0
  /-- The machine pose (R110). -/
  pose : Pose := {}
  /-- The next pose is the origin (R110, step 10 of R477). -/
  originDue : Bool := true
  hist : Map PoseEntry := []
  slipWas : Bool := false
  noDistWas : Bool := false
  staleWas : Bool := false
  deriving DecidableEq, Repr

/-! ## Vision -/

/-- A corner record (R121). -/
structure Corner where
  x : Nat
  y : Nat
  score : Nat
  level : Nat
  origin : Nat
  id : Nat
  age : Nat
  deriving DecidableEq, Repr

/-- A flow record (R127), with the instruction that wrote it. -/
structure FlowRec where
  id : Nat
  xp : Nat
  yp : Nat
  x : Nat
  y : Nat
  conf : Nat
  status : Nat
  age : Nat
  insn : Nat
  deriving DecidableEq, Repr

/-- A run of a playbook entry on a frame, from its frame start to the publication of its refined results (R137–R145). -/
structure VRun where
  cur : Frame
  /-- The other frame of a pair's pulse. -/
  partner : Option Frame := none
  /-- The run is a pair's; its CUR is settled. -/
  pair : Bool := false
  settled : Bool := true
  /-- The frame of CUR, of PARTNER, has ended. -/
  curDone : Bool := false
  partnerDone : Bool := false
  /-- Settings in force at the frame start (R142). -/
  image : Map Word := []
  period : Nat := 0
  insns : List VInsn := []
  pattern : List Byte := []
  /-- Instructions issued, END reached, units in use by instruction, and instructions ended. -/
  issued : Nat := 0
  closed : Bool := false
  units : List (Nat × Nat) := []
  done : List Nat := []
  /-- Results by the instruction that gave them, so that no result depends on which of two ends first (R116): a set with its members or
  its descriptors, match records, flow records, DVIS, the disparity words and confidences at level 1, and tile confidences. -/
  sets : Map (Nat × List Corner) := []
  descs : Map (Nat × List Nat) := []
  matches_ : Map (List (Nat × Nat × Nat × Nat)) := []
  flows : List FlowRec := []
  dvis : Map (Int × Nat) := []
  disp : Map (List Nat × List Nat) := []
  tiles : Map (List Nat) := []
  /-- The new corners carry their TRACK_IDs; until then each carries a number of the model's own, from 2^32 on (R120). The first of the
  TRACK_IDs kept for them, where a later run of the port has drawn its own already. -/
  numbered : Bool := false
  idBase : Option Nat := none
  flags : Nat := 0
  tick : Option Nat := none
  /-- The Whistle of coarse publication; the refined results are out. -/
  published : Option Nat := none
  finished : Bool := false
  /-- Tiles chosen for refinement and not complete; refined flow records and patches. -/
  chosen : List Nat := []
  /-- The units that the refine work on the first of them holds. -/
  refUnits : List Nat := []
  /-- A chosen tile was given up on a poisoned line. -/
  spoiled : Bool := false
  rflows : List FlowRec := []
  patches : List (Nat × List Nat × List Nat × Nat) := []
  /-- Where the next array of the slot goes. -/
  top : Nat := 0
  deriving DecidableEq, Repr

/-- The VSN block (R115–R154). -/
structure Vsn where
  /-- Runs of each sequencer, oldest first. -/
  runs : Map (List VRun) := []
  /-- Published runs of each port and kind that a later frame may name as PREV, newest first, by port × 2 + kind. -/
  prev : Map (List VRun) := []
  /-- The next TRACK_ID of each port (R120). -/
  ids : Map Nat := []
  /-- d_vis handed to the motion model for the present Whistle: port, value, confidence. -/
  handed : List (Nat × Int × Nat) := []
  deriving DecidableEq, Repr

/-! ## Synthesis, tracks and views -/

/-- The SYN block's own state: the Whistles at which each route's lead changed, newest first, each with the lead before (R266). -/
structure Syn where
  leadAt : Map (List (Nat × Nat)) := []
  /-- The Whistle from which each enabled route has been enabled. -/
  since : Map Nat := []
  deriving DecidableEq, Repr

/-- The TRK block (R300, R309). -/
structure Trk where
  /-- Slots that are not FREE. -/
  slots : Map Track := []
  nextId : Nat := 0
  /-- ON_L and RUN of each device channel; an absent RUN is 255. -/
  onL : Nat := 0
  run : Map Nat := []
  /-- Tables as they stood when a CLEAR emptied the table at a Whistle, with the counter, for decision jobs that cross it (R313). -/
  past : List (Nat × Map Track × Nat) := []
  /-- Slots changed since the latest mirror batch began (R446). -/
  changed : List Nat := []
  deriving DecidableEq, Repr

/-- A picture in progress (R272–R276). -/
structure Pic where
  /-- Its view start V; the descriptor, SYN_VW_CTRL, registers and epoch latched at GEN start (R275). -/
  start : Nat
  desc : List Byte
  image : Map Word
  epoch : Nat
  dv : Nat
  /-- GEN's inputs by tile (R280): the source frames, and the sweep slot. -/
  srcs : Map (List Src) := []
  sweeps : Map Nat := []
  /-- The machine pose of V − Dv, from which the view poses come (R279). -/
  machine : Pose := {}
  /-- The up-scale list ended OK; the state at the Whistle V − C is settled (R282). -/
  upsDone : Bool := false
  settled : Bool := false
  /-- FLAGS of the header (R287); a shedding step was in force at GEN start (R285). -/
  flags : Nat := 0
  shed : Bool := false
  /-- The slot, the packing format and the CRC register of the rows packed so far, from slice 0 on. -/
  slot : Nat := 0
  addr : Nat := 0
  fmt : Nat := 2
  crc : Nat := 0xFFFFFFFF
  /-- Tile records (R287), written by GEN. -/
  tiles : List (List Byte) := []
  deriving DecidableEq, Repr

/-- What a fixed path drew (R292): bench mode's status card with the character codes of its text lines (R482), or the Kickoff plan's
mosaic with the pictures that its tiles show, none where a port is without signal (R86). -/
inductive FixedPic where
  | card (lines : List (List Nat))
  | mosaic (tiles : List (Option KickPic))
  deriving DecidableEq, Repr

/-- A complete picture as its header reports it (R287); slot 3 is the picture of a fixed path (R292). -/
structure PicInfo where
  slot : Nat
  addr : Nat
  seq : Nat
  start : Nat
  epoch : Nat
  crc : Nat
  width : Nat
  height : Nat
  stride : Nat
  format : Nat
  static : Bool
  /-- The drawing of a fixed path, whose pixels follow from it. -/
  drawn : Option FixedPic := none
  deriving DecidableEq, Repr

/-- The view pipeline (R269–R294). -/
structure Vw where
  /-- The Whistle Wa at which the cadence last began, and the effective divisor since (R269, R271). -/
  began : Option Nat := none
  dv : Nat := 0
  pic : Option Pic := none
  /-- Complete pictures; the newest one. -/
  pics : Nat := 0
  newest : Option PicInfo := none
  /-- Pictures of a fixed path (R292). -/
  fixed : Nat := 0
  /-- The header of the latest picture of a fixed path (R292). -/
  fixedHdr : List Byte := []
  /-- The picture that the view head shows, and whether the latest view start repeated it (R288). -/
  shown : Option PicInfo := none
  repeated : Bool := false
  /-- The machine pose of the Whistle at which the latest GEN became due. -/
  machine : Pose := {}
  deriving DecidableEq, Repr

/-! ## View head -/

/-- A frame that an output of the view head sends (R343–R358). -/
structure ViewFrame where
  /-- Its view start, and the line grid it lies on: the instant of the grid's first line, and the line with which the frame starts
  (R344). -/
  view : Nat
  base : Nat
  line0 : Nat := 0
  /-- The values in force for the frame (R351). -/
  img : Map Word := []
  pic : Option PicInfo := none
  again : Bool := false
  misfit : Bool := false
  slow : Bool := false
  lines : Nat := 0
  /-- The line buffer: lines fetched and not yet sent, each with the bytes of its picture rows; the lines fetched and the lines sent so
  far (R354). -/
  buf : Map (List (List Byte)) := []
  next : Nat := 0
  sent : Nat := 0
  /-- Lines with an underrun, with the pixel from which the background stands. -/
  bad : Map Nat := []
  /-- The CRC registers of FETCH and EXP over the lines sent so far (R357). -/
  fetch : Nat := 0xFFFFFFFF
  exp : Nat := 0xFFFFFFFF
  /-- LINE_MATCH of the frame has been raised (R358). -/
  matched : Bool := false
  /-- 0 active, 1 SOB passed, 2 compared, 3 recorded. -/
  stage : Nat := 0
  flags : Nat := 0
  crcs : List Nat := [0, 0, 0]
  deriving DecidableEq, Repr

/-- The view head (R341–R364). -/
structure Vrs where
  /-- The values in force of each output (R351). -/
  dp : Map Word := []
  lv : Map Word := []
  /-- View starts whose frame start has not come: the Whistle and its instant. -/
  dpDue : Option (Nat × Nat) := none
  lvDue : Option (Nat × Nat) := none
  frame : Option ViewFrame := none
  clone : Option ViewFrame := none
  /-- The DisplayPort frame before the present one, where its FRAME_DONE or its record is still to come (R358). -/
  prev : Option ViewFrame := none
  /-- The clone's frame before the present one, where its read-back is still to be compared (R357). -/
  clonePrev : Option ViewFrame := none
  /-- The boot sequence has enabled the view head: lanes, AUX and LVDS pairs leave electrical idle and high-Z (R362). -/
  on : Bool := false
  /-- The sink is in D3 and the PHY is powered down (R360); MSA_TIMING_PAR_IGNORE_EN as written to the sink (R341). -/
  d3 : Bool := false
  msaIgnore : Bool := false
  /-- The training pattern of the latest equalisation: 2, 3 or 4 for TPS2, TPS3 or TPS4 (R341). -/
  tps : Nat := 0
  /-- The sink is present, the link is trained, and training runs. -/
  hpd : Bool := false
  up : Bool := false
  training : Bool := false
  rate : Nat := 0
  lanes : Nat := 0
  blanked : Bool := false
  /-- Slow mode, the run of static or repeated frames, and view starts without a frame (R353). -/
  slow : Bool := false
  run : Nat := 0
  passed : Nat := 0
  /-- The latest compared frame of each output failed its read-back (R357). -/
  dpBad : Bool := false
  lvBad : Bool := false
  deriving DecidableEq, Repr

/-! ## Links and pair -/

/-- Links, ring and pair (R432–R456). -/
structure Lys where
  links : List LLink := [{}, {}]
  rx : List RxEntry := []
  /-- Requests that arrived and are not served yet, oldest first, with their link. -/
  served : List (Nat × LFrame) := []
  /-- Whistle alignment (R454): the latest e in 2.5 ns steps, the run of Whistles within 20 ns, a SYNC of the present tick, LOCKED,
  PERIOD_MISMATCH, COUNT_OFFSET and its latch. -/
  syncErr : Int := 0
  syncRun : Nat := 0
  synced : Bool := false
  locked : Bool := false
  mismatch : Bool := false
  offset : Nat := 0
  offsetLatch : Nat := 0
  /-- The batch being received, complete batches that wait for a Whistle (the sender's W, FLAGS and beats), and W of the latest
  MIRROR_END. -/
  batch : List MirrorBeat := []
  ready : List (Nat × Nat × List MirrorBeat) := []
  lastEnd : Option Nat := none
  mirror : Mirror := {}
  gap : Bool := false
  /-- The batch being sent (R446): the section due next (6 when the batch is closed), its beats so far, whether it is FULL, and
  whether the next one is. -/
  sendSect : Nat := 6
  sendBeats : List MirrorBeat := []
  sendFull : Bool := false
  fullNext : Bool := false
  /-- The register words for section LOG, the route blocks last sent, and that a plan switch calls for them again. -/
  logWords : List (Nat × Word) := []
  blocks : Map (List Byte) := []
  routesDue : Bool := true
  sent : Nat := 0
  received : Nat := 0
  /-- Heartbeats (R449): one of the present tick has arrived, those missed in a row, and the latest was received. -/
  heard : Bool := false
  /-- The number of the latest heartbeat that counted, and the own tick in which it arrived (R449). -/
  beatAt : Option (Nat × Nat) := none
  missed : Nat := 0
  partnerOk : Bool := false
  /-- A second miss waits for its Whistle; the takeover is in force (R450). -/
  tkDue : Bool := false
  takeover : Bool := false
  /-- W of the last applied batch, the own Whistle at which it applied, the own machine pose that the mirrored poses stand at, and
  the partner's heading less the own one (R453). -/
  batchW : Nat := 0
  batchAt : Nat := 0
  ownPose : Pose := {}
  headDiff : Nat := 0
  /-- ON_L and RUN of the partner's channels, an absent RUN being 255, and the latest line the takeover job wrote (R453). -/
  tkOn : Nat := 0
  tkRun : Map Nat := []
  tkLine : Option Nat := none
  deriving DecidableEq, Repr

/-- The whole machine. (DESIGN CHOICE, assumptions 7, 8.) -/
structure State where
  /-- The grade of the part (R1): false ZN-816-I, true ZN-816-X. -/
  gradeX : Bool := false
  /-- Registers in force, by control-space address; an absent word holds its reset value. -/
  regs : Map Word := []
  clk : Clock := {}
  com : Commit := {}
  log : Log := {}
  hpt : HostPort := {}
  /-- The shadow command pages, by control-space address. -/
  pages : Mem := []
  /-- The status region, by control-space address. -/
  status : Mem := []
  mem : MemSys := {}
  fab : Fab := {}
  sch : Sch := {}
  sec : Sec := {}
  pwr : Pwr := {}
  pmc : Pmc := {}
  frs : Frs := {}
  slv : Slv := {}
  lys : Lys := {}
  cam : Cam := {}
  vsn : Vsn := {}
  syn : Syn := {}
  trk : Trk := {}
  vw : Vw := {}
  vrs : Vrs := {}
  /-- The model's own counter of free values drawn; no statement rests on it. -/
  free : Nat := 0
  /-- The commands that wait, first in, first out. -/
  pending : List Instr := []
  deriving DecidableEq, Repr

/-- The machine right after power-on reset: every field at its reset value, the command queue empty. (DESIGN CHOICE, assumptions 2, 6.) -/
def State.reset : State := {}

end Sys2Proof.Machine
end

