-- ==== Sys2Proof/Machine/Ops.lean ====
section
/-! DEFINITION. The named operations every meaning is written from: time, registers, event bits, the trouble log, device
memory with its permission rule, the host's aperture, and the CRC-32. -/

namespace Sys2Proof.Machine

/-- What a meaning answers. -/
abbrev Out := Host.Outcome State Fault Refusal

/-! ## Time -/

/-- Time units of one nanosecond, of one 10 ns timestamp step and of one 2.5 ns edge-grid step. (DESIGN CHOICE, assumption 3.) -/
def tuNs : Nat := 9216
def tuStep : Nat := 92160
def tuEdge : Nat := 23040

/-- The first edge-grid instant at or after an instant (R33). -/
def edgeCeil (t : Nat) : Nat := ceilDiv t tuEdge * tuEdge

/-- Time units of one ACLK cycle (R1, R23). -/
def tuAclk (s : State) : Nat := if s.gradeX then 25600 else 23040

/-- A period register value in time units (R33). -/
def periodTu (w : Nat) : Nat := (bits w 19 0 * 1024 + bits w 29 20) * 9

/-- The present timestamp (R8). -/
def tsNow (s : State) : Nat := s.clk.now / tuStep

/-- The counter value of the latest Whistle, 0 before the first; the counter has 48 bits (R8). -/
def tickNow (s : State) : Nat := if s.clk.started = true ∧ s.clk.next = 0 then 2 ^ 48 - 1 else s.clk.next - 1

/-! ## Registers -/

/-- A register's reset value (R11 and the register tables). -/
def resetValue (gradeX : Bool) (straps : Nat) (a : Nat) : Nat :=
  match findReg a with
  | none => 0
  | some (d, _) =>
    match d.kind with
    | .fixed => d.reset
    | .grade lo i x => d.reset + (if gradeX then x else i) * 2 ^ lo
    | .bus24 h l hh hl => if straps.testBit 3 then d.reset + h + hh * 2 ^ 16 else d.reset + l + hl * 2 ^ 16
    | .sampled => straps

/-- A register's word in force within an image. -/
def imgW (s : State) (img : Map Word) (a : Nat) : Word :=
  match Map.get img a with
  | some w => w
  | none => BitVec.ofNat 32 (resetValue s.gradeX s.pwr.straps a)

/-- A register's value in force. (DESIGN CHOICE, assumption 113.) -/
def regW (s : State) (a : Nat) : Word := imgW s s.regs a

/-- A register's value in force, as a number. -/
def reg (s : State) (a : Nat) : Nat := (regW s a).toNat

/-- A field of a register in force. -/
def fld (s : State) (a hi lo : Nat) : Nat := bits (reg s a) hi lo

/-- A register's value in a job's image, as a number. -/
def ireg (s : State) (img : Map Word) (a : Nat) : Nat := (imgW s img a).toNat

/-- A field of a register in a job's image. -/
def ifld (s : State) (img : Map Word) (a hi lo : Nat) : Nat := bits (ireg s img a) hi lo

/-- The state with a register's stored word replaced by the device. -/
def poke (s : State) (a v : Nat) : State := { s with regs := Map.set s.regs a (BitVec.ofNat 32 v) }

/-- The state with a field of a register replaced by the device. -/
def pokeF (s : State) (a hi lo v : Nat) : State := poke s a (setBits (reg s a) hi lo v)

/-- The state with bits of a register set: a new event on a W1C bit leaves it 1 (R58). -/
def orReg (s : State) (a m : Nat) : State := poke s a (reg s a ||| m)

/-- The state with one event bit set. -/
def event (s : State) (a k : Nat) : State := orReg s a (2 ^ k)

/-- A counting register plus `n`, wrapping. -/
def countReg (s : State) (a n : Nat) : State := poke s a (reg s a + n)

/-- A counting register plus `n`, staying at its greatest value. -/
def countSat (s : State) (a n : Nat) : State := poke s a (min (reg s a + n) 0xFFFFFFFF)

/-- A counting field plus `n`, staying at its greatest value. -/
def countFieldSat (s : State) (a hi lo n : Nat) : State :=
  pokeF s a hi lo (min (fld s a hi lo + n) (2 ^ (hi + 1 - lo) - 1))

/-- A counting field plus `n`, wrapping. -/
def countField (s : State) (a hi lo n : Nat) : State := pokeF s a hi lo (fld s a hi lo + n)

/-- PWR_STEPk_BUS and PWR_STEPk_CORE, k from 1 (R515). -/
def Reg.PWR_STEP_BUS (k : Nat) : Nat := 0x150010 + (k - 1) * 8
def Reg.PWR_STEP_CORE (k : Nat) : Nat := 0x150014 + (k - 1) * 8

/-- The shedding step `k` is in force: the level has reached it and it is not masked (R506). -/
def shedStep (s : State) (k : Nat) : Bool := decide (k ≤ s.pwr.level) && bit (fld s Reg.PWR_SHED_CTRL 6 0) (k - 1)

/-- The orderly stop is in force (R511). -/
def orderlyStop (s : State) : Bool := shedStep s 7

/-- A 40-bit address held in a LO and a HI register. -/
def addr40 (s : State) (img : Map Word) (lo hi : Nat) : Nat :=
  ireg s img lo + (ireg s img hi % 256) * 2 ^ 32

/-! ## Trouble log (R519–R527) -/

/-- The severity of a log code's two-bit control: 3 is taken as 2 (R542). -/
def sevCtl (v : Nat) : Nat := if 2 < v then 2 else v

/-- The number of entries an event takes (R520). -/
def LogEvent.size (e : LogEvent) : Nat := if e.two && !e.cont then 2 else 1

/-- The order of events within one 10 ns step: BLOCK, then CODE, then argument byte 0 (R522). -/
def LogEvent.before (a b : LogEvent) : Bool :=
  let key (e : LogEvent) : Nat := e.block * 65536 + e.code * 256 + ((e.args.head?).getD 0).toNat
  a.cont || (!b.cont && (decide (a.ts < b.ts) || (a.ts == b.ts && decide (key a ≤ key b))))

/-- The state after an event is detected: filtered, dropped for want of queue room, or queued (R523–R525). -/
def logEvent (s : State) (code block sev : Nat) (args : List Byte) (two : Bool := false) : State :=
  let minSev := sevCtl (fld s Reg.LOG_CTRL 2 1)
  if sev < minSev && code != 0x01 && code != 0x02 then
    { s with log := { s.log with filtered := min (s.log.filtered + 1) 0xFFFFFFFF } }
  else
    let e : LogEvent := { ts := tsNow s, code := code, block := block, sev := sev, args := args, two := two }
    if 64 < sumN (s.log.queue.map LogEvent.size) + e.size then
      let s1 := { s with log := { s.log with dropped := min (s.log.dropped + 1) 0xFFFFFFFF, lost := s.log.lost + 1 } }
      event s1 Reg.LOG_EVENTS 2
    else { s with log := { s.log with queue := insertBy LogEvent.before e s.log.queue } }

/-- An event that is written at most once in a tick (R528). -/
def logOncePerTick (s : State) (code block sev : Nat) (args : List Byte) : State :=
  if s.log.tickCodes.contains code then s
  else
    let s1 := logEvent s code block sev args
    { s1 with log := { s1.log with tickCodes := code :: s1.log.tickCodes } }

/-- Severities (R519). -/
def NOTE : Nat := 0
def WARN : Nat := 1
def FAULT : Nat := 2

/-- A one-byte and a little-endian multi-byte log argument. -/
def arg1 (n : Nat) : List Byte := [BitVec.ofNat 8 n]
def argN (k n : Nat) : List Byte := leBytes k n

/-! ## Event counters (R530–R533) -/

/-- The attributes that an occurrence carries (R531); none where the event does not carry it. -/
structure Attrs where
  origin : Option Nat := none
  cls : Option Nat := none
  ctx : Option Nat := none
  master : Option Nat := none
  addr : Option Nat := none
  deriving DecidableEq, Repr

/-- An attribute that is carried satisfies a test; one that is not carried passes (R531). -/
def passAttr (o : Option Nat) (p : Nat → Bool) : Bool :=
  match o with
  | none => true
  | some v => p v

/-- Counter `n` counts an occurrence of `ev` with these attributes (R530–R532). -/
def pmcCounts (s : State) (n ev : Nat) (t : Attrs) : Bool :=
  let c0 := reg s (Reg.PMC_CNT_CFG0 n)
  let c1 := reg s (Reg.PMC_CNT_CFG1 n)
  let w := bits c0 18 16
  let base := bits (reg s (Reg.PMC_WIN_BASE_LO w)) 31 6 * 64 + bits (reg s (Reg.PMC_WIN_BASE_HI w)) 7 0 * 2 ^ 32
  let limit := bits (reg s (Reg.PMC_WIN_LIMIT_LO w)) 31 6 * 64 + bits (reg s (Reg.PMC_WIN_LIMIT_HI w)) 7 0 * 2 ^ 32
  bit c0 8 && bits c0 7 0 == ev && ev != 0
    && passAttr t.origin (fun p => bit (bits c0 13 10) p)
    && passAttr t.cls (fun c => bit (bits c0 15 14) c)
    && passAttr t.ctx (fun x => bits c1 21 16 == 0x3F || (bits c1 21 16 == x && decide (x ≤ 33)))
    && passAttr t.master (fun m => ((m ^^^ bits c1 6 0) &&& bits c1 14 8) == 0)
    && passAttr t.addr (fun a => !bit c0 19 || (decide (base ≤ a) && decide (a ≤ limit)))

/-- Counter `n` plus `k`, modulo 2^48, with its overflow bit (R533). -/
def pmcBump (s : State) (n k : Nat) : State :=
  let v := Map.getD s.pmc.count n 0 + k
  let s1 := { s with pmc := { s.pmc with count := Map.set s.pmc.count n (v % 2 ^ 48) } }
  if v < 2 ^ 48 then s1
  else
    let s2 := if n < 32 then event s1 Reg.PMC_OVF_LO n else event s1 Reg.PMC_OVF_HI (n - 32)
    if bit (reg s (Reg.PMC_CNT_CFG0 n)) 20 then event s2 Reg.PMC_EVENTS 0 else s2

/-- `k` occurrences of an event reach every counter that counts them. (DESIGN CHOICE, assumption 19.) -/
def pmcAdd (s : State) (ev k : Nat) (t : Attrs := {}) : State :=
  if fld s Reg.PMC_CTRL 0 0 = 0 ∨ k = 0 then s
  else (List.range 64).foldl (fun s n => if pmcCounts s n ev t then pmcBump s n k else s) s

/-- The class in force of a context: 0 LC, 1 BE (R381). -/
def ctxClass (s : State) (c : Nat) : Nat := fld s (Reg.SCH_CTX_CTRL c) 1 1

/-- The class of the job's context: the system context and ROM stage jobs are latency-critical (R383). -/
def jobClass (s : State) (j : Job) : Nat := if j.ctx < 32 then ctxClass s j.ctx else 0

/-- The counter attributes of a job (R531). -/
def jobAttrs (s : State) (j : Job) : Attrs :=
  { origin := some (if j.ctx = 0x40 then 1 else 2), cls := some (jobClass s j),
    ctx := some (if j.ctx < 32 then j.ctx else 32) }

/-- Occurrences, each an event, its number and its attributes, counted one after the other. -/
def pmcAddAll (s : State) : List (Nat × Nat × Attrs) → State
  | [] => s
  | e :: l => pmcAddAll (pmcAdd s e.1 e.2.1 e.2.2) l

/-- A core's wait is one of R235: a short resource that lets the instruction issue again is none. -/
def CoreWait.counted (w : CoreWait) : Bool := w != .again

/-- What `na` ACLK and `nf` FCLK cycles count: the cycles, the channels in self-refresh, the busy Vision units and the cores that
wait (R532). -/
def cycleEvents (s : State) (na nf : Nat) : List (Nat × Nat × Attrs) :=
  let units := sumN (s.vsn.runs.flatMap (fun e => e.2.map (fun r => r.units.length + r.refUnits.length)))
  let jobs := (s.sch.hud.flatMap (fun e => e.2.group)).filter (fun j => j.kind == 1)
  let bare : Attrs := {}
  [(0x01, na, bare), (0x02, nf, bare), (0x38, nf * ((List.range 8).filter s.mem.sr.testBit).length, bare), (0x40, na * units, bare)]
    ++ jobs.flatMap (fun j =>
      (j.cores.filter (fun l => (((Map.get s.slv.cores l).bind (·.wait)).map CoreWait.counted).getD false)).map (fun l =>
        (0x22, na, { jobAttrs s j with master := some (2 * (l / 256)) })))

/-! ## Interrupts (R58) -/

/-- The enabled event bits of a block. -/
def blockIrq (s : State) (ev en mask : Nat) : Bool := (reg s ev &&& reg s en &&& mask) != 0

/-- WHS_IRQ_STATUS: the stored W1C bits and the block summaries. -/
def irqStatus (s : State) : Nat :=
  (reg s Reg.WHS_IRQ_STATUS % 64)
  + b2n (blockIrq s Reg.FRS_EVENTS Reg.FRS_IRQ_ENABLE 0x1FF) * 2 ^ 8
  + b2n (blockIrq s Reg.VRS_EVENTS Reg.VRS_IRQ_ENABLE 0xFFF) * 2 ^ 9
  + b2n (blockIrq s Reg.CAM_IRQ_STATUS Reg.CAM_IRQ_ENABLE 0x3F
      || blockIrq s Reg.VSN_IRQ_STATUS Reg.VSN_IRQ_ENABLE 0x3F) * 2 ^ 10
  + b2n (blockIrq s Reg.MXE_IRQ_STATUS Reg.MXE_IRQ_ENABLE 0x7F
      || blockIrq s Reg.SLV_IRQ_STATUS Reg.SLV_IRQ_ENABLE 0xFF
      || blockIrq s Reg.SCH_EVENTS Reg.SCH_IRQ_ENABLE 0xF) * 2 ^ 11
  + b2n (blockIrq s Reg.SYN_IRQ_STATUS Reg.SYN_IRQ_ENABLE 0x7F
      || blockIrq s Reg.SYN_VW_EVENTS Reg.SYN_VW_IRQ_ENABLE 0x1FF
      || blockIrq s Reg.TRK_IRQ_STATUS Reg.TRK_IRQ_ENABLE 0x7F) * 2 ^ 12
  + b2n (blockIrq s Reg.MEM_EVENTS Reg.MEM_IRQ_ENABLE 0xFF) * 2 ^ 13
  + b2n (blockIrq s Reg.HPT_STATUS Reg.HPT_IRQ_ENABLE 0x3F) * 2 ^ 14
  + b2n (blockIrq s Reg.LYS_EVENTS Reg.LYS_IRQ_ENABLE 0x7FF) * 2 ^ 15
  + b2n (blockIrq s Reg.SEC_EVENTS Reg.SEC_IRQ_ENABLE 0x3F) * 2 ^ 16
  + b2n (blockIrq s Reg.PWR_EVENTS Reg.PWR_IRQ_ENABLE 0x1F) * 2 ^ 17
  + b2n (blockIrq s Reg.LOG_EVENTS Reg.LOG_IRQ_ENABLE 0x1F) * 2 ^ 18
  + b2n (blockIrq s Reg.PMC_EVENTS Reg.PMC_IRQ_ENABLE 0x3) * 2 ^ 19

/-- IRQ_N is asserted: an enabled bit of WHS_IRQ_STATUS is 1 (R58). -/
def irqAsserted (s : State) : Bool := (irqStatus s &&& (reg s Reg.WHS_IRQ_ENABLE % 2 ^ 20)) != 0

/-! ## Device memory (R389, R390, R405, R547) -/

/-- The owner value of a Court bank in the active plan; 0x0103 (free) without a plan. -/
def bankOwner (s : State) (b : Nat) : Nat :=
  if s.fab.inForce then (s.fab.plan.owners[b]?).getD 0x0103 else 0x0103

/-- The Court banks lent to the aperture by an owner map, ascending (R28). -/
def lentOf (owners : List Nat) : List Nat := (List.range 256).filter (fun b => (owners[b]?).getD 0x0103 == 0x0100)

/-- The Court banks lent to the aperture. -/
def lentBanks (s : State) : List Nat := if s.fab.inForce then lentOf s.fab.plan.owners else []

/-- The lent size in bytes: 0 until a plan takes force (R423). -/
def lentSize (s : State) : Nat := (lentBanks s).length * 0x40000

/-- LPDDR6 counts as present: in bench mode, not when a channel failed training (R481). -/
def ddrPresent (s : State) : Bool := !(s.sec.bench && s.mem.trained != 0xFF)

/-- A range of `n` bytes lies in Court and LPDDR6 for a read or a write (R389, R390); of no bytes, its address does. -/
def rangeOkWith (lent : Nat → Bool) (ddr : Bool) (a n : Nat) (wr : Bool) : Bool :=
  let e := a + max 1 n
  if a < 0x4000000 then
    decide (e ≤ 0x4000000) &&
      (upTo (a / 0x40000) (ceilDiv e 0x40000)).all (fun b => !lent b)
  else if 0x800000000 ≤ a then
    ddr && (decide (e ≤ 0xFF8000000)
      || (!wr && (decide (e ≤ 0xFFA000000) || (decide (0xFFC000000 ≤ a) && decide (e ≤ 0xFFC100000)))))
  else false

/-- The range test under the plan in force. -/
def rangeOk (s : State) (a n : Nat) (wr : Bool) : Bool :=
  rangeOkWith (fun b => bankOwner s b == 0x0100) (ddrPresent s) a n wr

/-- What an unlisted byte of device memory reads as: Court is zeroed (R393); an LPDDR6 byte that nothing wrote reads
zero, DESIGN CHOICE (assumption 4). -/
def memDefault : Byte := 0

/-- A byte of device memory. -/
def devByte (s : State) (a : Nat) : Byte := Mem.get memDefault s.mem.bytes a

/-- `n` bytes of device memory from an address. -/
def devRead (s : State) (a n : Nat) : List Byte := Mem.read memDefault s.mem.bytes a n

/-- The little-endian number that `n` bytes of device memory spell. -/
def devLE (s : State) (a n : Nat) : Nat := ofLE (devRead s a n)

/-- The line addresses that a range touches. -/
def linesOf (a n : Nat) : List Nat := (upTo (a / 64) (ceilDiv (a + n) 64)).map (fun l => l * 64)

/-- A range touches a poisoned line. -/
def poisoned (s : State) (a n : Nat) : Bool := (linesOf a n).any (fun l => s.mem.poison.contains l)

/-- The state after bytes are stored, valid: a line wholly written loses its poison (R405). -/
def devWrite (s : State) (a : Nat) (d : List Byte) : State :=
  let e := a + d.length
  let whole := (linesOf a d.length).filter (fun l => decide (a ≤ l) && decide (l + 64 ≤ e))
  { s with mem := { s.mem with bytes := Mem.write memDefault s.mem.bytes a d,
                               poison := s.mem.poison.filter (fun l => !whole.contains l) } }

/-- The state after byte-masked data is stored: only a line with all 64 bytes enabled loses its poison. -/
def devWriteMasked (s : State) (a : Nat) (d : List (Byte × Bool)) : State :=
  if d.all (fun p => p.2) then devWrite s a (d.map (fun p => p.1))
  else { s with mem := { s.mem with bytes := Mem.writeMasked memDefault s.mem.bytes a d } }

/-- The state with lines marked poisoned. -/
def devPoison (s : State) (lines : List Nat) : State :=
  { s with mem := { s.mem with poison := lines.foldl setInsert s.mem.poison } }

/-- A unit without a job met an address outside (R547): the event of R406. -/
def protect (s : State) : State := event s Reg.MEM_EVENTS 5

/-- A unit without a job reads: zero bytes in place of a read outside (R547). -/
def unitRead (s : State) (a n : Nat) : List Byte :=
  if rangeOk s a n false then devRead s a n else List.replicate n 0

/-- The little-endian number that a unit without a job, or a ROM stage job, reads: zero outside (R547). -/
def unitLE (s : State) (a n : Nat) : Nat := ofLE (unitRead s a n)

/-- Data from an offset on, cut at the ends of 64 B lines: each part's offset and bytes. -/
def lineParts (o : Nat) (d : List Byte) : List (Nat × List Byte) :=
  (List.range (ceilDiv (o % 64 + d.length) 64)).map (fun k =>
    (o + (64 * k - o % 64), slice d (64 * k - o % 64) (64 * (k + 1) - o % 64 - (64 * k - o % 64))))

/-- An uncorrectable line was read: the latches, the count, the event and the log entry (R405, R406). (DEDUCED, assumption 91.) -/
def memUncorr (s : State) (line input : Nat) : State :=
  let ddr := decide (0x800000000 ≤ line)
  let s1 := poke s Reg.MEM_ERR_ADDR_LO (line % 2 ^ 32)
  let s2 := poke s1 Reg.MEM_ERR_ADDR_HI (line / 2 ^ 32)
  let s3 := poke s2 Reg.MEM_ERR_INFO (b2n ddr + input * 256)
  let s4 := countSat s3 (if ddr then Reg.MEM_DDR_UE else Reg.MEM_COURT_UE) 1
  let s5 := event s4 Reg.MEM_EVENTS (if ddr then 3 else 1)
  logEvent s5 0x60 12 FAULT (argN 5 line ++ arg1 (b2n ddr) ++ arg1 input) true

/-! ## The host's aperture (R28) -/

/-- The device address of an aperture offset, none at or above the lent size. -/
def apertureAddr (s : State) (off : Nat) : Option Nat :=
  match (lentBanks s)[off / 0x40000]? with
  | none => none
  | some b => some (b * 0x40000 + off % 0x40000)

/-- `n` bytes of the aperture from an offset (zero past the lent size). -/
def apertureRead (s : State) (off n : Nat) : List Byte :=
  (List.range n).map (fun i => match apertureAddr s (off + i) with | some a => devByte s a | none => 0)

/-- The state after bytes are stored in the aperture, line by line: a line written whole loses its poison (R405). -/
def apertureWrite (s : State) (off : Nat) (d : List Byte) : State :=
  (lineParts off d).foldl (fun s p => match apertureAddr s p.1 with | some a => devWrite s a p.2 | none => s) s

/-- The poisoned lines of a range of the aperture. -/
def aperturePoison (s : State) (off n : Nat) : List Nat :=
  (linesOf off n).filterMap (fun o => match apertureAddr s o with
    | some a => if s.mem.poison.contains a then some a else none
    | none => none)

/-- PLAN_LOAD and the SEC commands read the aperture through the host port's input: a poisoned line is reported and reads all ones
(R403, R405). (DEDUCED, assumption 155.) -/
def apertureTake (s : State) (off n : Nat) : State × List Byte :=
  let bad := aperturePoison s off n
  if bad.isEmpty then (s, apertureRead s off n)
  else
    (event (bad.foldl (fun s l => memUncorr s l 58) s) Reg.MEM_EVENTS 6,
     (List.range n).map (fun i => match apertureAddr s (off + i) with
       | some a => if bad.contains (a / 64 * 64) then 0xFF else devByte s a
       | none => 0))

/-! ## CRC-32 (R326) -/

/-- One bit of the reflected CRC-32 of IEEE 802.3. -/
def crcBit (c : Nat) : Nat := if c % 2 = 1 then (c / 2) ^^^ 0xEDB88320 else c / 2

/-- One byte into the CRC-32 register. -/
def crcByte (c : Nat) (b : Byte) : Nat :=
  let x := c ^^^ b.toNat
  crcBit (crcBit (crcBit (crcBit (crcBit (crcBit (crcBit (crcBit x)))))))

/-- The CRC-32 of bytes: initial value all ones, final inversion (R326). -/
def crc32 (l : List Byte) : Nat := (l.foldl crcByte 0xFFFFFFFF) ^^^ 0xFFFFFFFF

/-- The CRC-32 of bytes given row by row. -/
def crcRows (rows : List (List Byte)) : Nat := (rows.foldl (fun c r => r.foldl crcByte c) 0xFFFFFFFF) ^^^ 0xFFFFFFFF

/-! ## Status pages (R47, R48) -/

/-- The state with bytes of the status region written by the device. -/
def statWrite (s : State) (a : Nat) (d : List Byte) : State := { s with status := Mem.write 0 s.status a d }

/-- The state with a 4-byte field of the status region written by the device. -/
def stat4 (s : State) (a v : Nat) : State := statWrite s a (leBytes 4 v)

/-- The base of block `i`'s status page (R47). -/
def statBase (i : Nat) : Nat := 0x840000 + i * 0x10000

/-! ## Free values -/

/-- The next free value: a number the spec does not state. (DESIGN CHOICE, assumption 8.) -/
def freeValue (s : State) : Nat := Config.freeNat s.free

/-- The state after a free value is drawn. -/
def drawFree (s : State) : State := { s with free := s.free + 1 }

end Sys2Proof.Machine
end

