-- ==== Sys2Proof/Machine/Link.lean ====
section
/-! DEFINITION. What every block needs of the Lysba links (R432–R445): the ring's numbers, the route of a frame, the two
ways a frame is sent, and the receive slots of contexts. -/

namespace Sys2Proof.Machine

/-- ID and SIZE of the ring (R432). -/
def ringId (s : State) : Nat := fld s Reg.LYS_RING 2 0
def ringSize (s : State) : Nat := fld s Reg.LYS_RING 6 4 + 1

/-- A link's state. -/
def linkOf (s : State) (n : Nat) : LLink := (s.lys.links[n]?).getD {}

/-- The state with a link replaced. -/
def setLink (s : State) (n : Nat) (l : LLink) : State :=
  { s with lys := { s.lys with links := setNth s.lys.links n l } }

/-- A link is UP (R435). -/
def linkUp (s : State) (n : Nat) : Bool := (linkOf s n).state == 5

/-- The link that a frame for a device takes, none when neither is UP (R441). -/
def routeTo (s : State) (dst : Nat) : Option Nat :=
  let z := ringSize s
  let up := ((dst : Int) - ringId s) % z
  let down := ((ringId s : Int) - dst) % z
  let first := if up ≤ down then 1 else 0
  if linkUp s first then some first else if linkUp s (1 - first) then some (1 - first) else none

/-- A data frame joins the queue of a link's arbiter (R440). -/
def queueFrame (s : State) (n : Nat) (f : LFrame) : State :=
  let l := linkOf s n
  setLink s n { l with queue := l.queue ++ [f] }

/-- ACKSEQ: the highest SEQ received in order from the peer (R437). -/
def LLink.ackSeq (l : LLink) : Nat := (l.rxSeq + 65535) % 65536

/-- The 80 bytes of a frame (R437). -/
def frameBytes (f : LFrame) : List Byte :=
  let b := leBytes 1 f.typ ++ leBytes 1 (f.dst % 8 + f.src % 8 * 8) ++ leBytes 2 f.seqNo ++ leBytes 2 f.ackNo ++ leBytes 1 f.ctx
    ++ leBytes 1 f.hops ++ leBytes 4 f.info ++ f.payload
  b ++ leBytes 4 (crc32 b)

/-- A frame takes a slot: its SEQ and ACKSEQ, and the replay buffer of the last 256 frames (R437, R439). -/
def LLink.sendOff (l : LLink) (f : LFrame) : LLink :=
  let b := l.buffer ++ [(l.txSeq, { f with seqNo := l.txSeq, ackNo := l.ackSeq })]
  { l with txSeq := (l.txSeq + 1) % 65536, buffer := b.drop (b.length - 256) }

/-- A control frame is sent ahead of arbitration on a link (R438). -/
def sendControl (s : State) (n : Nat) (f : LFrame) : State :=
  let l := linkOf s n
  setLink s n { l.sendOff f with control := { f with seqNo := l.txSeq, ackNo := l.ackSeq } :: l.control }

/-- The granted input's oldest data frame is sent; the event carries the attributes of the granted request (R440, R531). -/
def linkGrant (s : State) (n input : Nat) (t : Attrs) : State :=
  let l := linkOf s n
  match (if l.state = 5 then l.queue.find? (fun f => f.input == input) else none) with
  | none => s
  | some f =>
    let l1 := { l with queue := l.queue.erase f, slotTick := l.slotTick + 1 }
    pmcAdd (setLink s n (l1.sendOff f)) 0x58 1 t

/-- The entries of a context's receive slot that are in use. -/
def rxUsed (s : State) (c : Nat) : List RxEntry := s.lys.rx.filter (fun x => x.ctx == c)

/-- The lowest free entry of a receive slot of `n` places (R443). -/
def rxFree (s : State) (c n : Nat) : Option Nat :=
  (List.range n).find? (fun i => !((rxUsed s c).any (fun x => x.entry == i)))

/-- The entries of a job are freed (R443). -/
def rxDrop (s : State) (p : RxEntry → Bool) : State :=
  { s with lys := { s.lys with rx := s.lys.rx.filter (fun x => !p x) } }

end Sys2Proof.Machine
end

