-- ==== Sys2Proof/Machine/Ring.lean ====
section
/-! DEFINITION. The line ring in Court (R316–R319, R322): its entries, the fence of the entry that the field head has fetched, and the
writes that meet the fence. -/

namespace Sys2Proof.Machine

/-! ## The line ring (R316–R319) -/

/-- The banks of the line ring, ascending (R316). -/
def ringBanks (owners : List Nat) : List Nat := (List.range 256).filter (fun b => (owners[b]?).getD 0x0103 == 0x0101)

/-- Entries of a ring of `n` banks (R316). -/
def ringLines (n : Nat) : Nat := min 1024 (n * 262144 / 4224)

/-- NLINES of the ring in force. -/
def nLines (s : State) : Nat := if s.fab.inForce then ringLines (ringBanks s.fab.plan.owners).length else 0

/-- The device address of a ring offset. -/
def ringAddr (s : State) (o : Nat) : Option Nat :=
  match (ringBanks s.fab.plan.owners)[o / 0x40000]? with
  | none => none
  | some b => some (b * 0x40000 + o % 0x40000)

/-- The ring offset of entry T. -/
def entryOff (s : State) (t : Nat) : Nat := if nLines s = 0 then 0 else (t % nLines s) * 4224

/-- `n` bytes of entry T from an offset. -/
def entryRead (s : State) (t o n : Nat) : List Byte :=
  (List.range n).map (fun i => match ringAddr s (entryOff s t + o + i) with | some a => devByte s a | none => 0)

/-- The entry of line T is fenced: from F_T until W_T (R322). -/
def entryFenced (s : State) (t : Nat) : Bool :=
  match s.frs.fetched with
  | some l => l.target == t || (nLines s != 0 && l.target % nLines s == t % nLines s)
  | none => false

/-- A write to a fenced entry is discarded, counted and reported (R322). -/
def lateWrite (s : State) : State :=
  match s.frs.fetched with
  | some l => event { s with frs := { s.frs with fetched := some { l with lateWrites := l.lateWrites + 1 } } }
      Reg.FRS_EVENTS 6
  | none => s

/-- Bytes stored into a ring from an offset, without the fence, line by line: a line written whole loses its poison (R405). -/
def ringPut (s : State) (o : Nat) (d : List Byte) : State :=
  (lineParts o d).foldl (fun s p => match ringAddr s p.1 with | some a => devWrite s a p.2 | none => s) s

/-- Bytes of entry T written by a line writer. -/
def entryWrite (s : State) (t o : Nat) (d : List Byte) : State :=
  if entryFenced s t then lateWrite s else ringPut s (entryOff s t + o) d

/-- The ring offset of a device address, none outside the ring's banks. -/
def ringOffset (s : State) (a : Nat) : Option Nat :=
  ((ringBanks s.fab.plan.owners).findIdx? (fun b => b == a / 0x40000)).map (fun i => i * 0x40000 + a % 0x40000)

/-- A byte of device memory lies in the fenced entry (R322). -/
def byteFenced (s : State) (a : Nat) : Bool :=
  match s.frs.fetched, ringOffset s a with
  | some l, some o => decide (entryOff s l.target ≤ o) && decide (o < entryOff s l.target + 4224)
  | _, _ => false

/-- `n` bytes from a device address touch the fenced entry. -/
def addrFenced (s : State) (a n : Nat) : Bool :=
  s.frs.fetched.isSome && nLines s != 0 && (List.range n).any (fun i => byteFenced s (a + i))

/-- A job's or engine's write to device memory: the line ring discards what falls on the fenced entry and counts the write (R322). -/
def jobWrite (s : State) (a : Nat) (d : List Byte) : State :=
  if addrFenced s a d.length then
    lateWrite (devWriteMasked s a ((d.zip (List.range d.length)).map (fun e => (e.1, !byteFenced s (a + e.2)))))
  else if d.isEmpty then s else devWrite s a d

/-- A unit without a job writes: what falls outside is discarded and reported (R547), and the fenced ring entry discards it too
(R322). -/
def unitWrite (s : State) (a : Nat) (d : List Byte) : State :=
  if rangeOk s a d.length true then jobWrite s a d
  else protect ((lineParts a d).foldl (fun s p => if rangeOk s p.1 p.2.length true then jobWrite s p.1 p.2 else s) s)

end Sys2Proof.Machine
end

