-- ==== Sys2Proof/Machine/TroubleLog.lean ====
section
/-! DEFINITION. The trouble log's writer and read controls (R517–R527, R542–R545) and the performance monitor's
commands (R533–R540). -/

namespace Sys2Proof.Machine

/-- The entries held: H of R544. -/
def logHeld (s : State) : Nat := s.log.held

/-- The oldest entry held, modulo 2^32 (R544). -/
def logOldest (s : State) : Nat := (s.log.count + 2 ^ 32 - logHeld s) % 2 ^ 32

/-- The unread entries: (LOG_COUNT − LOG_READ) mod 2^32. -/
def logUnread (s : State) : Nat := (s.log.count + 2 ^ 32 - reg s Reg.LOG_READ) % 2 ^ 32

/-- The 16 bytes of an entry (R519) or of a continuation (R520). -/
def entryBytes (e : LogEvent) (n : Nat) : List Byte :=
  if e.cont then leBytes 2 n ++ [0xFF] ++ slice e.args 6 13
  else leBytes 2 n ++ [BitVec.ofNat 8 e.code]
    ++ [BitVec.ofNat 8 (e.block % 32 + (e.sev % 4) * 32 + b2n e.two * 128)]
    ++ leBytes 6 e.ts ++ slice e.args 0 6

/-- The state after one entry enters the next slot: the count, the held entries, OVERWRITTEN, NEW and FAULT (R524,
R542), and LOG_READ held within its range (R545). (DEDUCED, assumption 34.) -/
def logPut (s : State) (e : LogEvent) : State :=
  let n := s.log.count
  let full := logHeld s = 4096 ∧ 4096 ≤ logUnread s
  let s1 := { s with log := { s.log with
    ring := Mem.write 0 s.log.ring ((n % 4096) * 16) (entryBytes e n),
    count := (n + 1) % 2 ^ 32,
    held := min 4096 (s.log.held + 1) } }
  let s2 := if full then event (poke s1 Reg.LOG_READ (logOldest s1)) Reg.LOG_EVENTS 3 else s1
  let s3 := if !e.cont && decide (sevCtl (fld s Reg.LOG_CTRL 4 3) ≤ e.sev) then event s2 Reg.LOG_EVENTS 0 else s2
  let s4 := if !e.cont && e.sev == 2 then event s3 Reg.LOG_EVENTS 1 else s3
  pmcAdd s4 0x71 1

/-- The log writer takes one queued entry (R523, R524). A drop for STOP_FULL takes the whole event; after drops a LOST
entry goes before the next entry, with its TS, in the free slot that STOP_FULL keeps. (DESIGN CHOICE, assumption 110.) -/
def logStep (s : State) : State :=
  match s.log.queue with
  | [] => s
  | e :: rest =>
    if e.cont then logPut { s with log := { s.log with queue := rest } } e
    else if e.cleared = false ∧ fld s Reg.LOG_CTRL 0 0 = 1 ∧ 4096 - logUnread s < e.size + 1 then
      event { s with log := { s.log with queue := rest, dropped := min (s.log.dropped + 1) 0xFFFFFFFF,
                                         lost := s.log.lost + 1 } } Reg.LOG_EVENTS 2
    else if e.cleared = false ∧ 0 < s.log.lost then
      logPut { s with log := { s.log with lost := 0, queue := { e with cleared := true } :: rest } }
        { ts := e.ts, code := 0x02, block := 17, sev := WARN, args := argN 4 s.log.lost, two := false }
    else if e.two then
      logPut { s with log := { s.log with queue := { e with cont := true } :: rest } } e
    else logPut { s with log := { s.log with queue := rest } } e

/-- LOG_WRITE. -/
def execLogWrite (s : State) : Out := .next (logStep s)

/-- Every queued entry is written (R541: the queue drains before a warm reset takes effect). -/
def logDrain (s : State) : Nat → State
  | 0 => s
  | k + 1 => logDrain (logStep s) k

/-- A written LOG_READ value, held within its range (R545). -/
def logClamp (s : State) (v : Nat) : Nat :=
  let c := s.log.count
  let o := logOldest s
  let m := 2 ^ 32
  if (v + m - o) % m ≤ logHeld s then v
  else if (v + m - c) % m ≤ (o + m - v) % m then c else o

/-- A write of LOG_READ takes force at once (R545). -/
def logReadWrite (s : State) (v : Nat) : State := poke s Reg.LOG_READ (logClamp s v)

/-- LOG_READ_WRITE. -/
def execLogReadWrite (value : Word) (s : State) : Out := .next (logReadWrite s value.toNat)

/-- The log after its check at step 1 of a start (R518): kept, or initialised with LOG_EVENTS.INIT; LOG_READ at the oldest
entry held (R544). -/
def logStart (s : State) (kept : Bool) : State :=
  let s1 := if kept && s.log.valid then s
    else event { s with log := { valid := true } } Reg.LOG_EVENTS 4
  poke s1 Reg.LOG_READ (logOldest s1)

/-- The persistent word with its check (R527). -/
def persistWord (failed reason : Nat) : Nat :=
  let v := reason % 256 + (failed % 16) * 256
  v + (0xFFFF - v) * 2 ^ 16

/-- The persistent word's check holds (R527). -/
def persistValid (w : Nat) : Bool := bits w 31 16 == 0xFFFF - bits w 15 0

/-! ## Performance monitor -/

/-- A counter cleared at a commit (R536). -/
def pmcClear (s : State) (n : Nat) : State := { s with pmc := { s.pmc with count := Map.erase s.pmc.count n } }

/-- CLR. -/
def execClrCounter (n : Fin 64) (s : State) : Out := .next (pmcClear s n.val)

/-- Every counter cleared at a commit (R536). -/
def pmcClearAll (s : State) : State := { s with pmc := { s.pmc with count := [] } }

/-- CLEAR_ALL. -/
def execClearAll (s : State) : Out := .next (pmcClearAll s)

/-- A read of PMC_CNTn_LO latches bits [47:32] (R534). -/
def pmcReadLo (s : State) (n : Nat) : State :=
  { s with pmc := { s.pmc with hiLatch := Map.set s.pmc.hiLatch n (Map.getD s.pmc.count n 0 / 2 ^ 32) } }

/-- One bit step of the Draw's LFSR (R382). -/
def stepLfsr (x : Nat) : Nat := if x % 2 = 1 then (x / 2) ^^^ 0x80200003 else x / 2

/-- `k` bit steps. -/
def stepLfsrN : Nat → Nat → Nat
  | 0, x => x
  | k + 1, x => stepLfsrN k (stepLfsr x)

/-- step32 of R382. -/
def step32 (x : Nat) : Nat := stepLfsrN 32 x

/-- The scout's countdown is loaded: PERIOD plus JITTER random low bits (R538). -/
def scoutLoad (s : State) : State :=
  let x := step32 s.pmc.scoutLfsr
  let j := fld s Reg.PMC_SCOUT_CTRL 4 1
  { s with pmc := { s.pmc with scoutLfsr := x, countdown := ((fld s Reg.PMC_SCOUT_PERIOD 23 0 + x % 2 ^ j : Nat) : Int) } }

end Sys2Proof.Machine
end

