-- ==== Sys2Proof/Machine/Drawing.lean ====
section
/-! DEFINITION. What fixed paths draw (R86, R292, R482): colours, packed pixels (R348), text in the 12 × 24 font, the status card and the
Kickoff plan's mosaic with the R, G and B of its frames (R87). -/

namespace Sys2Proof.Machine

/-! ## Colours and packed pixels -/

/-- A colour word as R, G and B. -/
def rgbOf (w : Nat) : Nat × Nat × Nat := (bits w 7 0, bits w 15 8, bits w 23 16)

/-- A clamp to a colour value. -/
def to8 (i : Int) : Nat := (clampI 0 255 i).toNat

/-- Bytes of a packed pixel of a format (R286, R348). -/
def packBytes (fmt : Nat) : Nat := if fmt = 0 then 2 else if fmt = 1 then 3 else 4

/-- A packed pixel (R284, R348). (DEDUCED, assumption 84.) -/
def packPx (fmt : Nat) (c : Nat × Nat × Nat) : List Byte :=
  if fmt = 0 then
    let k (v d hi : Nat) : Nat := (clampI 0 (hi : Nat) (rneDiv (v : Nat) d)).toNat
    leBytes 2 (k c.2.2 8 31 + k c.2.1 4 63 * 32 + k c.1 8 31 * 2048)
  else leBytes 3 (c.2.2 + c.2.1 * 256 + c.1 * 65536) ++ (if fmt = 1 then [] else if fmt = 2 then [0] else [255])

/-! ## Text -/

/-- The decimal digits of a number as character codes. -/
def digitsGo : Nat → Nat → List Nat → List Nat
  | 0, _, acc => acc
  | k + 1, n, acc => if n < 10 then (48 + n) :: acc else digitsGo k (n / 10) ((48 + n % 10) :: acc)
def digits (n : Nat) : List Nat := digitsGo 20 n []


/-- The character codes of a text. -/
def codesOf (t : String) : List Nat := t.toList.map Char.toNat

/-- A character cell row of the 12 × 24 font is inked at a column and row of a text. -/
def inked (text : List Nat) (x y : Nat) : Bool :=
  decide (y < 24) && (match text[x / 12]? with
    | some c => (Config.fontRow c y).getLsbD (11 - x % 12)
    | none => false)

/-! ## The status card (R482) -/

/-- A pixel of the card: black ground, the red band of 48 rows with its title, and white lines of the 12 × 24 font from row 96 and
column 48, one every 32 rows. The title stands in the same font. (DESIGN CHOICE, assumption 18.) -/
def cardPixel (lines : List (List Nat)) (x y : Nat) : Nat × Nat × Nat :=
  let t := Config.titleAt
  if y < 48 then
    if t.1 ≤ x ∧ t.2 ≤ y ∧ inked (codesOf "ZN-816 BENCH MODE") (x - t.1) (y - t.2) = true then rgbOf Config.titleInk.toNat
    else (0xC0, 0, 0)
  else if 96 ≤ y ∧ 48 ≤ x ∧ inked ((lines[(y - 96) / 32]?).getD []) (x - 48) ((y - 96) % 32) = true then (255, 255, 255)
  else (0, 0, 0)

/-! ## The Kickoff plan's mosaic (R86, R87) -/

/-- A byte of a line of a frame, 0 where it is missing. -/
def lineByte (l : List (List Byte)) (y i : Nat) : Nat := ((((l[y]?).getD [])[i]?).getD 0).toNat

/-- A raw code of a frame held as lines. -/
def lineRaw (l : List (List Byte)) (dt y x : Nat) : Nat :=
  if dt = 0x2A then lineByte l y x
  else lineByte l y (x / 4 * 5 + x % 4)

/-- A number in thousandths rounded and held within 8 bits. -/
def milli8 (v : Int) : Int := clampI 0 255 (rneDiv v 1000)

/-- R, G and B of a pixel (R87): RAW as quads of RGGB with the mean of their two greens, YUV422 under BT.601 with limited range.
(DESIGN CHOICE, assumption 139.) -/
def kickRgb (l : List (List Byte)) (dt y x : Nat) : Int × Int × Int :=
  if dt = 0x24 then (lineByte l y (3 * x + 2), lineByte l y (3 * x + 1), lineByte l y (3 * x))
  else if dt = 0x1E then
    let yy : Int := (lineByte l y (2 * x + 1) : Int) - 16
    let u : Int := (lineByte l y (4 * (x / 2)) : Int) - 128
    let v : Int := (lineByte l y (4 * (x / 2) + 2) : Int) - 128
    (milli8 (1164 * yy + 1596 * v), milli8 (1164 * yy - 392 * u - 813 * v), milli8 (1164 * yy + 2017 * u))
  else
    let a := 2 * (y / 2)
    let b := 2 * (x / 2)
    (lineRaw l dt a b, rneDiv ((lineRaw l dt a (b + 1) + lineRaw l dt (a + 1) b : Nat) : Int) 2, lineRaw l dt (a + 1) (b + 1))

/-- The width and height at which a picture fills a 480 × 270 tile with its aspect kept. (DESIGN CHOICE, assumption 120.) -/
def fitTile (w h : Nat) : Nat × Nat :=
  if w = 0 ∨ h = 0 then (0, 0)
  else if w * 270 ≤ h * 480 then ((rneDiv (270 * w : Nat) h).toNat, 270)
  else (480, (rneDiv (480 * h : Nat) w).toNat)

/-- The text of a tile's band: port, resolution, frame rate and data type, or NO SIGNAL (R86). -/
def mosaicText (p : Nat) (t : Option KickPic) : List Nat :=
  match t with
  | none => digits p ++ Config.mosaicGap 0 ++ codesOf "NO SIGNAL"
  | some k => digits p ++ Config.mosaicGap 0 ++ digits k.width ++ Config.mosaicGap 1 ++ digits k.height ++ Config.mosaicGap 2
      ++ digits k.rate ++ Config.mosaicGap 3 ++ Config.dataTypeText k.dt

/-- A colour as the 24 bits of its components. -/
def rgbBits (c : Int × Int × Int) : BitVec 24 := BitVec.ofNat 24 (c.1.toNat * 65536 + c.2.1.toNat * 256 + c.2.2.toNat)

/-- A pixel of a port's frame, scaled into its tile; a picture that fits as it is is not scaled. -/
def tilePixel (k : KickPic) (f : Nat × Nat) (x y : Nat) : Nat × Nat × Nat :=
  let src (row col : Nat) : BitVec 24 := rgbBits (kickRgb k.lines k.dt row col)
  rgbOf (if f = (k.width, k.height) then src y x else Config.mosaicScale src (k.width, k.height) f x y).toNat

/-- A pixel of the mosaic: port p at row p ÷ 4 and column p mod 4 of 480 × 270 tiles, its picture in the middle between black bars,
under a band of 24 rows at the foot, lettered in the 12 × 24 font. The filter and the band's colours are left open. (DESIGN CHOICE,
assumption 120.) -/
def mosaicPixel (tiles : List (Option KickPic)) (x y : Nat) : Nat × Nat × Nat :=
  let p := y / 270 * 4 + x / 480
  let t := (tiles[p]?).join
  let tx := x % 480
  let ty := y % 270
  if 246 ≤ ty then
    let white := decide (Config.mosaicColumn ≤ tx) && inked (mosaicText p t) (tx - Config.mosaicColumn) (ty - 246)
    rgbOf (if white then Config.mosaicInk else Config.mosaicGround).toNat
  else
    match t with
    | none => (0, 0, 0)
    | some k =>
      let f := fitTile k.width k.height
      let x0 := (480 - f.1) / 2
      let y0 := (270 - f.2) / 2
      if x0 ≤ tx ∧ tx < x0 + f.1 ∧ y0 ≤ ty ∧ ty < y0 + f.2 then tilePixel k f (tx - x0) (ty - y0) else (0, 0, 0)

/-! ## Rows -/

/-- A pixel of a fixed path's drawing. -/
def fixedPixel (d : FixedPic) (x y : Nat) : Nat × Nat × Nat :=
  match d with
  | .card lines => cardPixel lines x y
  | .mosaic tiles => mosaicPixel tiles x y

/-- A row of a fixed path's drawing, packed as XRGB8888. -/
def fixedRow (d : FixedPic) (y : Nat) : List Byte := (List.range 1920).flatMap (fun x => packPx 2 (fixedPixel d x y))

end Sys2Proof.Machine
end

