-- ==== Sys2Proof/Machine/VScan.lean ====
section
/-! DEFINITION. The scan of the view head's outputs (R342–R344, R348, R353–R358): display timing, the fetch and the lines that are sent, the
tolerances, and the passing of time, which brings both outputs up to date. -/

namespace Sys2Proof.Machine

/-! ## Timing (R343–R345) -/

/-- A timing group: PCLK, HACT, HTOTAL, HFP, HSW, VACT, VFP_MIN, VSW, VBP. -/
structure VTiming where
  pclk : Nat
  hact : Nat
  htotal : Nat
  hfp : Nat
  hsw : Nat
  vact : Nat
  vfpMin : Nat
  vsw : Nat
  vbp : Nat
  deriving DecidableEq, Repr

/-- The timing of an output in an image of the VRS registers. -/
def timingOf (s : State) (img : Map Word) (clone : Bool) : VTiming :=
  let r (a b : Nat) : Nat := ireg s img (if clone then b else a)
  let h0 := r Reg.VRS_HTIME0 Reg.VRS_LV_HTIME0
  let h1 := r Reg.VRS_HTIME1 Reg.VRS_LV_HTIME1
  let v0 := r Reg.VRS_VTIME0 Reg.VRS_LV_VTIME0
  let v1 := r Reg.VRS_VTIME1 Reg.VRS_LV_VTIME1
  { pclk := r Reg.VRS_PCLK Reg.VRS_LV_PCLK, hact := bits h0 15 0, htotal := bits h0 31 16, hfp := bits h1 11 0,
    hsw := bits h1 23 12, vact := bits v0 15 0, vfpMin := bits v0 31 16, vsw := bits v1 7 0, vbp := bits v1 19 8 }

/-- HBP and VTOTAL_MIN. -/
def VTiming.hbp (v : VTiming) : Int := (v.htotal : Int) - v.hact - v.hfp - v.hsw
def VTiming.vtotalMin (v : VTiming) : Nat := v.vact + v.vfpMin + v.vsw + v.vbp

/-- VTOTAL of R343 for a view period of `dv` ticks of `per` time units. -/
def VTiming.vtotal (v : VTiming) (dv per : Nat) : Nat :=
  (rneDiv ((dv * per * v.pclk : Nat) : Int) (v.htotal * 1000000000 * tuNs)).toNat

/-- The time of `n` lines in time units. -/
def VTiming.linesTu (v : VTiming) (n : Nat) : Nat := n * v.htotal * 1000000000 * tuNs / max 1 v.pclk

/-- The time of `n` pixels in time units. -/
def VTiming.pixelsTu (v : VTiming) (n : Nat) : Nat := n * 1000000000 * tuNs / max 1 v.pclk

/-- The lines that have ended within `t` time units. -/
def VTiming.linesIn (v : VTiming) (t : Nat) : Nat := ((t + 1) * v.pclk - 1) / max 1 (v.htotal * 1000000000 * tuNs)

/-- The first line that begins at or after `t` time units (R344). -/
def VTiming.lineFrom (v : VTiming) (t : Nat) : Nat := ceilDiv (t * v.pclk) (max 1 (v.htotal * 1000000000 * tuNs))

/-! ## Frames and view starts -/

/-- The period in force, in time units. -/
def period (s : State) : Nat := periodTu (reg s Reg.WHS_PERIOD)

/-- Settings of an output in force. -/
def dpReg (s : State) (a : Nat) : Nat := ireg s s.vrs.dp a
def lvReg (s : State) (a : Nat) : Nat := ireg s s.vrs.lv a

/-- The present frame of an output. -/
def outFrame (s : State) (clone : Bool) : Option ViewFrame := if clone then s.vrs.clone else s.vrs.frame
def setOutFrame (s : State) (clone : Bool) (f : Option ViewFrame) : State :=
  if clone then { s with vrs := { s.vrs with clone := f } } else { s with vrs := { s.vrs with frame := f } }

/-- The timing of a frame, by the values in force for it. -/
def frameTiming (s : State) (clone : Bool) (f : ViewFrame) : VTiming := timingOf s f.img clone

/-- A DisplayPort frame sent with ADAPTIVE = 1 (R344). -/
def adaptiveFrame (s : State) (f : ViewFrame) : Bool := bit (ireg s f.img Reg.VRS_CTRL) 2

/-- The clone scans 2 × 2 means (R354). -/
def halves (s : State) (clone : Bool) (f : ViewFrame) : Bool := clone && bit (ireg s f.img Reg.VRS_LV_CTRL) 0

/-- The instant at which line n of a frame begins, on its grid (R344). -/
def lineInst (v : VTiming) (f : ViewFrame) (n : Nat) : Nat := f.base + v.linesTu (f.line0 + n)

/-- The instant at which active line y of a frame begins (R358). -/
def activeInst (v : VTiming) (f : ViewFrame) (y : Nat) : Nat := lineInst v f (v.vsw + v.vbp + y)

/-- The lines of a frame, and its active lines, that have ended by an instant. -/
def linesBy (v : VTiming) (f : ViewFrame) (t : Nat) : Nat := v.linesIn (t - f.base) - f.line0
def activeBy (v : VTiming) (f : ViewFrame) (t : Nat) : Nat := linesBy v f t - (v.vsw + v.vbp)

/-- DIV = 0: no view starts (R270). -/
def viewsOff (s : State) : Bool := fld s Reg.SYN_VW_CTRL 23 16 == 0

/-- The instant of the first view start after the latest Whistle of which number counts a multiple of `n`; none while no view starts
(R269, R270, R345). -/
def nextView (s : State) (n : Nat) : Option Nat :=
  if viewsOff s then none
  else s.vw.began.map (fun a =>
    let m := max 1 (n * s.vw.dv)
    s.clk.inst + (m - (tickNow s - a) % m) * period s)

/-! ## Scan-out (R348, R354, R357) -/

/-- A stored pixel as R, G and B, blended over the background where it has alpha (R348). -/
def scanPixel (i : PicInfo) (bg : Nat × Nat × Nat) (row : List Byte) (x : Nat) : Nat × Nat × Nat :=
  let b := packBytes i.format
  let w := fieldLE row (x * b) b
  if i.format = 0 then
    let r := bits w 15 11
    let g := bits w 10 5
    let u := bits w 4 0
    (r * 8 + r / 4, g * 4 + g / 16, u * 8 + u / 4)
  else
    let c := rgbOf w
    let rgb := (c.2.2, c.2.1, c.1)
    if i.format = 3 then
      let a := bits w 31 24
      let mix (k m : Nat) : Nat := to8 (rneDiv ((a * k + (255 - a) * m : Nat) : Int) 255)
      (mix rgb.1 bg.1, mix rgb.2.1 bg.2.1, mix rgb.2.2 bg.2.2)
    else rgb

/-- The background colour in force: VRS_BG holds B in its low byte. -/
def bgOf (s : State) (img : Map Word) : Nat × Nat × Nat :=
  let w := ireg s img Reg.VRS_BG
  (bits w 23 16, bits w 15 8, bits w 7 0)

/-- The pixel that an output sends at column x of line y, from the buffered rows of that line: the background of a frame without a picture,
of one that does not fit, and from an underrun on (R350, R356). -/
def sentPixel (s : State) (clone : Bool) (f : ViewFrame) (rows : List (List Byte)) (x y : Nat) : Nat × Nat × Nat :=
  let bg := bgOf s f.img
  match f.pic with
  | none => bg
  | some i =>
    let lost := match Map.get f.bad y with | some p => decide (p ≤ x) | none => false
    if f.misfit || lost then bg
    else if halves s clone f then
      let q := rows.flatMap (fun r => [scanPixel i bg r (2 * x), scanPixel i bg r (2 * x + 1)])
      let mean (g : Nat × Nat × Nat → Nat) : Nat := to8 (rneDiv ((sumN (q.map g) : Nat) : Int) 4)
      (mean (·.1), mean (·.2.1), mean (·.2.2))
    else scanPixel i bg (rows.headD []) x

/-- The packed bytes of a row of a picture: read from its slot, or drawn by a fixed path (R292, R354). -/
def rowBytes (s : State) (i : PicInfo) (y : Nat) : List Byte :=
  match i.drawn with
  | some d => fixedRow d y
  | none => unitRead s (i.addr + 0x1000 + y * i.stride) (i.width * packBytes i.format)

/-- The picture rows that active line y is made of; none where nothing is scanned (R350, R354). -/
def lineRows (s : State) (clone : Bool) (f : ViewFrame) (y : Nat) : List (PicInfo × Nat) :=
  match f.pic with
  | none => []
  | some i => if f.misfit then [] else (if halves s clone f then [2 * y, 2 * y + 1] else [y]).map (fun k => (i, k))

/-- Line y has an underrun from a pixel on: the event, the count, and the log entry of the first one of the frame (R356). -/
def lostLine (s : State) (clone : Bool) (f : ViewFrame) (y px : Nat) : State × ViewFrame :=
  let s1 := event s Reg.VRS_EVENTS (if clone then 10 else 3)
  let s2 := if clone then countField s1 Reg.VRS_UNDERRUNS 31 16 1 else countField s1 Reg.VRS_UNDERRUNS 15 0 1
  (if f.bad.isEmpty then logEvent s2 0x58 10 WARN (arg1 (b2n clone) ++ argN 2 y ++ argN 3 f.view) else s2,
    { f with bad := Map.set f.bad y px })

/-- The bytes of a picture row in its slot, where a fixed path does not draw it: address and count. -/
def rowRange (r : PicInfo × Nat) : Option (Nat × Nat) :=
  if r.1.drawn.isSome then none else some (r.1.addr + 0x1000 + r.2 * r.1.stride, r.1.width * packBytes r.1.format)

/-- Line y is fetched: a poisoned row makes it a line with an underrun (R405), one outside Court and LPDDR6 reads zero (R547). -/
def viewFetch (clone : Bool) (x : State × ViewFrame) (y : Nat) : State × ViewFrame :=
  let s := x.1
  let rows := lineRows s clone x.2 y
  let at_ := rows.filterMap rowRange
  let f := { x.2 with buf := Map.set x.2.buf y (rows.map (fun r => rowBytes s r.1 r.2)), next := y + 1 }
  let s1 := if at_.any (fun r => !rangeOk s r.1 r.2 false) then protect s else s
  match (at_.flatMap (fun r => linesOf r.1 r.2)).find? (fun l => s.mem.poison.contains l) with
  | some l => lostLine (memUncorr s1 l 62) clone f y 0
  | none => (s1, f)

/-- The lines before line n are fetched (R354). -/
def fetchLines (s : State) (clone : Bool) (f : ViewFrame) (n : Nat) : State × ViewFrame :=
  (upTo f.next (min n (frameTiming s clone f).vact)).foldl (viewFetch clone) (s, f)

/-- Line y ends: FETCH has taken its bytes and EXP its pixels, and the fetch goes on to 4 lines ahead (R354, R357). -/
def sendLine (clone : Bool) (x : State × ViewFrame) (y : Nat) : State × ViewFrame :=
  let f := x.2
  let t := frameTiming x.1 clone f
  let s := { x.1 with clk := { x.1.clk with now := activeInst t f (y + 1) } }
  let rows := Map.getD f.buf y []
  let px := (List.range t.hact).flatMap (fun x =>
    let c := sentPixel s clone f rows x y
    leBytes 1 c.1 ++ leBytes 1 c.2.1 ++ leBytes 1 c.2.2)
  fetchLines s clone { f with buf := Map.erase f.buf y, sent := y + 1, fetch := rows.flatten.foldl crcByte f.fetch,
                              exp := px.foldl crcByte f.exp } (y + 5)

/-- The lines before line n are sent, each at its own instant; the present stands. -/
def sendLines (s : State) (clone : Bool) (f : ViewFrame) (n : Nat) : State × ViewFrame :=
  let x := (upTo f.sent (min n (frameTiming s clone f).vact)).foldl (sendLine clone) (s, f)
  ({ x.1 with clk := s.clk }, x.2)

/-- LINE_MATCH at the start of active line MATCH of a DisplayPort frame (R358). -/
def lineMatch (s : State) (f : ViewFrame) : State × ViewFrame :=
  let t := frameTiming s false f
  let m := ifld s f.img Reg.VRS_LINE 11 0
  if !f.matched && decide (m < t.vact) && decide (activeInst t f m ≤ s.clk.now) then
    (event s Reg.VRS_EVENTS 1, { f with matched := true })
  else (s, f)

/-- An output's frame comes up to date: its lines that have ended are sent, and LINE_MATCH is raised where it is past.
(DESIGN CHOICE, assumption 88.) -/
def scanOut (s : State) (clone : Bool) : State :=
  match (outFrame s clone).filter (fun f => f.stage == 0) with
  | none => s
  | some f =>
    let x := sendLines s clone f (activeBy (frameTiming s clone f) f s.clk.now)
    let y := if clone then x else lineMatch x.1 x.2
    setOutFrame y.1 clone (some y.2)

/-! ## Time -/

/-- The state with time advanced to an instant, never back: the cycles that pass are counted (R532), and both outputs of the view head
send what they send in that time (R354). (DESIGN CHOICE, assumption 19.) -/
def advance (s : State) (t : Nat) : State :=
  let t1 := max s.clk.now t
  let s1 := if fld s Reg.PMC_CTRL 0 0 = 0 then s
    else pmcAddAll s (cycleEvents s (t1 / tuAclk s - s.clk.now / tuAclk s) (t1 / 11520 - s.clk.now / 11520))
  scanOut (scanOut { s1 with clk := { s1.clk with now := t1 } } false) true

/-- The state with time advanced to a timestamp, never back. -/
def advanceTs (s : State) (ts : Nat) : State := advance s (ts * tuStep)

/-! ## Tolerance (R355) -/

/-- A tolerance of `t` time units from now, less 2,000 ns. -/
def tolNs (t : Nat) : Nat := t / tuNs - 2000

/-- The grid of a DisplayPort frame that starts for a view start at an instant, and its first line: V + 1,000 ns, or with ADAPTIVE the
first line of the present grid that begins at or after it (R343, R344). -/
def dpGrid (s : State) (inst : Nat) : Nat × Nat :=
  let at_ := inst + 1000 * tuNs
  match s.vrs.frame with
  | some f => if adaptiveFrame s f then (f.base, (frameTiming s false f).lineFrom (at_ - f.base)) else (at_, 0)
  | none => (at_, 0)

/-- The instant of that frame start. -/
def dpStartInst (s : State) (inst : Nat) : Nat :=
  let g := dpGrid s inst
  match s.vrs.frame with
  | some f => g.1 + (frameTiming s false f).linesTu g.2
  | none => g.1

/-- The instant of the first active pixel of the earliest possible next frame of an output; none while no view starts. -/
def nextPixel (s : State) (clone : Bool) (t : VTiming) : Option Nat :=
  let first (start : Nat) : Nat := start + t.linesTu (t.vsw + t.vbp)
  if clone then
    ((match s.vrs.lvDue with
      | some d => some d.2
      | none => nextView s (if shedStep s 1 then 1 else max 1 (ifld s s.vrs.lv Reg.VRS_LV_CTRL 5 2)))).map (fun v =>
        first (v + 1000 * tuNs))
  else
    ((match s.vrs.dpDue with
      | some d => some d.2
      | none => nextView s 1)).map (fun v => first (dpStartInst s v))

/-- The tolerance of an output in ns at the present instant, none where it sends nothing: the time that the buffered data lasts, and from
the last active line on, or where nothing is scanned, the time to the first active pixel of the next frame (R355, R360).
(DEDUCED, assumption 89.) -/
def outTol (s : State) (clone : Bool) : Option Nat :=
  (outFrame s clone).bind (fun f =>
    let t := frameTiming s clone f
    let scans := f.stage == 0 && decide (s.clk.now < activeInst t f t.vact) && !f.misfit && f.pic.isSome
    (if scans then some (activeInst t f f.next) else nextPixel s clone t).map (fun e => tolNs (e - s.clk.now)))

/-- The lesser of two tolerances, none being unlimited. (DESIGN CHOICE, assumption 58.) -/
def minTol (a b : Option Nat) : Option Nat :=
  match a, b with
  | none, b => b
  | a, none => a
  | some x, some y => some (min x y)

/-- The tolerance that the view head states; none is unlimited (R355, R399). -/
def tolView (s : State) : Option Nat := minTol (outTol s false) (outTol s true)

/-- VRS_TOL: the smaller of the two outputs' values. -/
def viewTol (s : State) : Nat := (tolView s).getD 0

end Sys2Proof.Machine
end

