-- ==== Sys2Proof/Machine/Memory.lean ====
section
/-! DEFINITION. Court and LPDDR6 events (R391–R406), staging copies, the Draw arbiters (R382–R385) and the completion of
page commands (R428, R429). -/

namespace Sys2Proof.Machine

/-! ## Page commands -/

/-- A pending page command ends: its entry is rewritten in the next publication phase (R428). -/
def endCmd (s : State) (r : CmdRef) (code : Nat) : State :=
  { s with com := { s.com with ended := s.com.ended ++ [(r, code)] } }

/-- The code of a command taken at once (R429). -/
def codeOK : Nat := 0x00
def codeEMPTY : Nat := 0x01
def codeMEMERROR : Nat := 0x0A
def codeABANDONED : Nat := 0x0B
def codeFAILED : Nat := 0x0C
def codeREJECTED : Nat := 0x0D
def codePENDING : Nat := 0xFF

/-- What the commit makes of one command: a completion code and, for a rejection, its cause (R45). -/
structure CmdResult where
  state : State
  code : Nat
  cause : Nat := 0

/-- A rejected command: the state is unchanged. -/
def rejected (s : State) (cause : Nat) : CmdResult := { state := s, code := codeREJECTED, cause := cause }

/-- R45 cause codes. -/
def causeZERO : Nat := 1
def causeRANGE : Nat := 2
def causeCRC : Nat := 3
def causeNOSHARE : Nat := 4
def causeGROUP : Nat := 5
def causePLAN : Nat := 6
def causeFORMAT : Nat := 7

/-- A completion record with a command's entry replaced, its pending count and status recomputed (R428). -/
def CompRec.setEntry (r : CompRec) (i code cause : Nat) : CompRec :=
  let es := (r.entries.zip (List.range r.entries.length)).map
    (fun p => if p.2 = i then (code, cause, p.1.2.2) else p.1)
  let pend := (es.filter (fun e => e.1 == codePENDING)).length
  let st := if r.status = 3 then 3 else if 0 < pend then 2
    else if es.any (fun e => e.1 == codeREJECTED) then 4 else if es.isEmpty then 1 else 0
  { r with entries := es, pending := pend, status := st }

/-- The entry of a command's page record is written at once: the commit's verdict on it. -/
def recordCmd (s : State) (r : CmdRef) (code cause : Nat) : State :=
  let c := Map.getD s.com.comps r.page {}
  let es := if r.entry < c.entries.length then c.entries
    else c.entries ++ List.replicate (r.entry + 1 - c.entries.length) (codeOK, 0, 0)
  { s with com := { s.com with comps := Map.set s.com.comps r.page ({ c with entries := es }.setEntry r.entry code cause) } }

/-- The state after the verdict on a page command taken alone: its entry, whose record waits for the next publication phase, and
COMMIT_REJECT (R43, R428). (DESIGN CHOICE, assumption 9.) -/
def settle (r : CmdRef) (x : CmdResult) : State :=
  let s1 := endCmd (recordCmd x.state r x.code x.cause) r x.code
  if x.code = codeREJECTED then event s1 Reg.WHS_IRQ_STATUS 2 else s1

/-! ## Staging copies (R401–R403) -/

/-- The commit's check of a copy and its entry into the queue; `lent` is the lent size it is checked against (R82). An empty copy has
no range at ADDR that could break R390. (DEDUCED, assumption 154.) -/
def takeCopy (s : State) (lent : Nat) (toDevice : Bool) (r : CmdRef) (off size addr : Nat) : CmdResult :=
  if off % 64 ≠ 0 ∨ size % 64 ≠ 0 ∨ addr % 64 ≠ 0 then rejected s causeRANGE
  else if lent < off + size then rejected s causeRANGE
  else if size = 0 then { state := s, code := codeEMPTY }
  else if 2 ^ 40 ≤ addr ∨ rangeOk s addr size toDevice = false then rejected s causeRANGE
  else if 256 ≤ s.mem.copies.length then rejected s causeRANGE
  else { state := { s with mem := { s.mem with copies := s.mem.copies ++
           [{ ref := r, toDevice := toDevice, offset := off, size := size, addr := addr }] } },
         code := codePENDING }

/-- COPY_IN. -/
def execCopyIn (page : Fin 64) (entry : Fin 55) (offset size : Word) (addr : BitVec 64) (s : State) : Out :=
  let r : CmdRef := ⟨page.val, entry.val⟩
  .next (settle r (takeCopy s (lentSize s) true r offset.toNat size.toNat addr.toNat))

/-- COPY_OUT. -/
def execCopyOut (page : Fin 64) (entry : Fin 55) (offset size : Word) (addr : BitVec 64) (s : State) : Out :=
  let r : CmdRef := ⟨page.val, entry.val⟩
  .next (settle r (takeCopy s (lentSize s) false r offset.toNat size.toNat addr.toNat))

/-- NOP_COMMAND completes OK at the commit (R425). -/
def execNopCommand (page : Fin 64) (entry : Fin 55) (s : State) : Out :=
  .next (settle ⟨page.val, entry.val⟩ { state := s, code := codeOK })

/-- The copy engine of a device address: its LPDDR6 channel (R395) or, for Court, (offset ÷ 256) mod 8 (R402). -/
def copyEngine (a : Nat) : Nat := bits a 10 8

/-- One 64 B line of a copy: a poisoned source line is written poisoned and reported (R402, R405); the fenced ring entry discards
the write (R322). -/
def copyLine (s : State) (src dst : Nat) : State :=
  let s1 := jobWrite s dst (devRead s src 64)
  if s.mem.poison.contains src then
    memUncorr (if addrFenced s dst 64 then s1 else devPoison s1 [dst]) src (48 + copyEngine src)
  else s1

/-- The lines of a copy as source and destination addresses; a part of the aperture that is no longer lent has none.
(DESIGN CHOICE, assumption 45.) -/
def copyLines (s : State) (c : Copy) : List (Nat × Nat) :=
  (List.range (c.size / 64)).filterMap (fun i =>
    match apertureAddr s (c.offset + 64 * i) with
    | none => none
    | some a => if c.toDevice then some (a, c.addr + 64 * i) else some (c.addr + 64 * i, a))

/-- The lines of a copy that are still to be written. -/
def copyRest (s : State) (c : Copy) : List (Nat × Nat) := (copyLines s c).filter (fun p => !c.moved.contains p.2)

/-- A granted beat of the running copy writes the line at its address, where that line is still to be written (R402, R403).
(DESIGN CHOICE, assumption 45.) -/
def copyBeat (s : State) (a : Nat) : State :=
  match s.mem.copies with
  | [] => s
  | c :: rest =>
    match (copyRest s c).find? (fun p => p.2 == a / 64 * 64) with
    | none => s
    | some p =>
      let c1 := { c with moved := c.moved ++ [p.2], failed := c.failed || s.mem.poison.contains p.1 }
      copyLine { s with mem := { s.mem with copies := c1 :: rest } } p.1 p.2

/-- The oldest copy's last beat is written; its status waits for the next publication phase (R402). -/
def copyEnd (s : State) : State :=
  match s.mem.copies with
  | [] => s
  | c :: rest =>
    let ls := copyRest s c
    let bad := c.failed || ls.any (fun p => s.mem.poison.contains p.1)
    let s1 := ls.foldl (fun s p => copyLine s p.1 p.2) { s with mem := { s.mem with copies := rest } }
    let s2 := if bad then event s1 Reg.MEM_EVENTS 4 else s1
    endCmd s2 c.ref (if bad then codeMEMERROR else codeOK)

/-- COPY_END. -/
def execCopyEnd (s : State) : Out := .next (copyEnd s)

/-- Every copy queued or running ends ABANDONED; the bytes already copied stand (R402, R403). -/
def abandonCopies (s : State) : State :=
  s.mem.copies.foldl (fun s c => endCmd s c.ref codeABANDONED) { s with mem := { s.mem with copies := [] } }

/-! ## Refresh, self-refresh and scrub (R397–R404) -/

/-- REFRESH_DUE: the controller refreshes; the die's MR4 report stands for the polls that follow (R397). -/
def execRefreshDue (channel : Fin 8) (mr4 : BitVec 3) (hot : Bool) (s : State) : Out :=
  .next { s with mem := { s.mem with
    mr4 := Map.set s.mem.mr4 channel.val (mr4.toNat + 8 * b2n hot), refreshes := s.mem.refreshes + 1 } }

/-- MR4 is polled on every channel at a Whistle (R397): the register, TEMP and the log entry of a channel above its range. -/
def mr4Poll (s : State) : State :=
  let s1 := (List.range 8).foldl (fun s k =>
    let v := Map.getD s.mem.mr4 k 0
    let s1 := pokeF s (Reg.MEM_CH_STATUS k) 10 8 (v % 8)
    if 8 ≤ v then logEvent (event s1 Reg.MEM_EVENTS 7) 0x61 12 WARN (arg1 k ++ arg1 (v % 8)) else s1) s
  { s1 with mem := { s1.mem with hot := (List.range 8).any (fun k => decide (8 ≤ Map.getD s.mem.mr4 k 0)) } }

/-- The tolerance that camera intake states: none unless a port receives a frame (R399). (DESIGN CHOICE, assumption 69.) -/
def tolIntake (s : State) : Option Nat :=
  if s.cam.ports.any (fun p => !p.2.frames.isEmpty) then some (Config.intakeTolerance s.clk.now) else none

/-- The tolerance in force, TOL (R399); the field head's is unlimited (R338). -/
def tolInForce (s : State) : Option Nat := minTol (tolView s) (tolIntake s)

/-- TOL allows self-refresh: at least 1,800 ns plus MARGIN_NS (R399). -/
def tolAllows (s : State) : Bool :=
  match tolInForce s with
  | none => true
  | some t => decide (1800 + fld s Reg.MEM_SR_MARGIN 15 0 ≤ t)

/-- A channel enters self-refresh. -/
def srEnter (s : State) (k : Nat) : State :=
  if s.mem.sr.testBit k then s
  else countReg { s with mem := { s.mem with sr := s.mem.sr ||| 2 ^ k, srTick := s.mem.srTick ||| 2 ^ k } }
    Reg.MEM_SR_ENTRIES 1

/-- A channel leaves self-refresh. -/
def srExit (s : State) (k : Nat) : State :=
  if s.mem.sr.testBit k then { s with mem := { s.mem with sr := s.mem.sr ^^^ 2 ^ k } } else s

/-- A line lies on LPDDR6 channel k (R395). -/
def onChannel (a k : Nat) : Bool := decide (0x800000000 ≤ a) && bits a 10 8 == k

/-- A beat of the running copy, or of a scrub pass that is due, waits for channel k (R399, R404). -/
def beatDue (s : State) (k : Nat) : Bool :=
  (match s.mem.copies with | c :: _ => (copyRest s c).any (fun p => onChannel p.1 k || onChannel p.2 k) | [] => false)
  || (s.mem.scrubOn && fld s Reg.MEM_SCRUB 31 16 != 0
      && decide (s.mem.ddrPass + fld s Reg.MEM_SCRUB 31 16 * 1000000000 * tuNs ≤ s.clk.now))

/-- No request for channel k has been queued for IDLE_NS (R399). -/
def channelIdle (s : State) (k : Nat) : Bool :=
  match Map.get s.mem.lastReq k with
  | none => true
  | some t => decide (t + fld s Reg.MEM_SR_CTRL 31 16 * tuNs ≤ s.clk.now)

/-- Every channel is held in self-refresh: through a reset, and during the orderly stop (R398, R511). -/
def srHeld (s : State) : Bool := orderlyStop s || s.pwr.phase == .reset

/-- The conditions of R399 for the entry of channel k, but for a refresh that is due, which the controller gives at once. -/
def srMay (s : State) (k : Nat) : Bool :=
  fld s Reg.MEM_SR_CTRL 0 0 == 1 && channelIdle s k && !beatDue s k && tolAllows s

/-- SELF_REFRESH_ENTRY. -/
def execSelfRefreshEntry (channel : Fin 8) (s : State) : Out :=
  .next (if srMay s channel.val then srEnter s channel.val else s)

/-- SELF_REFRESH_EXIT, but where every channel is held. -/
def execSelfRefreshExit (channel : Fin 8) (s : State) : Out :=
  .next (if srHeld s then s else srExit s channel.val)

/-- A request for channel k arrives: the channel leaves self-refresh (R399). -/
def channelAsked (s : State) (k : Nat) : State :=
  let s1 := { s with mem := { s.mem with lastReq := Map.set s.mem.lastReq k s.clk.now } }
  if srHeld s then s1 else srExit s1 k

/-- A fall of the tolerance makes every channel leave at once (R399). -/
def tolChanged (s : State) : State :=
  if tolAllows s || srHeld s then s else (List.range 8).foldl srExit s

/-- The lines that a scrub pass corrects are counted; a line newly found uncorrectable is poisoned and reported (R404,
R405). -/
def scrubLines (s : State) (ddr : Bool) (corrected failed : List Nat) : State :=
  let s1 := if corrected.isEmpty then s
    else event (countSat s (if ddr then Reg.MEM_DDR_CORR else Reg.MEM_COURT_CORR) corrected.length)
      Reg.MEM_EVENTS (if ddr then 2 else 0)
  failed.foldl (fun s l => if s.mem.poison.contains l then s else memUncorr (devPoison s [l]) l 0xFF) s1

/-- A line address within a memory. -/
def lineIn (ddr : Bool) (a : Nat) : Bool :=
  a % 64 == 0 && (if ddr then decide (0x800000000 ≤ a) && decide (a < 0x1000000000) else decide (a < 0x4000000))

/-- SCRUB: a pass runs one period after the latest one began, where its period is not 0 and, for LPDDR6, once MEM_SCRUB
has been committed and while TOL lets a channel leave self-refresh (R404, R550). (DEDUCED, assumption 105.) -/
def execScrub (ddr : Bool) (corrected failed : List (BitVec 40)) (s : State) : Out :=
  let period := if ddr then fld s Reg.MEM_SCRUB 31 16 * 1000000000 * tuNs else fld s Reg.MEM_SCRUB 15 0 * 1000000 * tuNs
  let start := (if ddr then s.mem.ddrPass else s.mem.courtPass) + period
  let ok := period != 0 && s.clk.started && (!ddr || (s.mem.scrubOn && tolAllows s))
  if ok then
    let s1 := advance s start
    let s2 := scrubLines s1 ddr ((corrected.map (·.toNat)).filter (lineIn ddr)) ((failed.map (·.toNat)).filter (lineIn ddr))
    .next { s2 with mem := { s2.mem with
      courtPass := if ddr then s2.mem.courtPass else s1.clk.now,
      ddrPass := if ddr then s1.clk.now else s2.mem.ddrPass } }
  else .next s

/-- A read of MEM_ERR_ADDR_LO latches the high address bits and the reader (R406). -/
def memErrRead (s : State) : State :=
  { s with mem := { s.mem with errHi := reg s Reg.MEM_ERR_ADDR_HI, errInfo := reg s Reg.MEM_ERR_INFO } }

/-! ## The Draw (R382–R385) -/

/-- The LFSR word that an arbiter is loaded with (R382). -/
def lfsrSeed (seed i : Nat) : Nat := let v := seed ^^^ i; if v = 0 then 1 else v

/-- An arbiter's state. -/
def arbiterOf (s : State) (i : Nat) : Arbiter := Map.getD s.sch.arb i { lfsr := lfsrSeed s.sch.seed i }

/-- Class (0 LC, 1 BE) and tickets of a request (R383). -/
def drawClass (s : State) (q : DrawRequest) : Nat × Nat :=
  let t := q.tag.toNat
  if 58 ≤ q.input.toNat then (0, 0)
  else if t < 32 then (fld s (Reg.SCH_CTX_CTRL t) 1 1, fld s (Reg.SCH_CTX_CTRL t) 15 8)
  else if t = 33 then (fld s Reg.SCH_DRAW_COPY 0 0, fld s Reg.SCH_DRAW_COPY 15 8)
  else (0, 0)

/-- A request that the arbiter answers: inputs 64 and 65 stand at Lysba links only (R383), and a lent bank answers only
the host port and the copy engines (R392). -/
def drawAnswers (s : State) (arb : Nat) (q : DrawRequest) : Bool :=
  let i := q.input.toNat
  decide (i < 66) && (decide (i < 64) || decide (264 ≤ arb))
    && (decide (256 ≤ arb) || bankOwner s arb != 0x0100
        || i == 58 || (decide (48 ≤ i) && decide (i ≤ 55) && q.tag.toNat == 33))

/-- The weighted winner: the first entry that the draw word falls into (R382). -/
def pickTicket : List (Nat × Nat) → Nat → Option Nat
  | [], _ => none
  | (i, t) :: rest, r => if r < t then some i else pickTicket rest (r - t)

/-- The lottery of R382 among (number, tickets) pairs in ascending number. -/
def lottery (lfsr : Nat) (l : List (Nat × Nat)) : Option Nat :=
  pickTicket l (lfsr * sumN (l.map (·.2)) / 2 ^ 32)

/-- The requests an arbiter considers, in ascending input number, without BE inputs of 0 tickets (R382). -/
def drawField (s : State) (arb : Nat) (rs : List DrawRequest) : List DrawRequest :=
  sortBy (fun a b => decide (a.input.toNat ≤ b.input.toNat))
    (rs.filter (fun q => drawAnswers s arb q && !((drawClass s q).1 == 1 && (drawClass s q).2 == 0)))

/-- The input granted: the highest LC input, else the lottery's winner (R382). -/
def drawGrant (s : State) (lfsr : Nat) (f : List DrawRequest) : Option Nat :=
  let lc := f.filter (fun q => (drawClass s q).1 == 0)
  match lc.getLast? with
  | some q => some q.input.toNat
  | none => lottery lfsr (f.map (fun q => (q.input.toNat, (drawClass s q).2)))

/-- A ROM stage job runs on the team of a Draw input (R273, R383). -/
def romOnTeam (s : State) (i : Nat) : Bool :=
  decide (i < 32) && s.sch.hud.any (fun e => e.2.rom.any (fun j => j.cores.any (fun l => l / 256 == i / 2)))

/-- The event-counter attributes of a request (R531), without the address: traffic under the system context's tag from a team on which
a ROM stage job runs is the job's. (DEDUCED, assumption 68.) -/
def drawAttrs (s : State) (q : DrawRequest) : Attrs :=
  let i := q.input.toNat
  { origin := some (if i = 58 ∨ q.tag.toNat = 33 then 3 else if i = 59 then 0 else if 60 ≤ i ∨ (q.tag.toNat = 32 ∧ romOnTeam s i) then 1
      else 2),
    cls := some (drawClass s q).1, ctx := some q.tag.toNat, master := some i }

/-- Those of a beat of Court or LPDDR6, which carries its line address (R531, R532). -/
def beatAttrs (s : State) (q : DrawRequest) : Attrs := { drawAttrs s q with addr := some (q.addr.toNat / 64 * 64) }

/-- What the granted beat of Court or LPDDR6 does: a corrected error counts (R404), and a beat of the running copy moves its line
(R402). -/
def beatMoves (s : State) (ddr : Bool) (q : DrawRequest) : State :=
  let s1 := if q.corrected then
      event (countSat s (if ddr then Reg.MEM_DDR_CORR else Reg.MEM_COURT_CORR) 1) Reg.MEM_EVENTS (if ddr then 2 else 0)
    else s
  if q.tag.toNat = 33 ∧ 48 ≤ q.input.toNat ∧ q.input.toNat ≤ 55 then copyBeat s1 q.addr.toNat else s1

/-- One arbitration cycle. A withdrawn grant is a dead cycle; a burst in progress that requests and is not granted loses a beat, also
where its input has no tickets (R384). (DEDUCED, assumption 67.) -/
def drawCycle (s : State) (arb : Nat) (rs : List DrawRequest) (withdraws : Bool) : State :=
  let a := arbiterOf s arb
  let w := step32 a.lfsr
  let asks := rs.filter (drawAnswers s arb)
  let f := drawField s arb rs
  let g := drawGrant s w f
  let moved := if withdraws then none else g
  let loses (q : DrawRequest) : Bool := some q.input.toNat != moved && decide (0 < Map.getD a.progress q.input.toNat 0)
  let prog := f.foldl (fun p q =>
    if some q.input.toNat = moved then
      (if q.last then Map.erase p q.input.toNat else Map.set p q.input.toNat (Map.getD p q.input.toNat 0 + 1))
    else p) a.progress
  let s1 := { s with sch := { s.sch with arb := Map.set s.sch.arb arb { lfsr := w, progress := prog, last := moved } } }
  let s2 := countReg (countReg s1 Reg.SCH_DRAW_DEAD (b2n (withdraws && g.isSome))) Reg.SCH_DRAW_REVOKE (asks.filter loses).length
  let ddr := decide (256 ≤ arb) && decide (arb < 264)
  let s3 := if ddr && !asks.isEmpty then channelAsked s2 (arb - 256) else s2
  let s4 := if ddr && moved.isSome then
      { s3 with mem := { s3.mem with chBytes := Map.set s3.mem.chBytes (arb - 256) (Map.getD s3.mem.chBytes (arb - 256) 0 + 64) } }
    else s3
  let s5 := match f.find? (fun q => some q.input.toNat == moved) with
    | some q => if 264 ≤ arb then linkGrant s4 (arb - 264) q.input.toNat (drawAttrs s q) else beatMoves s4 ddr q
    | none => s4
  let held := !f.isEmpty && f.all (fun q => (drawClass s q).1 == 1)
  asks.foldl (fun s q =>
    let t := drawAttrs s q
    let won := some q.input.toNat == moved
    let s := if arb < 256 then pmcAdd s (if won then 0x30 else 0x31) 1 (beatAttrs s q)
      else if ddr then pmcAdd s (if won then 0x32 else 0x33) 1 (beatAttrs s q) else s
    let s := if held && f.contains q then pmcAdd s 0x34 1 t else s
    let s := if held && some q.input.toNat == g then pmcAdd s 0x35 1 t else s
    let s := if loses q then pmcAdd s 0x36 1 t else s
    if withdraws && some q.input.toNat == g then pmcAdd s 0x37 1 t else s) s5

/-- DRAW_ARBITRATION. (DESIGN CHOICE, assumption 104.) -/
def execDrawArbitration (arbiter : Fin 266) (requests : List DrawRequest) (withdraws : Bool) (s : State) : Out :=
  .next (drawCycle s arbiter.val requests withdraws)

end Sys2Proof.Machine
end

