-- ==== Sys2Proof/Machine/Routes.lean ====
section
/-! DEFINITION. Stream routes as the line path sees them (R16, R266, R267): enabling, leads and their changes, and the tick that
produces the line of a Whistle. -/

namespace Sys2Proof.Machine

/-- LEAD of a route in an image (R16, R267). -/
def leadOf (s : State) (img : Map Word) (r : Nat) : Nat := ifld s img (Reg.SYN_RT_CTRL r) 25 16

/-- A route is enabled in an image: SLOTS 0 counts as ENABLE 0 (R267). -/
def routeOn (s : State) (img : Map Word) (r : Nat) : Bool :=
  ifld s img (Reg.SYN_RT_CTRL r) 0 0 == 1 && ifld s img (Reg.SYN_RT_RING r) 4 0 != 0

/-- The lead at Whistle w by the changes since, newest first, given the lead after them. -/
def leadBack (w : Nat) : List (Nat × Nat) → Nat → Nat
  | [], lead => lead
  | (c, old) :: r, lead => if w < c then leadBack w r old else lead

/-- LEAD of a route as it stood at Whistle w (R266). -/
def leadAtTick (s : State) (r w : Nat) : Nat := leadBack w (Map.getD s.syn.leadAt r []) (leadOf s s.regs r)

/-- The latest tick from `since` on and before `hi`, within the changes of a lead, newest first, whose line is that of Whistle t;
`hi` bounds the ticks of the lead at hand. -/
def leadTick (since t : Nat) : List (Nat × Nat) → Nat → Nat → Option Nat
  | [], lead, hi => if lead ≤ t ∧ since ≤ t - lead ∧ t - lead < hi then some (t - lead) else none
  | (c, old) :: r, lead, hi =>
    if lead ≤ t ∧ max c since ≤ t - lead ∧ t - lead < hi then some (t - lead) else leadTick since t r old (min c hi)

/-- The latest tick before `hi` of a route whose line is that of Whistle t. -/
def lineTick (s : State) (r t hi : Nat) : Option Nat :=
  leadTick (Map.getD s.syn.since r 0) t (Map.getD s.syn.leadAt r []) (leadOf s s.regs r) hi

/-- Route r produces the line of Whistle t: it is enabled under an image, drives channels, and its lead brings one of its ticks to t
(R266, R312). -/
def producesLine (s : State) (img : Map Word) (t : Nat) (r : Route) : Bool :=
  routeOn s img r.route && r.chanCount != 0 && (lineTick s r.route t (t + 1)).isSome

end Sys2Proof.Machine
end

