-- ==== Sys2Proof/Machine/FieldRaster.lean ====
section
/-! DEFINITION. The field head (R316–R340): the line ring, fetch, resolution of channel words, the outcome of a line, the
chains on the wire, the direct pins, the emergency hold and read-back. -/

namespace Sys2Proof.Machine

/-! ## Whistle timing (R33, R36) -/

/-- The instant of the next Whistle (R33), with the ring's correction (R454). -/
def nextInst (s : State) : Nat :=
  edgeCeil ((((s.clk.acc + period s : Nat) : Int) + s.clk.corr).toNat)

/-! ## Entries of the line ring (R317, R319) -/

/-- The 64-byte header of an entry (R317). -/
def entryHeader (target epoch flags routes src : Nat) : List Byte :=
  leBytes 8 (target % 2 ^ 48) ++ leBytes 2 epoch ++ leBytes 1 flags ++ [0] ++ leBytes 4 routes ++ leBytes 8 src
    ++ List.replicate 40 0

/-- COMPLETE cleared in entry T (R319, step 1). -/
def entryClear (s : State) (t : Nat) : State :=
  let f := ofLE (entryRead s t 0x0A 1)
  entryWrite s t 0x0A [BitVec.ofNat 8 (f - f % 2)]

/-- At the Whistle at which a plan takes force, COMPLETE is cleared in every entry of the ring (R319). -/
def ringReset (s : State) : State :=
  (List.range (nLines s)).foldl (fun s i =>
    let o := i * 4224 + 0x0A
    match ringAddr s o with
    | some a => let f := (devByte s a).toNat; devWrite s a [BitVec.ofNat 8 (f - f % 2)]
    | none => s) s

/-- The words of line T's entry before its first route writes: zero, but what the takeover job wrote for it (R317, R453). -/
def freshWords (s : State) (t : Nat) : List Byte :=
  if s.lys.tkLine = some t then
    let tk := fld s Reg.FRS_CHAIN_EN 15 8
    (List.range 8).flatMap (fun m => if tk.testBit m then entryRead s t (0x40 + 512 * m) 512 else List.replicate 512 0)
      ++ List.replicate 64 0
  else List.replicate 4160 0

/-- What routes have done with line T. -/
def noteOf (s : State) (t : Nat) : LineNote := Map.getD s.frs.lines t {}

/-- A route's note holds for the line of Whistle t while no later tick of the route, up to tick `src`, produces the line anew (R266). -/
def noteStands (s : State) (t src r : Nat) (q : RouteNote) : Bool :=
  match lineTick s r t (src + 1) with
  | some w => decide (w ≤ q.src)
  | none => true

/-- A route is done with line T, held or not; notes of a line that is being replaced go (R266, R312). -/
def noteLine (s : State) (t r : Nat) (q : RouteNote) : State :=
  let e := noteOf s t
  let e1 : LineNote := { e with routes := Map.set (e.routes.filter (fun x => noteStands s t q.src x.1 x.2)) r q }
  { s with frs := { s.frs with lines := Map.set s.frs.lines t e1 } }

/-- The lower of two epoch tags, seen from the epoch in force. (DEDUCED, assumption 55.) -/
def olderEpoch (s : State) (a b : Nat) : Nat :=
  let back (e : Nat) : Nat := (s.com.epoch + 65536 - e % 65536) % 65536
  if back a < back b then b else a

/-- The header of line T's entry from what its routes have done: HOLD_LINE where one of them is held, else COMPLETE where all are
done; ROUTES names those that have written (R312, R317). -/
def noteHeader (s : State) (t src : Nat) (all : Bool) : List Byte :=
  let qs := (noteOf s t).routes
  let anyOf (p : RouteNote → Bool) : Bool := qs.any (fun q => p q.2)
  let held := anyOf (·.held)
  let epoch := (qs.map (fun q => q.2.epoch)).foldl (olderEpoch s) (((qs.head?).map (fun q => q.2.epoch)).getD 0)
  entryHeader t epoch ((if held then 3 else b2n all) + 4 * b2n (anyOf (·.mixed)) + 8 * b2n (held && anyOf (·.gap)))
    (ofPositions ((qs.filter (fun q => !q.2.held)).map (·.1))) src

/-- Entry T written as a hold-line entry (R319): HOLD_LINE and COMPLETE. (DEDUCED, assumption 57.) -/
def holdEntry (s : State) (t src : Nat) : State := entryWrite (entryClear s t) t 0 (noteHeader s t src true)

/-- Routes write channel words of line T: words that none of them writes are those of `freshWords`. -/
def beginWords (s : State) (t : Nat) : State :=
  let e := noteOf s t
  if e.begun then s
  else
    let s1 := entryWrite s t 0x40 (freshWords s t)
    let e1 : LineNote := { e with begun := true }
    { s1 with frs := { s1.frs with lines := Map.set s1.frs.lines t e1 } }

/-- A line-path job of route r for line T ended without a result: a hold-line entry before F_T, a held line at the field
head from F_T on, nothing after W_T (R57, R237). -/
def lineLost (s : State) (t r : Nat) (q : RouteNote) : State :=
  if t < s.clk.next then s
  else
    let s1 := noteLine s t r { q with held := true }
    match s.frs.fetched with
    | some l =>
      if l.target = t then { s1 with frs := { s1.frs with fetched := some { l with stopped := true } } }
      else holdEntry s1 t q.src
    | none => holdEntry s1 t q.src

/-- A line is flagged EPOCH_MIXED (R53): it counts once, however many stages and routes flag it, and once as a hold line.
(DESIGN CHOICE, assumption 114.) -/
def flagMixed (s : State) (t : Nat) (held : Bool) : State :=
  let s1 := event s Reg.WHS_IRQ_STATUS 3
  let was := Map.get s.com.mixedLines t
  { s1 with com := { s1.com with
      mixed := s1.com.mixed + b2n was.isNone, mixedTarget := t, mixedNow := true,
      mixedHold := s1.com.mixedHold + b2n (held && was != some true),
      mixedLines := Map.set s1.com.mixedLines t (held || was == some true) } }

/-! ## Resolution (R318, R320) -/

/-- The transitions of one channel word, given the level before the line: step and new level, at most two. -/
def resolveWord (word pulse last : Nat) (level : Bool) : List (Nat × Bool) :=
  let st := bits word 1 0
  let e := min (bits word 20 2) last
  if st = 0 then (if level then [(e, false)] else [])
  else if st = 1 then (if level then [] else [(e, true)])
  else if st = 2 then (if pulse = 0 then [] else [(e, true), (min (e + pulse) last, false)])
  else []

/-- The level after a list of transitions. -/
def levelAfter (moves : List (Nat × Bool)) (level : Bool) : Bool :=
  match moves.getLast? with
  | some m => m.2
  | none => level

/-- The transitions of every channel; a word at or beyond LENGTH scans as OFF at step 0 (R320). -/
def resolveLine (l : Line) (levels : Nat) : List (Nat × List (Nat × Bool)) :=
  (List.range 1040).filterMap (fun k =>
    let w := if k < l.length then (l.words[k]?).getD 0 else 0
    let m := resolveWord w l.pulse l.lastStep (levels.testBit k)
    if m.isEmpty then none else some (k, m))

/-- The level of a channel after an applied line (R320): a PULSE of no steps makes no transition and leaves OFF. -/
def wordLevel (word : Nat) (level : Bool) : Bool :=
  let st := bits word 1 0
  if st = 3 then level else st == 1

/-- The levels after an applied line, by channel bit (R320); words at or beyond LENGTH scan as OFF. -/
def lineLevels (l : Line) (levels : Nat) : Nat :=
  ofPositions ((List.range 1040).filter (fun k =>
    wordLevel (if k < l.length then (l.words[k]?).getD 0 else 0) (levels.testBit k)))

/-- The levels after transitions that have taken place. -/
def levelsAfter (moves : List (Nat × List (Nat × Bool))) (levels : Nat) : Nat :=
  moves.foldl (fun lv p =>
    let v := levelAfter p.2 (levels.testBit p.1)
    setBits lv p.1 p.1 (b2n v)) levels

/-! ## Fetch (R321, R323) -/

/-- F_T of the next Whistle's line. -/
def fetchInst (s : State) : Nat := nextInst s - fld s Reg.FRS_TIMING 17 0 * tuNs

/-- The bytes of an entry that are fetched: the channel words of a hold-line entry are not read (R319). -/
def fetchedBytes (flags len : Nat) : Nat := if flags.testBit 1 && flags.testBit 0 then 64 else 64 + 4 * len

/-- The line taken into the buffer at the fetch point; `late` says that the fetch misses its deadline (R323). (DEDUCED, assumption 56.) -/
def fetchLine (s : State) (late : Bool) : Line :=
  let t := s.clk.next
  let h := entryRead s t 0 64
  let len := fld s Reg.FRS_LINE 10 0
  let flags := fieldLE h 0x0A 1
  let n := fetchedBytes flags len
  let ecc := (List.range n).any (fun i =>
    match ringAddr s (entryOff s t + i) with | some a => s.mem.poison.contains (a / 64 * 64) | none => false)
  let cause := if flags % 2 = 0 then 0x01 else if fieldLE h 0 8 ≠ t then 0x02 else if ecc then 0x03
    else if late then 0x04 else 0
  { target := t, ctrl := reg s Reg.FRS_CTRL, chainEn := reg s Reg.FRS_CHAIN_EN, length := len,
    pulse := fld s Reg.FRS_PULSE 18 0, frame := reg s Reg.FRS_FRAME,
    lens := (List.range 8).map (fun n => fld s (Reg.FRS_CHAIN_LEN n) 7 0),
    lastStep := period s / tuEdge - 1,
    epoch := fieldLE h 0x08 2, flags := flags, cause := cause,
    words := (List.range ((n - 64) / 4)).map (fun k => ofLE (entryRead s t (0x40 + 4 * k) 4)) }

/-- The start of blanking: the fetch of line T (R321); a line without the takeover job's words sets TK_LATE (R453). The field head's poisoned reads are reported (R405). -/
def sob (s : State) (late : Bool) : State :=
  if !s.clk.started || !s.frs.drive || s.frs.fetched.isSome then s
  else
    let s1 := advance s (fetchInst s)
    let l := fetchLine s1 late
    let l1 := { l with moves := resolveLine l s1.frs.levels }
    let s2a := event { s1 with frs := { s1.frs with fetched := some l1 } } Reg.FRS_EVENTS 0
    let s2 := if s1.lys.takeover && s1.lys.tkLine != some l.target then event s2a Reg.LYS_EVENTS 10 else s2a
    if l.cause = 0x03 then
      match (linesOf 0 (fetchedBytes l.flags l.length)).filterMap (fun o =>
        match ringAddr s1 (entryOff s1 l.target + o) with
        | some a => if s1.mem.poison.contains (a / 64 * 64) then some (a / 64 * 64) else none
        | none => none) with
      | a :: _ => memUncorr s2 a 63
      | [] => s2
    else s2

/-- SOB. -/
def execSob (late : Bool) (s : State) : Out := .next (sob s late)

/-! ## Outcome (R324) -/

/-- The line's epoch, the latest with its 16 bits, predates the latest commit that changed the period or switched the plan (R54). -/
def epochStale (s : State) (e : Nat) : Bool := decide (s.fab.holdAge < (s.com.epoch + 65536 - e % 65536) % 65536)

/-- Shedding step 6 holds lines, and after HOLD_TICKS makes them SAFE (R506). -/
def step6Hold (s : State) (t : Nat) : Bool :=
  shedStep s 6 && (match s.pwr.step6At with
    | some w => decide (t < w + fld s Reg.PWR_SHED_CTRL 15 8)
    | none => false)

/-- A line without its entry at the field head, under the settings in force. -/
def settingsLine (s : State) (t : Nat) : Line :=
  { target := t, cause := 0x04, ctrl := reg s Reg.FRS_CTRL, chainEn := reg s Reg.FRS_CHAIN_EN, frame := reg s Reg.FRS_FRAME,
    lens := (List.range 8).map (fun n => fld s (Reg.FRS_CHAIN_LEN n) 7 0) }

/-- Outcome and code of the line of Whistle T (R324): 0 APPLY, 1 HOLD, 2 SAFE. A line within the window of a plan switch is a hold
line whatever its ring holds, so no underrun of it counts (R84, row 7). A stop at or after F_T holds a line whose entry is not
written, or still holds a line of an earlier lap (R57). (DEDUCED, assumptions 115, 116.) -/
def lineOutcome (s : State) (t : Nat) : Nat × Nat :=
  let x := s.frs.fetched.getD (settingsLine s t)
  let stopped := x.stopped && (x.cause == 0x01 || x.cause == 0x02)
  if x.ctrl % 2 = 0 ∨ s.sec.bench = true ∨ (shedStep s 6 = true ∧ step6Hold s t = false) ∨ orderlyStop s = true then (2, 0x10)
  else if s.frs.faultSafe then (2, 0x11)
  else if s.frs.ehold = 2 ∧ s.frs.releasePending = false then (2, 0x12)
  else if s.frs.ehold ≠ 0 then (1, 0x20)
  else if x.cause ≠ 0 ∧ s.frs.holdBelow ≤ t then (if stopped then (1, 0x25) else (2, x.cause))
  else if step6Hold s t then (1, 0x21)
  else if t < s.frs.holdBelow then (1, 0x22)
  else if epochStale s x.epoch then (1, 0x23)
  else if x.flags.testBit 1 then (1, 0x24)
  else (0, 0x00)

/-- The direct-pin transitions of a line in step order, lower pins first within one step (R332). -/
def directMoves (moves : List (Nat × List (Nat × Bool))) : List (Nat × Nat × Bool) :=
  sortBy (fun a b => decide (a.2.1 < b.2.1) || (a.2.1 == b.2.1 && decide (a.1 ≤ b.1)))
    ((moves.filter (fun p => decide (1024 ≤ p.1))).flatMap (fun p => p.2.map (fun m => (p.1 - 1024, m.1, m.2))))

/-- SAFE as transitions of the pins that are ON, at step 0 (R329). -/
def safeMoves (levels : Nat) : List (Nat × Nat × Bool) :=
  ((List.range 16).filter (fun p => levels.testBit (1024 + p))).map (fun p => (p, 0, false))

/-- At W_T the outcome of line T is fixed: levels, counters, events and log entries (R324, R339); the line being scanned
becomes the previous one. A complete line of an older epoch is flagged whichever row makes it a hold line (R54).
(DEDUCED, assumption 135.) -/
def fixLine (s : State) (t : Nat) : State :=
  let oc := lineOutcome s t
  let l := s.frs.fetched.getD (settingsLine s t)
  let lv := s.frs.levels
  let due := if oc.1 = 0 then directMoves l.moves else if oc.1 = 2 then safeMoves lv else []
  let l1 := { l with at_ := s.clk.inst, tk := s.frs.takeoverAt == some t, outcome := oc.1, code := oc.2, before := lv, due := due,
                     moves := if oc.1 = 0 then l.moves else [] }
  let lv1 := if oc.1 = 0 then lineLevels l lv else if oc.1 = 2 then 0 else lv
  let s1 := { s with frs := { s.frs with levels := lv1, prev := s.frs.cur, cur := some l1, fetched := none,
                                         ehold := if s.frs.releasePending then 0 else s.frs.ehold,
                                         releasePending := false } }
  let s2 := pokeF (pokeF (pokeF s1 Reg.FRS_STATUS 4 3 oc.1) Reg.FRS_STATUS 15 8 oc.2) Reg.FRS_STATUS 31 16 (nLines s)
  let s3 := if oc.2 = 0 ∨ 4 < oc.2 then s2
    else logEvent (event (countReg s2 Reg.FRS_UNDERRUNS 1) Reg.FRS_EVENTS 3) 0x50 9 FAULT (arg1 oc.2 ++ argN 4 t)
  let s4 := if oc.1 = 1 then event (countReg s3 Reg.FRS_HOLDS 1) Reg.FRS_EVENTS 4 else s3
  if oc.1 = 1 ∧ l.cause = 0 ∧ epochStale s l.epoch = true then flagMixed s4 t true else s4

/-! ## Chains on the wire (R325–R327) -/

/-- Chain `n` is driven: the field head scans, and the chain is enabled, or a takeover chain after its takeover (R327, R336). -/
def chainDriven (s : State) (l : Line) (n : Nat) : Bool :=
  s.frs.drive && l.ctrl.testBit 0 && (l.chainEn.testBit n || (l.chainEn.testBit (8 + n) && s.frs.takeover))

/-- The outputs of chain `n` are not high-Z: outputs are enabled (R337), and the chain is no takeover chain before its takeover
(R336). -/
def chainOut (s : State) (l : Line) (n : Nat) : Bool := s.frs.drive && (!l.chainEn.testBit (8 + n) || s.frs.takeover)

/-- The chains that are driven; the SYNC of the others is held high wherever it is not high-Z (R327). -/
def drivenChains (s : State) (l : Line) : List Nat := (List.range 8).filter (chainDriven s l)

/-- The chains that a condition leaves out. -/
def chainsBut (p : Nat → Bool) : Nat := ofPositions ((List.range 8).filter (fun n => !p n))

/-- The outcome and cause that a line has on chain `n`: SAFE, cause 0x13, on a takeover chain at the takeover Whistle (R336). -/
def chainOutcome (l : Line) (n : Nat) : Nat × Nat :=
  if l.tk && l.chainEn.testBit (8 + n) then (2, 0x13) else (l.outcome, l.code)

/-- What an output pin carries. -/
inductive Pin where
  | highZ | low | high
  /-- A running clock, or the bits of a frame. -/
  | toggling
  deriving DecidableEq, Repr

/-- The line whose settings the codes on the chains follow: the one being scanned. -/
def wireLine (s : State) : Line := s.frs.cur.getD (settingsLine s s.clk.next)

/-- The settings in force, as a line would take them: high-Z and CLK belong to no line. (DEDUCED, assumption 136.) -/
def wireNow (s : State) : Line := settingsLine s s.clk.next

/-- NCHn_CLK runs while the chain is enabled (R325, R327, R336, R337). -/
def nchClk (s : State) (n : Nat) : Pin :=
  if !chainOut s (wireNow s) n then .highZ else if chainDriven s (wireNow s) n then .toggling else .low

/-- The frame of chain `n` is on the wire: FRM is high (R321, R325). -/
def frameOn (s : State) (n : Nat) : Bool :=
  s.frs.frm.testBit n && decide (s.clk.now < s.frs.frmRise + 160 * ((Map.getD s.frs.frames n []).length) * tuNs)

/-- NCHn_FRM. -/
def nchFrm (s : State) (n : Nat) : Pin :=
  if !chainOut s (wireNow s) n then .highZ else if frameOn s n then .high else .low

/-- The code bit of chain `n`: the line being scanned sets it 30 ns after its Whistle, unless an emergency write came first (R321,
R327, R330). -/
def codeBit (s : State) (n : Nat) : Bool :=
  match s.frs.cur with
  | some l =>
    if l.at_ + 30 * tuNs ≤ s.clk.now ∧ l.cancelled = false then chainDriven s l n && (chainOutcome l n).1 == 0
    else s.frs.dat.testBit n
  | none => s.frs.dat.testBit n

/-- NCHn_DAT: the bits of a frame, else the code bit. -/
def nchDat (s : State) (n : Nat) : Pin :=
  if !chainOut s (wireNow s) n then .highZ
  else if frameOn s n then .toggling
  else if codeBit s n then .high else .low

/-- A SYNC pulse of 100 ns that rose at an instant is high. -/
def pulseOn (s : State) (rise : Nat) : Bool := decide (rise ≤ s.clk.now) && decide (s.clk.now < rise + 100 * tuNs)

/-- NCHn_SYNC: high where it is held or kept high, in the pulse of a code, and in the pulse before it, which an emergency write lets
complete; the rise of a SAFE code stays high (R327, R330). -/
def nchSync (s : State) (n : Nat) : Pin :=
  let f := s.frs
  if !chainOut s (wireNow s) n then .highZ
  else if f.syncKept.testBit n || (f.pulseWas.testBit n && pulseOn s f.pulseRise)
    || (f.sync.testBit n && (pulseOn s f.syncRise || (f.wireCode == 0 && decide (f.syncRise ≤ s.clk.now)))) then .high
  else .low

/-- NOZ_Dp: the level of ON is high where the NOZ_POL strap is high (R329, R337). -/
def nozPin (s : State) (p : Nat) : Pin :=
  if !s.frs.drive then .highZ else if s.frs.pins.testBit p == s.pwr.straps.testBit 0 then .high else .low

/-- NOZ_TAKEOVER (R335, R337). -/
def nozTakeover (s : State) : Pin := if !s.frs.drive then .highZ else if s.frs.takeover then .high else .low

/-- The 48 bits of one channel on the wire (R326). -/
def channelBits (moves : List (Nat × Bool)) : Nat :=
  let slot (m : Nat × Bool) : Nat := m.1 % 2 ^ 19 + b2n m.2 * 2 ^ 19 + 2 ^ 20
  match moves with
  | [] => 0
  | [a] => slot a
  | a :: b :: _ => slot a + slot b * 2 ^ 24

/-- The wire bytes of a chain's frame before its CRC (R326). -/
def frameBody (l : Line) (n : Nat) : List Byte :=
  let len := (l.lens[n]?).getD 0
  let head := 0x5A + n * 2 ^ 8 + len * 2 ^ 16 + (l.target % 16) * 2 ^ 24
  leBytes 4 head ++ (List.range len).flatMap (fun j =>
    leBytes 6 (channelBits (((l.moves.find? (fun p => p.1 == 128 * n + j)).map (·.2)).getD [])))

/-- The whole frame: body and CRC. -/
def chainFrame (l : Line) (n : Nat) : List Byte :=
  let b := frameBody l n
  b ++ leBytes 4 (crc32 b)

/-- At the fetch deadline each enabled chain sends its frame (R321, R326). -/
def chainFrameStart (s : State) : State :=
  match s.frs.fetched with
  | none => s
  | some l =>
    if l.frameSent then s
    else
      let ns := (List.range 8).filter (chainDriven s l)
      let exp := (List.range 9).map (fun n => if ns.contains n then crc32 (frameBody l n) else 0)
      let s1 := advance s (ceilDiv (fetchInst s + 2000 * tuNs) (20 * tuNs) * (20 * tuNs))
      { s1 with frs := { s1.frs with
          frm := ofPositions ns, frmRise := s1.clk.now,
          frames := ns.foldl (fun m n => Map.set m n (chainFrame l n)) s1.frs.frames,
          fetched := some { l with frameSent := true, expCrc := exp } } }

/-- CHAIN_FRAME_START. -/
def execChainFrameStart (s : State) : Out := .next (chainFrameStart s)

/-- A line has failed a comparison. -/
def Line.failed (l : Line) : Bool := l.failChains != 0 || l.failDirect

/-- A comparison failed or held for a line; the first failure after a line without failure is logged, `before` telling that the line
before it failed (R333). -/
def rbCompare (s : State) (l : Line) (before : Bool) (chains : Nat) (direct : Bool) : State × Line :=
  let l1 := { l with failChains := l.failChains ||| chains, failDirect := l.failDirect || direct }
  let s1 := pokeF (pokeF s Reg.FRS_RB 7 0 l1.failChains) Reg.FRS_RB 8 8 (b2n l1.failDirect)
  if chains = 0 ∧ direct = false then (s1, l1)
  else
    let s2 := event s1 Reg.FRS_EVENTS 5
    (if !before && !l.failed then logEvent s2 0x51 9 FAULT (arg1 l1.failChains ++ arg1 (b2n l1.failDirect) ++ argN 4 l.target) else s2, l1)

/-- A line that is there has failed a comparison; without one, the run of failing lines tells. -/
def lineFailed (s : State) (l : Option Line) : Bool :=
  match l with
  | some x => x.failed
  | none => s.frs.rbRun != 0

/-- CHAIN_READBACK: 100 ns after a chain frame ends, the CRC sampled at the pad is compared (R332). -/
def chainReadback (s : State) (n crc : Nat) : State :=
  match s.frs.fetched with
  | none => s
  | some l =>
    if !l.frameSent || !chainDriven s l n then s
    else
      let l1 := { l with actCrc := setNth l.actCrc n crc }
      let bad := (l.expCrc[n]?).getD 0 ≠ crc
      let r := rbCompare s l1 (lineFailed s s.frs.cur) (if bad then 2 ^ n else 0) false
      { r.1 with frs := { r.1.frs with fetched := some r.2, frm := setBits r.1.frs.frm n n 0 } }

/-- CHAIN_READBACK. -/
def execChainReadback (chain : Fin 8) (crc : BitVec 32) (s : State) : Out :=
  .next (chainReadback s chain.val crc.toNat)

/-- SYNC_DROP: 500 ns before a Whistle whose code is not SAFE, SYNC of the driven chains drops (R327). -/
def execSyncDrop (s : State) : Out :=
  .next (if !s.clk.started || (lineOutcome s s.clk.next).1 == 2 then s
    else
      let s1 := advance s (nextInst s - 500 * tuNs)
      let l := s.frs.fetched.getD (settingsLine s s.clk.next)
      { s1 with frs := { s1.frs with
          sync := s.frs.sync &&& chainsBut (chainDriven s l), syncKept := s.frs.syncKept &&& chainsBut (chainDriven s l) } })

/-- A direct-pin transition of a line takes place. -/
def Line.moved (l : Line) (m : Nat × Nat × Bool) : Line :=
  { l with due := l.due.filter (fun x => x != m), seen := l.seen ++ [(m.1, m.2.2, m.2.1)] }

/-- A pin takes its level. -/
def setPin (s : State) (p : Nat) (on : Bool) : State := { s with frs := { s.frs with pins := setBits s.frs.pins p p (b2n on) } }

/-- A direct-pin transition of the line being scanned takes place. -/
def pinMove (s : State) (m : Nat × Nat × Bool) : State :=
  let s1 := setPin s m.1 m.2.2
  { s1 with frs := { s1.frs with cur := s1.frs.cur.map (fun l => l.moved m) } }

/-- A direct-pin transition of the line before takes place: its last steps come after the next Whistle (R321). -/
def pinMovePrev (s : State) (m : Nat × Nat × Bool) : State :=
  let s1 := setPin s m.1 m.2.2
  { s1 with frs := { s1.frs with prev := s1.frs.prev.map (fun l => l.moved m) } }

/-- Every transition of the line before has taken place 40 ns after the Whistle. -/
def flushPrev (s : State) : State :=
  match s.frs.prev with
  | none => s
  | some l => l.due.foldl pinMovePrev s

/-- The code of an outcome (R327): 0 SAFE, 1 FREEZE, 2 APPLY. -/
def codeOf (outcome : Nat) : Nat := if outcome = 2 then 0 else if outcome = 1 then 1 else 2

/-- The code of a line goes out on the driven chains: a pulse, or SYNC kept high under SAFE; the SYNC of the other chains is held high
(R327). -/
def releaseCode (s : State) (l : Line) : State :=
  let pulsed (n : Nat) : Bool := chainDriven s l n && (chainOutcome l n).1 != 2
  { s with frs := { s.frs with
      wireCode := codeOf l.outcome, syncRise := s.clk.now, sync := ofPositions ((List.range 8).filter pulsed),
      pulseWas := 0, syncKept := chainsBut pulsed,
      dat := ofPositions ((drivenChains s l).filter (fun n => (chainOutcome l n).1 == 0)) } }

/-- LINE_RELEASE: at W_T + 40 ns SYNC rises with the code, unless an emergency write since W_T has sent its own; step-0 transitions take
place; the pads' SYNC and DAT are compared (R321, R327, R330, R332); the takeover output follows (R335, R336). -/
def lineRelease (s : State) (padFails : Nat) : State :=
  match s.frs.cur with
  | none => s
  | some l =>
    let s1 := flushPrev (advance s (s.clk.inst + 40 * tuNs))
    let s2 := { s1 with frs := { s1.frs with takeover := s1.frs.takeover || l.tk } }
    let driven := drivenChains s2 l
    let s3 := if l.cancelled then s2 else releaseCode s2 l
    let s4 := (l.due.filter (fun m => m.2.1 == 0)).foldl pinMove s3
    let bad := padFails &&& ofPositions driven
    let s5 := match s4.frs.cur with
      | some c => let r := rbCompare s4 c (lineFailed s4 s4.frs.prev) bad false; { r.1 with frs := { r.1.frs with cur := some r.2 } }
      | none => s4
    let s6 := pokeF s5 Reg.FRS_STATUS 1 1 (b2n s5.frs.takeover)
    if l.target % (max 1 (bits l.frame 15 0)) = bits l.frame 31 16 then event s6 Reg.FRS_EVENTS 1 else s6

/-- LINE_RELEASE. -/
def execLineRelease (padFails : BitVec 8) (s : State) : Out := .next (lineRelease s padFails.toNat)

/-- The next transition of a pin among those of a line that are due. -/
def Line.nextMove (l : Line) (pin : Nat) : Option (Nat × Nat × Bool) := l.due.find? (fun m => m.1 == pin)

/-- The instant of step `e` of a line (R321). -/
def Line.stepInst (l : Line) (e : Nat) : Nat := l.at_ + 40 * tuNs + e * tuEdge

/-- DIRECT_PIN_TRANSITION: the next transition of a direct pin takes place at its step, one of the line before first (R329). -/
def execDirectPinTransition (pin : Fin 16) (s : State) : Out :=
  .next (match s.frs.prev.bind (fun l => (l.nextMove pin.val).map (fun m => (l, m))) with
    | some (l, m) => pinMovePrev (advance s (l.stepInst m.2.1)) m
    | none => match s.frs.cur.bind (fun l => (l.nextMove pin.val).map (fun m => (l, m))) with
      | some (l, m) => pinMove (advance s (l.stepInst m.2.1)) m
      | none => s)

/-- The CRC over direct-pin transitions: 6-byte tuples of pin, level and step, in step order with lower pins first (R332). -/
def directCrc (seen : List (Nat × Bool × Nat)) : Nat :=
  crc32 ((sortBy (fun a b => decide (a.2.2 < b.2.2) || (a.2.2 == b.2.2 && decide (a.1 ≤ b.1))) seen).flatMap
    (fun m => arg1 m.1 ++ arg1 (b2n m.2.1) ++ argN 4 m.2.2))

/-- DIRECT_READBACK at W_{T+1} + 40 ns: the transitions of line T seen at the pads are compared with those intended, and the run of
failing lines is counted; FRAME_DONE at the end of a field frame (R321, R332–R334, R339). -/
def directReadback (s : State) (crc : Nat) : State :=
  let s0 := flushPrev (advance s (s.clk.inst + 40 * tuNs))
  match s0.frs.prev with
  | none => s
  | some l =>
    let e := directCrc l.seen
    let l1 := { l with expCrc := setNth l.expCrc 8 e, actCrc := setNth l.actCrc 8 crc }
    let r := rbCompare s0 l1 (s.frs.rbRun != 0) 0 (e != crc)
    let fails := if r.2.failed then satInc 16 s.frs.rbRun else 0
    let limit := bits l.ctrl 15 8
    let s1 := { r.1 with frs := { r.1.frs with
      prev := some r.2, rbRun := fails, faultDue := r.1.frs.faultDue || (bit l.ctrl 1 && limit != 0 && decide (limit ≤ fails)) } }
    let s2 := pokeF s1 Reg.FRS_RB 31 16 fails
    let lines := max 1 (bits l.frame 15 0)
    if l.target % lines = lines - 1 then event s2 Reg.FRS_EVENTS 2 else s2

/-- DIRECT_READBACK. -/
def execDirectReadback (crc : BitVec 32) (s : State) : Out := .next (directReadback s crc.toNat)

/-- The line record of R340. -/
def lineRecord (l : Line) : List Byte :=
  leBytes 8 l.target ++ arg1 l.outcome ++ arg1 l.code ++ leBytes 2 (if l.code ≠ 0 ∧ l.code ≤ 4 then 0 else l.epoch)
    ++ leBytes 4 l.lateWrites ++ leBytes 4 (l.failChains + b2n l.failDirect * 256)
    ++ l.expCrc.flatMap (leBytes 4) ++ l.actCrc.flatMap (leBytes 4)

/-- LINE_RECORD: at W_{T+1} + 2 µs the record of line T is written to the FRS status page (R340). -/
def execLineRecord (s : State) : Out :=
  .next (match s.frs.prev with
    | none => s
    | some l => statWrite (advance s (s.clk.inst + 2000 * tuNs)) (statBase 9) (lineRecord l))

/-! ## Emergency hold (R330, R331) -/

/-- The levels that the transitions up to an instant have made, of the line being scanned. -/
def levelsAt (s : State) (l : Line) : Nat :=
  let done (m : Nat × Bool) : Bool := decide (l.stepInst m.1 ≤ s.clk.now)
  levelsAfter (l.moves.map (fun p => (p.1, p.2.filter done))) l.before

/-- The pins that an emergency write turns OFF, as transitions of the line that the present instant lies in (R330, R332). -/
def safeNow (s : State) : State :=
  let add (l : Line) : Line := { l with seen := l.seen ++
    ((List.range 16).filter (fun p => s.frs.pins.testBit p)).map (fun p => (p, false, (s.clk.now - (l.at_ + 40 * tuNs)) / tuEdge)) }
  let inCur := match s.frs.cur with | some l => decide (l.at_ + 40 * tuNs ≤ s.clk.now) | none => false
  { s with frs := { s.frs with pins := 0, cur := if inCur then s.frs.cur.map add else s.frs.cur,
                               prev := if inCur then s.frs.prev else s.frs.prev.map add } }

/-- The code that an emergency write sends to the driven chains: a SYNC pulse in progress completes, and SYNC rises with the code not
before 100 ns after it; a rise that still waits takes the new code. SYNC that SAFE keeps high falls at once for a FREEZE, and stays for another SAFE (R330).
(DESIGN CHOICE, assumption 137.) -/
def sendCode (s : State) (code : Nat) : State :=
  let f := s.frs
  let driven (n : Nat) : Bool := chainDriven s (wireLine s) n
  let waits := decide (s.clk.now < f.syncRise)
  let high := f.syncKept ||| (if f.wireCode = 0 ∧ waits = false then f.sync else 0)
  let falls (n : Nat) : Bool := code != 0 && driven n && high.testBit n
  { s with frs := { f with
      wireCode := code, dat := 0, pulseWas := if waits then f.pulseWas else if f.wireCode = 0 then 0 else f.sync,
      pulseRise := if waits then f.pulseRise else f.syncRise,
      syncRise := if waits then f.syncRise
        else max (if (List.range 8).any falls then s.clk.now + 100 * tuNs else s.clk.now) (f.syncRise + 200 * tuNs),
      syncKept := high &&& chainsBut falls,
      sync := ofPositions ((List.range 8).filter (fun n => driven n && !(high &&& chainsBut falls).testBit n)) } }

/-- A write of FRS_EHOLD (R330): discarded without the key or with MODE 3. -/
def eholdWrite (s : State) (mode key : Nat) : State :=
  if key ≠ 0x4E48 ∨ mode = 3 then s
  else
    let s0 := logEvent (event s Reg.FRS_EVENTS 8) 0x53 9 WARN (arg1 mode)
    if mode = 0 then
      { s0 with frs := { s0.frs with releasePending := s0.frs.ehold != 0 } }
    else
      let lv := match s0.frs.cur with
        | some l => if l.outcome = 0 ∧ l.cancelled = false then levelsAt s0 l else s0.frs.levels
        | none => s0.frs.levels
      let stop (l : Line) : Line := { l with due := [], cancelled := true }
      let s1 := { s0 with frs := { s0.frs with ehold := mode, releasePending := false, cur := s0.frs.cur.map stop,
                                               prev := s0.frs.prev.map (fun (l : Line) => ({ l with due := [] } : Line)) } }
      if mode = 1 then sendCode { s1 with frs := { s1.frs with levels := lv } } 1
      else sendCode (safeNow { s1 with frs := { s1.frs with levels := 0 } }) 0

/-- EHOLD_HOLD. -/
def execEholdHold (key : BitVec 16) (s : State) : Out := .next (eholdWrite s 1 key.toNat)
/-- EHOLD_SAFE. -/
def execEholdSafe (key : BitVec 16) (s : State) : Out := .next (eholdWrite s 2 key.toNat)
/-- EHOLD_RELEASE. -/
def execEholdRelease (key : BitVec 16) (s : State) : Out := .next (eholdWrite s 0 key.toNat)

/-! ## FAULT_SAFE (R334) -/

/-- FAULT_SAFE is latched at the Whistle after RB_LIMIT consecutive failing lines. -/
def latchFault (s : State) (t : Nat) : State :=
  if s.frs.faultDue then
    let s1 := { s with frs := { s.frs with faultDue := false, faultSafe := true } }
    logEvent (event (pokeF s1 Reg.FRS_STATUS 2 2 1) Reg.FRS_EVENTS 7) 0x52 9 FAULT
      (arg1 (fld s Reg.FRS_CTRL 15 8) ++ argN 4 t)
  else s

/-- FAULT_CLR clears the latch at the commit (R334). -/
def faultClr (s : State) : State :=
  pokeF { s with frs := { s.frs with faultSafe := false, faultDue := false } } Reg.FRS_STATUS 2 2 0

/-- FAULT_CLR. -/
def execFaultClr (s : State) : Out := .next (faultClr s)

end Sys2Proof.Machine
end

