-- ==== Sys2Proof/Machine/Sched.lean ====
section
/-! DEFINITION. Huddles, contexts and job lists: the plan's tree (R66–R69), the work a huddle takes (R374–R376), how an
entry is split (R78), the end, stop, release and restart of a job (R56, R203, R234, R375, R465), and joins and leaves
(R371–R373). -/

namespace Sys2Proof.Machine

/-! ## The huddle tree (R66–R68, R77) -/

/-- The record of a huddle ID. -/
def findHuddle (p : Plan) (h : Nat) : Option Huddle := p.huddles.find? (fun x => x.id == h)

/-- A huddle ID is defined by the plan in force. -/
def huddleDefined (s : State) (h : Nat) : Bool := s.fab.inForce && (findHuddle s.fab.plan h).isSome

/-- The children of a composite in ascending ID. -/
def childrenOf (p : Plan) (h : Nat) : List Huddle :=
  sortBy (fun a b => decide (a.id ≤ b.id)) (p.huddles.filter (fun x => x.parent == h))

/-- The top-level huddle above a huddle, by following PARENT at most `k` times. -/
def topGo (p : Plan) : Nat → Nat → Nat
  | 0, h => h
  | k + 1, h =>
    match findHuddle p h with
    | none => h
    | some x => if x.parent = 0xFF then h else topGo p k x.parent

/-- The top-level huddle of a huddle. -/
def topOf (p : Plan) (h : Nat) : Nat := topGo p 255 h

/-- DEPTH of a huddle (R74). -/
def depthGo (p : Plan) : Nat → Nat → Nat
  | 0, _ => 0
  | k + 1, h =>
    match findHuddle p h with
    | none => 0
    | some x => if x.parent = 0xFF then 0 else depthGo p k x.parent + 1

/-- The leaves of a huddle, in the order of its children (R78). -/
def leavesGo (p : Plan) : Nat → Nat → List Huddle
  | 0, _ => []
  | k + 1, h =>
    match findHuddle p h with
    | none => []
    | some x => if x.composite then (childrenOf p h).flatMap (fun c => leavesGo p k c.id) else [x]

/-- The leaves of a huddle. -/
def leavesOf (p : Plan) (h : Nat) : List Huddle := leavesGo p 256 h

/-- A leaf lies under a huddle, or is it. -/
def isUnder (p : Plan) (leaf h : Nat) : Bool := (leavesOf p h).any (fun x => x.id == leaf)

/-- The huddle and every huddle below it. -/
def familyGo (p : Plan) : Nat → Nat → List Nat
  | 0, _ => []
  | k + 1, h => h :: (childrenOf p h).flatMap (fun c => familyGo p k c.id)

/-- The state of a squad. -/
def squadOf (s : State) (q : Nat) : Squad := Map.getD s.slv.squads q {}

/-- Active cores of a squad (R239, R240). -/
def squadActive (s : State) (q : Nat) : Nat :=
  let x := squadOf s q
  if x.lost then 0 else if x.off.isSome then 15 else 16

/-- The physical slot of a logical core. -/
def slotOf (x : Squad) (k : Nat) : Nat := if x.sub = some k then 16 else k

/-- A logical core whose slot is fenced and whose mapping change waits takes no further instruction and no further job (R238). -/
def coreFenced (s : State) (l : Nat) : Bool := (squadOf s (l / 16)).fenced.contains (slotOf (squadOf s (l / 16)) (l % 16))

/-- The squads of a leaf. -/
def squadsOf (h : Huddle) : List Nat := upTo h.squadFirst (h.squadFirst + h.squadCount)

/-- The active cores of a leaf in ascending LCN (R219). -/
def coresOf (s : State) (h : Huddle) : List Nat :=
  (squadsOf h).flatMap (fun q =>
    let x := squadOf s q
    if x.lost then [] else ((List.range 16).filter (fun k => x.off != some k)).map (fun k => q * 16 + k))

/-- The engines of a leaf in ascending number, those that failed their check left out in bench mode (R205). -/
def enginesOf (s : State) (h : Huddle) : List Nat :=
  (setPositions 16 h.engineMask).filter (fun e => !(s.sec.bench && s.slv.engineFail.testBit e))

/-- What a huddle runs. -/
def hudOf (s : State) (h : Nat) : HuddleRun := Map.getD s.sch.hud h {}

/-- The state with what a huddle runs replaced. -/
def setHud (s : State) (h : Nat) (r : HuddleRun) : State :=
  { s with sch := { s.sch with hud := Map.set s.sch.hud h r } }

/-- Every job that runs under a top-level huddle. -/
def runningJobs (r : HuddleRun) : List Job := r.group ++ r.rom

/-! ## Jobs of the plan before a switch (R84) -/

/-- The state as the jobs of a plan before a switch see it: their plan, their huddles' runs and no contexts; the Court
bank owners stay those in force. Done twice it gives the state back. -/
def swapOld (s : State) (i : Nat) : State :=
  match s.sch.old[i]? with
  | none => s
  | some (p, hud, cs) =>
    { s with
      fab := { s.fab with plan := { p with owners := s.fab.plan.owners } },
      sch := { s.sch with hud := hud, ctxs := cs, inOld := !s.sch.inOld,
                          old := setNth s.sch.old i (s.fab.plan, s.sch.hud, s.sch.ctxs) } }

/-- Two huddles, each under its own plan, share a squad or an engine. -/
def shareUnits (p q : Plan) (h g : Nat) : Bool :=
  (leavesOf p h).any (fun x => (leavesOf q g).any (fun y =>
    (squadsOf x).any (fun k => (squadsOf y).contains k) || (x.engineMask &&& y.engineMask) != 0))

/-- A job of an earlier plan still runs on units of a huddle. -/
def oldBusy (s : State) (h : Nat) : Bool :=
  s.sch.old.any (fun e => e.2.1.any (fun r => (runningJobs r.2).any (fun j => shareUnits s.fab.plan e.1 h j.huddle)))

/-! ## Contexts -/

/-- The state with a context's entry replaced. -/
def setCtx (s : State) (c : Nat) (x : Ctx) : State :=
  { s with sch := { s.sch with ctxs := Map.set s.sch.ctxs c x } }

/-- The owner context of a top-level huddle (R365). -/
def ownerOf (s : State) (h : Nat) : Option (Nat × Ctx) :=
  s.sch.ctxs.find? (fun c => c.2.record.huddle == h && c.2.record.role == 0)

/-- No entry of the context starts while it is paused or suspended (R379, R380). -/
def ctxHeld (s : State) (c : Nat) : Bool :=
  fld s (Reg.SCH_CTX_CTRL c) 0 0 == 1 || ((Map.get s.sch.ctxs c).map (·.suspended)).getD false

/-! ## STATUS and events of a job -/

/-- Status codes (R194, R218). -/
def stOK : Nat := 0x00
def stEMPTY : Nat := 0x01
def stFORMAT : Nat := 0x02
def stRANGE : Nat := 0x03
def stNOSRAM : Nat := 0x04
def stSHOT : Nat := 0x05
def stSKEW : Nat := 0x06
def stFAULT : Nat := 0x07
def stCOREFAULT : Nat := 0x08
def stNOCORES : Nat := 0x09
def stMEMERROR : Nat := 0x0A
def stPREEMPTED : Nat := 0xFE
def stRUNNING : Nat := 0xFF

/-- The size of a descriptor and the place of its STATUS field, by KIND (R192, R216). -/
def descSize (kind : Nat) : Nat := if kind = 0 then 144 else 64
def statusOff (kind : Nat) : Nat := if kind = 0 then 0x88 else 0x30

/-- The STATUS word (R194). -/
def statusWord (code dataTag scaleTag epoch tile : Nat) : Nat :=
  code + (dataTag % 16) * 2 ^ 8 + (scaleTag % 16) * 2 ^ 12 + (epoch % 65536) * 2 ^ 16 + (tile % 2 ^ 32) * 2 ^ 32

/-- STATUS is written at its address, where that lies in Court and LPDDR6 (R390). -/
def putStatus (s : State) (a v : Nat) : State :=
  if a < 2 ^ 40 ∧ rangeOk s a 8 true = true then jobWrite s a (leBytes 8 v) else s

/-- The STATUS address of a list job. -/
def statusAddr (j : Job) : Nat := fieldLE j.bytes (statusOff j.kind) 8

/-- A job's STATUS is written; ROM stage jobs have none. -/
def jobStatus (s : State) (j : Job) (code dataTag scaleTag tile : Nat) : State :=
  if j.kind ≤ 1 then putStatus s (statusAddr j) (statusWord code dataTag scaleTag j.epoch tile) else s

/-- A HUD_EVENTS bit of a leaf (R77: a composite shows the OR of its children). (DEDUCED, assumption 47.) -/
def hudEvent (s : State) (h k : Nat) : State := event s (Reg.HUD_EVENTS h) k

/-- An event bit of every engine of a leaf, with MXE_IRQ_STATUS (R206). -/
def mxeEvent (s : State) (es : List Nat) (k : Nat) : State :=
  es.foldl (fun s e => event (event s (Reg.MXE_ENG_EVENTS e) k) Reg.MXE_IRQ_STATUS k) s

/-- A SLV_EVENTS bit with its SLV_IRQ_STATUS bit (R244). -/
def slvEvent (s : State) (k : Nat) : State := event (event s Reg.SLV_EVENTS k) Reg.SLV_IRQ_STATUS k

/-- The block that reports a job: MXE 5 or SLV 6 (R528). -/
def jobBlock (j : Job) : Nat := if j.kind = 0 then 5 else 6

/-- The common first arguments of a job's log entry: CTX, huddle, JOB, KIND (R521). -/
def jobArgs (j : Job) : List Byte :=
  arg1 j.ctx ++ arg1 j.huddle ++ argN 5 (if j.kind ≤ 1 then j.desc else 0) ++ arg1 j.kind

/-! ## Lines of a job (R51–R53, R57) -/

/-- The enabled routes whose SEG_HUD holds a leaf of a list entry; a rerun works on no line (R179). -/
def segRoutes (s : State) (j : Job) : List Route :=
  if j.view || j.again then []
  else s.fab.plan.routes.filter (fun r => routeOn s j.image r.route && j.leaves.any (fun x => isUnder s.fab.plan x r.segHud))

/-- The lines that a list entry on a segmentation huddle works on: route, scan-out Whistle and synthesis tick of the routes whose
SEG_HUD holds a leaf of it, started SEG_TICK ticks after the line's synthesis tick (R50, R71). -/
def segLines (s : State) (j : Job) : List (Nat × Nat × Nat) :=
  (segRoutes s j).filterMap (fun r =>
    if j.tick < r.segTick then none
    else some (r.route, j.tick - r.segTick + leadAtTick s r.route (j.tick - r.segTick), j.tick - r.segTick))

/-- The lines a job produces: route, scan-out Whistle, synthesis tick. -/
def jobLines (s : State) (j : Job) : List (Nat × Nat × Nat) :=
  if 1 < j.kind then j.lines else segLines s j

/-- Every line of a job is lost: hold lines, each once (R57, R179, R237). -/
def loseLines (s : State) (j : Job) : State :=
  (jobLines s j).eraseDups.foldl (fun s t => lineLost s t.2.1 t.1 { src := t.2.2, epoch := j.epoch % 65536 }) s

/-- The address of a route's sweep slot for tick W; none with SLOTS 0 (R258). -/
def sweepAddr (s : State) (img : Map Word) (r w : Nat) : Option Nat :=
  let n := ifld s img (Reg.SYN_RT_RING r) 4 0
  if n = 0 then none
  else some (addr40 s img (Reg.SYN_RT_RING_LO r) (Reg.SYN_RT_RING_HI r) / 65536 * 65536 + (w % n) * 0x190000)

/-- A SYN_RT_EVENTS bit with its SYN_IRQ_STATUS bit (R267). -/
def synEvent (s : State) (r k : Nat) : State := event (event s (Reg.SYN_RT_EVENTS r) k) Reg.SYN_IRQ_STATUS k

/-- The sweeps of a line whose job stopped on a tag mismatch read SKEW_FILL (R264). -/
def skewSweeps (s : State) (j : Job) : State :=
  if 1 < j.kind then s
  else
    (segLines s j).foldl (fun s x =>
      let w := x.2.2
      match sweepAddr s j.image x.1 w with
      | none => s
      | some a =>
        if unitLE s a 4 = w % 2 ^ 32 ∧ rangeOk s a 256 true = true then
          let s1 := synEvent (jobWrite s (a + 5) [2]) x.1 2
          if ofLE (Mem.read 0 s.status (statBase 7 + x.1 * 0x100) 4) = w % 2 ^ 32 then
            pokeF s1 (Reg.SYN_RT_STATUS x.1) 1 0 2
          else s1
        else s) s

/-- The retained image of the previous epoch may run a line whose path runs on these huddles and whose tags are these (R53): every
tag is the current epoch or the one before, no plan and no period changed between them, and no context of those huddles joined,
left or was re-shared. (DEDUCED, assumption 55.) -/
def prevRuns (s : State) (huds tags : List Nat) : Bool :=
  s.com.prevUsable && !(huds.any (fun h => s.com.prevHuddles.contains (topOf s.fab.plan h)))
    && tags.all (fun t => (s.com.epoch + 65536 - t) % 65536 ≤ 1)

/-- The huddles of a route's line path. -/
def pathHuds (r : Route) : List Nat := [r.synHud, r.segHud, r.decHud]

/-- The epoch tags of the sweeps that a list entry on a segmentation huddle works on: those in place for its lines (R52). -/
def segTags (s : State) (j : Job) : List Nat :=
  (segLines s j).filterMap (fun x =>
    match sweepAddr s j.image x.1 x.2.2 with
    | some a => if unitLE s a 4 = x.2.2 % 2 ^ 32 ∧ unitLE s (a + 0xFC) 4 = x.2.2 % 2 ^ 32 then some (unitLE s (a + 0x18) 2) else none
    | none => none)

/-- A list entry on a line path compares the epochs of its inputs with each other and with its own before it starts (R52). Where they
differ its lines are mixed: the entry runs under the retained image and carries E − 1, or the lines are held (R53). -/
def segEpoch (s : State) (j : Job) : State × Job :=
  let tags := segTags s j
  if tags.all (· == j.epoch % 65536) then (s, j)
  else
    let huds := (segRoutes s j).flatMap pathHuds
    let lines := segLines s j
    if prevRuns s huds tags then
      (lines.foldl (fun s x => flagMixed s x.2.1 false) s,
       { j with image := s.com.prevImage, epoch := (s.com.epoch + 65535) % 65536 })
    else (lines.foldl (fun s x => lineLost (flagMixed s x.2.1 true) x.2.1 x.1
      { src := x.2.2, epoch := j.epoch % 65536, mixed := true }) s, j)

/-! ## Cores of a job -/

/-- A core's record. -/
def coreOf (s : State) (l : Nat) : Core := Map.getD s.slv.cores l {}

/-- The state with a core's record replaced. -/
def setCore (s : State) (l : Nat) (c : Core) : State :=
  { s with slv := { s.slv with cores := Map.set s.slv.cores l c } }

/-- The place of a core in the enumeration (R219). -/
def enumOf (j : Job) (l : Nat) : Nat := j.cores.findIdx (· == l)

/-- The control window of a core (R215). -/
def controlWindow (s : State) (j : Job) (l : Nat) : List Byte :=
  leBytes 2 l ++ leBytes 2 (enumOf j l) ++ leBytes 2 j.cores.length
    ++ leBytes 1 (squadActive s (l / 16)) ++ leBytes 1 j.variant ++ leBytes 4 j.rowN ++ leBytes 2 j.epoch
    ++ leBytes 1 j.huddle ++ leBytes 1 j.child ++ leBytes 4 j.tick ++ List.replicate 44 0

/-- `n` bytes of local memory or of the control window. -/
def localRead (s : State) (j : Job) (l : Nat) (c : Core) (a n : Nat) : List Byte :=
  let w := controlWindow s j l
  (List.range n).map (fun i => if a + i < 0x4000 then Mem.get 0 c.loc (a + i) else (w[a + i - 0x4000]?).getD 0)

/-- The local PUTs that a job's cores have issued are written, in the order of the cores and of their requests, before the job gives up
its cores; one whose range has come to lie outside is not performed (R207, R234, R390, R457). (DESIGN CHOICE, assumption 150.) -/
def drainPuts (s : State) (j : Job) : State :=
  j.cores.foldl (fun s l =>
    let c := coreOf s l
    (c.dma.filter (fun q => q.kind == 1 && q.device.isNone)).foldl (fun s q =>
      if rangeOk s q.addr q.size true then jobWrite s q.addr (localRead s j l c q.loc q.size) else protect s) s) s

/-- The receive entries of a job are freed (R443). -/
def dropReplies (s : State) (j : Job) : State := rxDrop s (fun x => x.ctx == j.ctx && x.huddle == j.huddle)

/-- A tagged instruction of one of these cores that is not complete yields a discarded record (R540). -/
def scoutDrop (s : State) (cores : List Nat) : State :=
  match s.pmc.inFlight with
  | some t =>
    if cores.contains t.lcn ∧ t.phase ≠ .complete then
      { s with pmc := { s.pmc with inFlight := some { t with phase := .discarded } } }
    else s
  | none => s

/-- The cores of a job stop; mailboxes empty (R231). -/
def stopCores (s : State) (j : Job) : State :=
  j.cores.foldl (fun s l => { s with slv := { s.slv with cores := Map.erase s.slv.cores l } }) (scoutDrop s j.cores)

/-- Active cores per squad of a leaf (R465). -/
def squadCounts (s : State) (h : Huddle) : List Nat := (squadsOf h).map (squadActive s)

/-! ## The end of a list job -/

/-! ## Decision points (R374, R382) -/

/-- The selector of a top-level huddle advances 32 steps: one decision point (R382). (DESIGN CHOICE, assumption 51.) -/
def stepSelector (s : State) (h : Nat) : State :=
  let a := arbiterOf s (512 + h)
  { s with sch := { s.sch with arb := Map.set s.sch.arb (512 + h) { a with lfsr := step32 a.lfsr } } }

/-- The tiles or units complete of the entry that runs on a huddle. -/
def groupComplete (r : HuddleRun) : Nat := r.groupDone + sumN (r.group.map (·.done))

/-- A leaf job has ended: its leaf's counts (R76). -/
def leafEnded (s : State) (leaf : Nat) (ok : Bool) : State :=
  let r := hudOf s leaf
  setHud s leaf { r with doneCount := if ok then (r.doneCount + 1) % 2 ^ 32 else r.doneCount }

/-- Registers of engines and squads that count jobs ended OK (R206, R244). -/
def countUnits (s : State) (j : Job) : State :=
  match findHuddle s.fab.plan j.huddle with
  | none => s
  | some h =>
    if j.kind = 0 then (enginesOf s h).foldl (fun s e => countReg s (Reg.MXE_ENG_JOBS e) 1) s
    else (squadsOf h).foldl (fun s q =>
      let x := squadOf s q
      { s with slv := { s.slv with squads := Map.set s.slv.squads q { x with jobs := (x.jobs + 1) % 2 ^ 32 } } }) s

/-- The entry that ran is noted with the status it ended in, PREEMPTED for a release that may be resumed, which counts as its end
(R314, R375). -/
def noteEnd (s : State) (h : Nat) (j : Job) (code : Nat) : State :=
  let r := hudOf s h
  setHud s h { r with entries := r.entries.map (fun e =>
    if e.1 = j.tick ∧ e.2.1 = j.desc ∧ (e.2.2.2.2 = stRUNNING ∨ e.2.2.2.2 = stPREEMPTED) then (e.1, e.2.1, e.2.2.1, e.2.2.2.1, code) else e) }

/-- An entry of an up-scale list has ended: after one that did not end OK no other starts, and after the last the up-scale is
complete (R281, R282). -/
def upsEnded (s : State) (h : Nat) (ok : Bool) : State :=
  let r := hudOf s h
  match r.ups with
  | none => s
  | some (_, l) =>
    if !ok then
      let s1 := event (setHud s h { r with ups := none }) Reg.SYN_VW_EVENTS 5
      { s1 with vw := { s1.vw with pic := s1.vw.pic.map (fun p => { p with flags := p.flags ||| 2 }) } }
    else if l.left = 0 then
      let s1 := setHud s h { r with ups := none }
      { s1 with vw := { s1.vw with pic := s1.vw.pic.map (fun p => { p with upsDone := true }) } }
    else s

/-- A job stopped by its shot clock: the log entry, the commit status flag and the counters (R56). -/
def shotReport (s : State) (j : Job) (complete : Nat) : State :=
  let s1 := logEvent s 0x10 (jobBlock j) FAULT (jobArgs j ++ argN 4 complete ++ argN 3 j.budget) true
  let s2 := event s1 Reg.WHS_IRQ_STATUS 4
  { s2 with com := { s2.com with shots := s2.com.shots + 1 } }

/-- A job stopped on a tag mismatch: HUD_EVENTS, the unit events and the log entry (R178). `stream` is 0 for the
activation input and 1 for weights; `sum` is the sum block's tag where one was compared. -/
def skewReport (s : State) (j : Job) (tensor tile dataTag scaleTag stream : Nat) (sum : Option Nat) : State :=
  let s1 := hudEvent s j.huddle 1
  let s2 := match findHuddle s.fab.plan j.huddle with
    | some h => if j.kind = 0 then mxeEvent s1 (enginesOf s h) 3 else slvEvent s1 7
    | none => s1
  let last := stream % 2 + (match sum with | some t => 2 + (t % 16) * 16 | none => 0)
  logEvent s2 0x11 (jobBlock j) FAULT
    (jobArgs j ++ argN 2 tensor ++ argN 4 tile ++ arg1 (dataTag % 16 + (scaleTag % 16) * 16) ++ arg1 last) true

/-! ## Release by pre-emption (R203, R234, R373, R375, R379) -/

/-- What a released sliver job keeps of each core: complete units and the partial. -/
def savedCores (s : State) (j : Job) : List (Nat × Nat × List Nat) :=
  j.cores.map (fun l => let c := coreOf s l; (l, c.unitsDone, c.partialWords))

/-- The entry that runs on a huddle is released, a decision point of the huddle: STATUS PREEMPTED, units free, and, where it may
resume, kept with its context (R206, R234, R373, R374). For the decision job that waits for it the release is its end (R375). -/
def releaseGroup (s : State) (h : Nat) (resume : Bool) : State :=
  let r := hudOf s h
  match r.group with
  | [] => s
  | j :: _ =>
    let kept := r.group.map (fun g =>
      { g with saved := if g.kind = 1 then savedCores s g else [], loaded := [], before := r.groupDone })
    let s1 := r.group.foldl stopCores (r.group.foldl drainPuts (stepSelector s h))
    let s2 := jobStatus s1 j stPREEMPTED 0 0 (groupComplete r)
    let s3 := r.group.foldl (fun s g =>
      match findHuddle s.fab.plan g.huddle with
      | some x => if g.kind = 0 then mxeEvent s (enginesOf s x) 6 else s
      | none => s) s2
    let s4 := event (countReg s3 Reg.SCH_PREEMPTS 1) Reg.SCH_EVENTS 1
    let s5 := r.group.foldl (fun s g => pmcAdd s 0x62 1 (jobAttrs s g)) s4
    let s6 := noteEnd (setHud s5 h { hudOf s5 h with group := [], groupDone := 0 }) h j stPREEMPTED
    if j.ctx < 32 then
      { s6 with sch := { s6.sch with ctxs := Map.upd s6.sch.ctxs j.ctx (fun c =>
          { c with preempts := (c.preempts + 1) % 2 ^ 32, preempted := if resume then kept else c.preempted }) } }
    else if resume then setHud s6 h { hudOf s6 h with preempted := kept } else s6

/-- A list with the entry taken last put back; none where the list has started afresh since (R376). -/
def WorkList.back (w : WorkList) : Option WorkList :=
  if w.index = 0 then none else some { w with left := w.left + 1, index := w.index - 1 }

/-- The entry that a huddle has taken but not started goes back to where it came from, as one not yet started (R375, R379, R380). -/
def untake (s : State) (h : Nat) : State :=
  let r := hudOf s h
  match r.taken with
  | none => s
  | some (c, desc, kind, child) =>
    let r0 := { r with taken := none, isRerun := false, takenUps := false }
    if r.takenUps then setHud s h { r0 with ups := r.ups.map (fun u => (u.1, (u.2.back).getD u.2)) }
    else if r.isRerun then
      setHud s h { r0 with rerun := { ctx := c, desc := desc, kind := kind, child := child, tick := tickNow s - 1 } :: r.rerun }
    else
      let x := Map.get s.sch.ctxs c
      let guest := (x.map (·.record.role)) == some 1
      let put (y : Ctx) : Ctx :=
        match (if guest then y.list else r.list).back with
        | some l => if guest then { y with list := l } else y
        | none => { y with discarded := (y.discarded + 1) % 2 ^ 32 }
      let s1 := { s with sch := { s.sch with ctxs := Map.upd s.sch.ctxs c put } }
      setHud s1 h (if guest then r0 else { r0 with list := (r.list.back).getD r.list })

/-- The context's running job is released, on whichever huddle it runs; an entry of it taken but not started goes back to its list
where the context is to go on later. -/
def releaseCtx (s : State) (c : Nat) (resume : Bool) : State :=
  s.sch.hud.foldl (fun s e =>
    match (hudOf s e.1).group with
    | j :: _ => if j.ctx = c then releaseGroup s e.1 resume else s
    | [] => if resume && (hudOf s e.1).taken.map (·.1) == some c then untake s e.1 else s) s

/-- ROM or latency-critical work of a huddle pre-empts a running job of a BE context (R375), and an entry of one that is about to
start. -/
def preemptBE (s : State) (h : Nat) : State :=
  match (hudOf s h).group with
  | j :: _ => if j.ctx < 32 ∧ ctxClass s j.ctx = 1 then releaseGroup s h true else s
  | [] =>
    match (hudOf s h).taken with
    | some (c, _, _, _) => if c < 32 ∧ ctxClass s c = 1 then untake s h else s
    | none => s

/-! ## Splitting an entry (R78, R195, R219) -/

/-- `n` things divided among `k` children, child `i`'s first and count (R78). -/
def sharePart (n k i : Nat) : Nat × Nat :=
  let q := n / k
  let m := n % k
  (i * q + min i m, q + (if i < m then 1 else 0))

/-- One leaf's part of an entry: leaf, first row and rows, first channel block and blocks. -/
structure Part where
  leaf : Nat
  rowLo : Nat
  rowN : Nat
  chLo : Nat
  chN : Nat
  deriving DecidableEq, Repr

/-- The parts of an entry under a huddle; `chan` says that CHANNELS divides channel blocks (Matrix Engine jobs), else it
divides units as ROWS does (R219). -/
def splitGo (p : Plan) (chan : Bool) : Nat → Nat → Part → List Part
  | 0, _, _ => []
  | k + 1, h, x =>
    match findHuddle p h with
    | none => []
    | some r =>
      if r.composite then
        let cs := childrenOf p h
        (cs.zip (List.range cs.length)).flatMap (fun ci =>
          if r.split = 2 then splitGo p chan k ci.1.id x
          else if r.split = 1 && chan then
            let d := sharePart x.chN cs.length ci.2
            splitGo p chan k ci.1.id { x with chLo := x.chLo + d.1, chN := d.2 }
          else
            let d := sharePart x.rowN cs.length ci.2
            splitGo p chan k ci.1.id { x with rowLo := x.rowLo + d.1, rowN := d.2 })
      else [{ x with leaf := h }]

/-- The huddle that an entry's CHILD passes it to: the huddle itself for 0xFF. -/
def entryTarget (p : Plan) (h child : Nat) : Option Nat :=
  if child = 0xFF then some h else ((childrenOf p h)[child]?).map (·.id)

/-! ## Restart of a resumed sliver job (R465) -/

/-- The variant a leaf runs: 15 when any squad of it has 15 active cores (R222). -/
def leafVariant (s : State) (h : Huddle) : Nat :=
  if (squadsOf h).any (fun q => squadActive s q == 15) then 15 else 16

/-- The tiling and tree that a sliver job uses under a variant (R217, R221). -/
def withVariant (s : State) (j : Job) (h : Huddle) : Job :=
  let v := leafVariant s h
  let ti := let t := fieldLE j.bytes 0x02 2; if t = 0xFFFF then h.tiling else t
  let tr := let t := fieldLE j.bytes 0x0E 2; if t = 0xFFFF then h.tree else t
  match s.fab.plan.tilings[ti]? with
  | none => j
  | some x =>
    { j with variant := v,
             order := if v = 15 then x.order15 else x.order16,
             chunk := if v = 15 then x.chunk15 else x.chunk16,
             treeIx := if v = 15 ∧ x.tree15 ≠ 0xFFFF then x.tree15 else tr,
             cores := coresOf s h, counts := squadCounts s h }

/-- The identity of a tree's operation (R223). -/
def treeIdentity (op : Nat) : Nat :=
  if op = 2 then 0xFF800000 else if op = 3 then 0x7F800000 else if op = 4 then 2 ^ 31 else if op = 5 then 2 ^ 31 - 1 else 0

/-- The program that a job names, and its first instruction index in the store of a leaf: the programs of the leaf and its
ancestors are packed in index order (R228). -/
def loadedAt (p : Plan) (leaf prog : Nat) : Option Nat :=
  match p.programs[prog]? with
  | none => none
  | some x =>
    if isUnder p leaf x.huddle then
      some (sumN ((p.programs.take prog).map (fun y => if isUnder p leaf y.huddle then y.words.length else 0)) + x.entry)
    else none

/-- The reduction words a job stages per contribution. -/
def redElems (j : Job) : Nat := fieldLE j.bytes 0x24 4

/-- The cores of a sliver job are loaded: local memory cleared, arguments copied, the program entered (R214, R220). A fenced core
takes no part (R238). -/
def loadCores (s : State) (j : Job) : State :=
  let n := fieldLE j.bytes 0x0C 2
  let args := devRead s (fieldLE j.bytes 0x10 8) n
  let pc := (loadedAt s.fab.plan j.huddle (fieldLE j.bytes 0 1)).getD 0
  let op := ((s.fab.plan.trees[j.treeIx]?).map (·.op)).getD 0
  let idw := List.replicate (redElems j) (treeIdentity op)
  j.cores.foldl (fun s l =>
    let old := j.saved.find? (fun x => x.1 == l)
    setCore s l { active := !coreFenced s l, huddle := j.huddle, pc := BitVec.ofNat 13 pc, loc := Mem.write 0 [] 0 args,
                  taken := (old.map (·.2.1)).getD 0, unitsDone := (old.map (·.2.1)).getD 0,
                  partialWords := (old.map (·.2.2)).getD idw }) s

/-- The engines of Matrix Engine jobs count the cycles of a tile from now on. -/
def beginTiles (s : State) (js : List Job) : State :=
  let es := (js.filter (fun j => j.kind == 0)).flatMap (fun j =>
    match findHuddle s.fab.plan j.huddle with | some x => enginesOf s x | none => [])
  { s with slv := { s.slv with spent := es.foldl (fun m e => Map.set m e (s.clk.now, 0, 0)) s.slv.spent } }

/-- A released entry ends without resuming: its status, its lines lost, its receive entries freed (R240, R405, R443). -/
def endKept (s : State) (h : Nat) (jobs : List Job) (code : Nat) : State :=
  match jobs with
  | [] => s
  | j :: _ =>
    let s1 := noteEnd (jobs.foldl dropReplies s) h j code
    let s2 := jobStatus s1 j code 0 0 (j.before + sumN (jobs.map (·.done)))
    loseLines (if j.view then upsEnded s2 h false else s2) j

/-- The first poisoned line of a sliver job's arguments (R405). -/
def argsPoison (s : State) (j : Job) : Option Nat :=
  if j.kind = 1 then (linesOf (fieldLE j.bytes 0x10 8) (fieldLE j.bytes 0x0C 2)).find? (fun l => s.mem.poison.contains l) else none

/-- A released entry resumes: Matrix Engine leaves at their lowest tile, sliver leaves on the same cores, or from unit 0
where their leaf's counts differ (R203, R234, R465). Poisoned arguments end it (R405). -/
def resumeGroup (s : State) (h : Nat) (jobs : List Job) : State :=
  match jobs.findSome? (argsPoison s) with
  | some l => endKept (memUncorr s l (((jobs.head?).bind (fun j => findHuddle s.fab.plan j.huddle)).elim 59 (fun x => 2 * (x.squadFirst / 16))))
      h jobs stMEMERROR
  | none =>
  let s1 := beginTiles (setHud s h { hudOf s h with group := jobs, groupDone := ((jobs.head?).map (·.before)).getD 0 }) jobs
  jobs.foldl (fun s j =>
    if j.kind ≠ 1 then s
    else
      match findHuddle s.fab.plan j.huddle with
      | none => s
      | some x =>
        if squadCounts s x = j.counts then loadCores s j
        else
          let j1 := withVariant s { j with saved := [], done := 0 } x
          let r := hudOf s h
          let s2 := setHud s h { r with group := r.group.map (fun g => if g.huddle = j.huddle then j1 else g) }
          let s3 := logEvent (countReg (event (dropReplies s2 j) Reg.FAB_DET_EVENTS 1) Reg.FAB_DET_RESTARTS 1) 0x13 2 NOTE
            (jobArgs j1 ++ argN 2 j1.cores.length) true
          loadCores (jobStatus s3 j1 stRUNNING 0 0 0) j1) s1

/-! ## Taking work (R374, R376) -/

/-- A huddle's next unstarted entry of a list: its 16 bytes, none when the list is used up. -/
def nextEntry (w : WorkList) : Option Nat := if 0 < w.left then some (w.addr + 16 * w.index) else none

/-- A list with its next entry taken. -/
def WorkList.pop (w : WorkList) : WorkList := { w with left := w.left - 1, index := w.index + 1 }

/-- What a context does next on a huddle (R374): its pre-empted job resumes, a job runs once more (R179), or an entry of the
picture's up-scale list or of its own list starts. -/
inductive Pick where
  | resume (jobs : List Job)
  | rerun (x : Rerun)
  | ups (view : Nat) (rest : WorkList) (a : Nat)
  | list (a : Nat)
  deriving DecidableEq, Repr

/-- Segmentation entries of a route for the line of synthesis tick w: those that started in tick w + SEG_TICK and run on
SEG_HUD or below it (R295, R314). -/
def segEntries (s : State) (r : Route) (w : Nat) : List (Nat × Nat × List Nat × Nat × Nat) :=
  (hudOf s (topOf s.fab.plan r.segHud)).entries.filter (fun e =>
    e.1 == w + r.segTick && e.2.2.1.any (fun x => isUnder s.fab.plan x r.segHud))

/-- Every such entry of the routes that a decision huddle decides has ended; `x` is 4 times the line's synthesis tick plus
DEC_TICK. -/
def segEnded (s : State) (h x : Nat) : Bool :=
  (s.fab.plan.routes.filter (fun r => r.decHud == h && r.decTick == x % 4 && routeOn s s.regs r.route
      && decide (Map.getD s.syn.since r.route 0 ≤ x / 4))).all (fun r =>
    (segEntries s r (x / 4)).all (fun e => e.2.2.2.2 != stRUNNING))

/-- A due ROM stage job goes before other work from its instant on, the decision job once the segmentation entries of its lines
have ended (R261, R273, R295, R374). -/
def romWaits (s : State) (d : Nat × Nat × Nat × Nat) : Bool :=
  decide (d.2.2.2 ≤ s.clk.now) && (d.1 != 3 || segEnded s d.2.1 d.2.2.1)

/-- The context of a picture's up-scale jobs: the owner of the view huddle, else the system context. (DEDUCED, assumption 86.) -/
def upsCtx (s : State) (h : Nat) : Nat := ((ownerOf s h).map (·.1)).getD 32

/-- A synthesis job of a huddle is due, or is to become so in this tick: the entries of the huddle's own list wait for it (R261). -/
def synWaits (s : State) (h : Nat) : Bool := (hudOf s h).romDue.any (fun d => d.1 == 2)

/-- What context `c`, 32 the system context, does next on huddle `h`, none where it has no work (R179, R273, R374, R376). -/
def pickOf (s : State) (h c : Nat) : Option Pick :=
  let r := hudOf s h
  let x := Map.get s.sch.ctxs c
  let held := decide (c < 32) && (x.isNone || ctxHeld s c)
  let kept := if c < 32 then ((x.map (·.preempted)).getD []) else r.preempted
  let own := c == 32 || (x.map (·.record.role)) == some 0
  if held then none
  else if !kept.isEmpty then some (.resume kept)
  else match r.rerun.find? (fun q => q.ctx == c && decide (q.tick < tickNow s)) with
    | some q => some (.rerun q)
    | none =>
      match (if upsCtx s h = c then r.ups else none).bind (fun u => (nextEntry u.2).map (fun a => Pick.ups u.1 u.2.pop a)) with
      | some p => some p
      | none =>
        if own then (if synWaits s h || (c == 32 && (ownerOf s h).isSome) then none else (nextEntry r.list).map Pick.list)
        else (nextEntry ((x.map (·.list)).getD {})).map Pick.list

/-- The context whose latency-critical work a huddle takes: its owner, or the system context (R374). -/
def lcContext (s : State) (h : Nat) : Option Nat :=
  let own := match ownerOf s h with
    | some c => if ctxClass s c.1 = 0 ∧ (pickOf s h c.1).isSome = true then some c.1 else none
    | none => none
  match own with
  | some c => some c
  | none => if (pickOf s h 32).isSome then some 32 else none

/-- The best-effort contexts of a huddle that have work, ascending, with their tickets (R374, R382). -/
def beContexts (s : State) (h : Nat) : List (Nat × Nat) :=
  (s.sch.ctxs.filter (fun c => c.2.record.huddle == h && ctxClass s c.1 == 1 && fld s (Reg.SCH_CTX_CTRL c.1) 15 8 != 0
    && (pickOf s h c.1).isSome)).map (fun c => (c.1, fld s (Reg.SCH_CTX_CTRL c.1) 15 8))

/-- The context whose work a huddle takes next, by the word of its selector (R374). -/
def selectWork (s : State) (h lfsr : Nat) : Option Nat :=
  match lcContext s h with
  | some c => some c
  | none => lottery lfsr (beContexts s h)

/-- An entry with a valid KIND that breaks R78 ends FORMAT in the STATUS word of its descriptor. -/
def entryFormatBad (p : Plan) (h : Nat) (e : List Byte) : Bool :=
  let child := fieldLE e 8 1
  match findHuddle p h with
  | none => true
  | some x => !allZero (slice e 10 6) || (if x.composite then child != 0xFF && decide (x.children ≤ child) else child != 0xFF)

/-- A context's entry at an address is taken from the list of huddle `v`, whose top-level huddle is `h`: passed over with
BAD_ENTRY, ended FORMAT, or left for its descriptor's start (R78, R275, R405); one outside reads zero bytes (R547). (DEDUCED, assumption 50.) -/
def takeEntry (s : State) (v h ctx a : Nat) (ups : Bool) : State :=
  let e := unitRead s a 16
  let kind := fieldLE e 9 1
  let s := if rangeOk s a 16 false then s else protect s
  if poisoned s a 16 then hudEvent (memUncorr s (a / 64 * 64) 59) h 4
  else if 1 < kind then hudEvent s h 4
  else
    let d := fieldLE e 0 8
    if entryFormatBad s.fab.plan v e then
      let st := fieldLE (devRead s (d + statusOff kind) 8) 0 8
      let r := hudOf s h
      let ls := (leavesOf s.fab.plan v).map (·.id)
      let ep := if ups then (match s.vw.pic with | some p => p.epoch | none => s.com.epoch % 65536) else s.com.epoch % 65536
      let s := if ups then s else setHud s h { r with entries := r.entries ++ [(tickNow s, d, ls, ep, stFORMAT)] }
      if !rangeOk s (d + statusOff kind) 8 false then s
      else putStatus s st (statusWord stFORMAT 0 0 ep 0)
    else setHud s h { hudOf s h with taken := some (ctx, d, kind, fieldLE e 8 1) }

/-- Latency-critical work of a huddle exists, or a ROM stage job waits (R374, R375). (DESIGN CHOICE, assumption 52.) -/
def lcWork (s : State) (h : Nat) : Bool := (lcContext s h).isSome || (hudOf s h).romDue.any (romWaits s)

/-- A huddle takes no work now: something runs or is about to start on it, a ROM stage job goes first, or work is stopped. -/
def hudBlocked (s : State) (h : Nat) : Bool :=
  let r := hudOf s h
  !r.group.isEmpty || r.taken.isSome || !r.rom.isEmpty || orderlyStop s || oldBusy s h || s.sch.applying || s.sch.inOld
    || r.romDue.any (romWaits s)

/-- One unit of a context's work is taken. -/
def takePick (s : State) (h c : Nat) (p : Pick) : State :=
  let r := hudOf s h
  match p with
  | .resume jobs =>
    resumeGroup (if c < 32 then { s with sch := { s.sch with ctxs := Map.upd s.sch.ctxs c (fun x => { x with preempted := [] }) } }
      else setHud s h { r with preempted := [] }) h jobs
  | .rerun x => setHud s h { r with rerun := r.rerun.erase x, taken := some (x.ctx, x.desc, x.kind, x.child), isRerun := true }
  | .ups v rest a =>
    let s1 := takeEntry (setHud s h { r with ups := some (v, rest) }) v h c a true
    if (hudOf s1 h).taken.isSome then setHud s1 h { hudOf s1 h with takenUps := true } else upsEnded s1 h false
  | .list a =>
    let own := c == 32 || (Map.get s.sch.ctxs c).map (·.record.role) == some 0
    let s1 := if own then setHud s h { r with list := r.list.pop }
      else { s with sch := { s.sch with ctxs := Map.upd s.sch.ctxs c (fun x => { x with list := x.list.pop }) } }
    takeEntry s1 h h c a false

/-- The choice of a decision point, by the selector's word: latency-critical work first pre-empts a running job of a BE context
(R374, R375). (DESIGN CHOICE, assumption 51.) -/
def chooseWork (s0 : State) (h : Nat) : State :=
  let s := if lcWork s0 h && !s0.sch.applying && !s0.sch.inOld then preemptBE s0 h else s0
  if hudBlocked s h then s
  else
    match selectWork s h (arbiterOf s (512 + h)).lfsr with
    | none => s
    | some c =>
      match pickOf s h c with
      | some p => takePick s h c p
      | none => s

/-- A decision point of a top-level huddle of the plan in force (R374, R382). Within the apply cycle of a Whistle the choice waits
for the cycle's end, and a job of an earlier plan is followed by no other. -/
def decisionPoint (s : State) (h : Nat) : State :=
  if s.sch.inOld || !huddleDefined s h || topOf s.fab.plan h != h then s else chooseWork (stepSelector s h) h

/-- A huddle that stands idle with work left takes it: after an entry that was passed over the next one starts as if that one had
ended (R78, R374). -/
def takeWork (s : State) (h : Nat) : State :=
  if hudBlocked s h || (lcContext s h).isNone && (beContexts s h).isEmpty then s else decisionPoint s h

/-- JOB_LIST_ENTRY. (DESIGN CHOICE, assumption 5.) -/
def execJobListEntry (huddle : Byte) (s : State) : Out := .next (takeWork s huddle.toNat)

/-- The top-level huddles of the plan in force, ascending. -/
def topHuddles (s : State) : List Nat :=
  sortBy (fun a b => decide (a ≤ b)) ((s.fab.plan.huddles.filter (fun h => h.parent == 0xFF)).map (·.id))

/-- The decision point of every top-level huddle at the end of a Whistle's apply cycle (R374). -/
def decideAll (s : State) : State :=
  (topHuddles s).foldl decisionPoint { s with sch := { s.sch with applying := false } }

/-! ## The end of a list entry -/

/-- The entry that runs on a top-level huddle ends with a status other than OK, a decision point: every leaf job of it stops, no
output is marked complete, its receive entries are freed, STATUS is written once, and the lines of a line-path job are lost (R57, R178,
R179, R194, R201, R237, R443). -/
def endGroup (s : State) (h code dataTag scaleTag tile : Nat) (lose : Bool) : State :=
  let r := hudOf s h
  match r.group with
  | [] => s
  | j :: _ =>
    let counts := [stSHOT, stSKEW, stFAULT, stCOREFAULT].contains code
    let s1 := r.group.foldl (fun s g =>
      let s1 := leafEnded (stopCores (dropReplies s g) g) g.huddle false
      if counts then pmcAdd s1 0x63 1 (jobAttrs s1 g) else s1) s
    let r1 := hudOf s1 h
    let x : Rerun := { ctx := j.ctx, desc := j.desc, kind := j.kind, child := j.entry, tick := tickNow s }
    let skew := decide (code = stSKEW)
    let again := if skew && !j.again && !j.view && !s.sch.inOld then [x] else []
    let s2 := noteEnd (setHud s1 h { r1 with
      group := [], groupDone := 0, rerun := r1.rerun ++ again,
      lastSkew := if skew then some (s.clk.now, r.group, groupComplete r) else r1.lastSkew }) h j code
    let s3 := jobStatus s2 j code dataTag scaleTag tile
    let s4 := if j.view then upsEnded s3 h false else s3
    let s5 := if skew then skewSweeps s4 j else s4
    decisionPoint (if lose then loseLines s5 j else s5) h

/-- One leaf job of the entry ends OK, its PUTs written and its receive entries freed; the last one writes STATUS with the whole count,
and a decision point follows (R194, R195, R218, R374, R443). -/
def endLeafOk (s : State) (h : Nat) (j : Job) : State :=
  let r := hudOf s h
  let rest := r.group.filter (fun g => g.huddle != j.huddle)
  let s1 := countUnits (stopCores (dropReplies (drainPuts s j) j) j) j
  let s2 := setHud s1 h { r with group := rest, groupDone := r.groupDone + j.done }
  let s3 := pmcAdd (leafEnded s2 j.huddle true) 0x61 1 (jobAttrs s j)
  if rest.isEmpty then
    let r1 := hudOf s3 h
    let s4 := jobStatus s3 j stOK 0 0 r1.groupDone
    let s5 := noteEnd (setHud s4 h { hudOf s4 h with groupDone := 0 }) h j stOK
    decisionPoint (if j.view then upsEnded s5 h true else s5) h
  else s3

/-- An event that a job of an earlier plan is the subject of acts within that plan; any other acts within the plan in
force. A plan none of whose jobs runs any longer, or was stopped by a tag mismatch in this cycle (R204), is forgotten, and huddles
whose units it frees come to a decision point. -/
def underOld (s : State) (p : State → Bool) (f : State → State) : State :=
  match (List.range s.sch.old.length).find? (fun i => p (swapOld s i)) with
  | none => f s
  | some i =>
    let s1 := swapOld (f (swapOld s i)) i
    let live (r : HuddleRun) : Bool := !(runningJobs r).isEmpty || r.lastSkew.map (·.1) == some s1.clk.now
    let s2 := { s1 with sch := { s1.sch with old := s1.sch.old.filter (fun e => e.2.1.any (fun r => live r.2)) } }
    (topHuddles s2).foldl (fun t h => if oldBusy s h && !oldBusy t h then decisionPoint t h else t) s2

/-- At each Whistle a huddle's and a guest's list starts afresh; unstarted entries are discarded and counted with the context whose
list it was; an empty list is reported, a guest's with its huddle (R76, R376, R387). (DEDUCED, assumption 151.) -/
def startLists (s : State) : State :=
  let s1 := (topHuddles s).foldl (fun s h =>
    let r := hudOf s h
    let n := fld s (Reg.HUD_JOB_COUNT h) 11 0
    let a := addr40 s s.regs (Reg.HUD_JOB_LO h) (Reg.HUD_JOB_HI h)
    let own := ((ownerOf s h).map (·.1)).getD 32
    let s := match Map.get s.sch.ctxs own with
      | some c => if r.listCtx = own then setCtx s own { c with discarded := (c.discarded + r.list.left) % 2 ^ 32 } else s
      | none => s
    let s := setHud s h { r with list := { addr := a, left := n, index := 0 }, listCtx := own }
    if n = 0 then hudEvent s h 3 else s) s
  let s2 := s1.sch.hud.foldl (fun s e => setHud s e.1 { hudOf s e.1 with
    entries := (hudOf s e.1).entries.filter (fun x => x.2.2.2.2 == stRUNNING || decide (tickNow s < x.1 + 6)) }) s1
  s2.sch.ctxs.foldl (fun s c =>
    if c.2.record.role = 0 then s
    else
      let n := fld s (Reg.SCH_CTX_JOB_COUNT c.1) 11 0
      let a := addr40 s s.regs (Reg.SCH_CTX_JOB_LO c.1) (Reg.SCH_CTX_JOB_HI c.1)
      let s1 := setCtx s c.1 { c.2 with
        discarded := (c.2.discarded + c.2.list.left) % 2 ^ 32, list := { addr := a, left := n, index := 0 } }
      if n = 0 then hudEvent s1 c.2.record.huddle 3 else s1) s2

/-! ## Joins and leaves (R366–R373) -/

/-- A context record from its 32 bytes (R368). -/
def parseCtx (b : List Byte) : CtxRec :=
  { id := fieldLE b 0 1, cls := fieldLE b 1 1, huddle := fieldLE b 2 1, role := fieldLE b 3 1, tickets := fieldLE b 4 1,
    rx4k := fieldLE b 5 1, banks := fieldLE b 6 2, perRoute := fieldLE b 8 2, routes := fieldLE b 0xA 2,
    jobFirst := fieldLE b 0xC 2, jobCount := fieldLE b 0xE 2 }

/-- The share of a context in banks (R366). -/
def CtxRec.share (c : CtxRec) : Nat := c.banks + c.perRoute * popcount 16 c.routes

/-- The context pool of a plan, ascending (R69). -/
def poolOf (p : Plan) : List Nat := (List.range 256).filter (fun b => (p.owners[b]?).getD 0x0103 == 0x0102)

/-- The free banks of the pool, given the resident contexts. -/
def poolFree (p : Plan) (cs : Map Ctx) : List Nat :=
  (poolOf p).filter (fun b => !(cs.any (fun c => c.2.banks.contains b)))

/-- The checks of a record that give FORMAT in a plan and as a command (R369, first row). -/
def ctxFormatBad (p : Plan) (b : List Byte) : Bool :=
  let c := parseCtx b
  decide (31 < c.id) || decide (1 < c.role) || decide (1 < c.cls) || decide (64 < c.rx4k)
    || (c.rx4k != 0 && c.share == 0) || decide (256 < c.banks) || decide (256 < c.perRoute)
    || decide (p.templates.length < c.jobFirst + c.jobCount) || !allZero (slice b 0x10 16)

/-- The checks of a record against the plan's huddles (R369, second row); `cs` are the contexts it joins. -/
def ctxPlanBad (p : Plan) (c : CtxRec) (cs : List CtxRec) : Bool :=
  (c.role == 1 && c.cls == 0)
    || (match findHuddle p c.huddle with | some h => h.parent != 0xFF | none => true)
    || (c.role == 0 && cs.any (fun x => x.huddle == c.huddle && x.role == 0))

/-- The address of a template in the template area (R370). -/
def templateAddr (p : Plan) (i : Nat) : Nat :=
  (p.templates.take i).foldl (fun a t => (a + (if t.1 = 0 then 144 else 64) + 15) / 16 * 16) 0xFFC000000

/-- A context becomes resident with the lowest free banks of the pool; its registers show the record (R366, R387). -/
def joinCtx (s : State) (c : CtxRec) : State :=
  let banks := (poolFree s.fab.plan s.sch.ctxs).take c.share
  let be6 := shedStep s 2 && c.cls == 1
  let s1 := setCtx s c.id { record := c, banks := banks, epoch := 0, suspended := be6 }
  let s2 := poke s1 (Reg.SCH_CTX_CTRL c.id) (c.cls * 2 + c.tickets * 256)
  let s3 := poke (poke (poke s2 (Reg.SCH_CTX_JOB_LO c.id) 0) (Reg.SCH_CTX_JOB_HI c.id) 0) (Reg.SCH_CTX_JOB_COUNT c.id) 0
  let tpl := if c.jobCount = 0 then 0 else templateAddr s.fab.plan c.jobFirst
  poke (poke s3 (Reg.SCH_CTX_TPL_LO c.id) (tpl % 2 ^ 32)) (Reg.SCH_CTX_TPL_HI c.id) (tpl / 2 ^ 32)

/-- The epoch of a join is the one in force once its Whistle has applied: it is filled in at the end of the commit. -/
def stampJoin (s : State) (c : Nat) : State :=
  { s with sch := { s.sch with ctxs := Map.upd s.sch.ctxs c (fun x => { x with epoch := s.com.epoch % 65536 }) } }

/-- A context leaves: its job is released and never resumed, its entries are discarded, taken ones and those to run once more among
them, its requests over the ring are forgotten, and its banks return (R373, R378). -/
def leaveCtx (s : State) (c : Nat) : State :=
  let s1 := rxDrop (releaseCtx s c false) (fun x => x.ctx == c)
  let drop (h : Nat) (r : HuddleRun) : HuddleRun :=
    let own := decide (r.taken.map (·.1) = some c)
    { r with rerun := r.rerun.filter (fun q => q.ctx != c),
             taken := if own then none else r.taken, isRerun := r.isRerun && !own, takenUps := r.takenUps && !own,
             list := if (ownerOf s1 h).map (·.1) = some c then { r.list with left := 0 } else r.list }
  { s1 with sch := { s1.sch with hud := s1.sch.hud.map (fun e => (e.1, drop e.1 e.2)), ctxs := Map.erase s1.sch.ctxs c } }

/-- The commit raises the epoch (R50) and notes the huddle whose share it changed (R53). -/
def reshaped (s : State) (h : Nat) : State :=
  { s with com := { s.com with epochUp := true, reshapes := h :: s.com.reshapes } }

/-- CTX_JOIN's checks and effect at the commit (R369, R371, R372). A refused re-formed join is reported with CTX_LOST. -/
def takeJoin (s : State) (left : List Nat) (b : List Byte) : CmdResult :=
  let c := parseCtx b
  if ctxFormatBad s.fab.plan b then rejected s causeFORMAT
  else if ctxPlanBad s.fab.plan c (s.sch.ctxs.map (·.2.record)) then rejected s causePLAN
  else if Map.has s.sch.ctxs c.id then rejected s causeRANGE
  else if (poolFree s.fab.plan s.sch.ctxs).length < c.share then
    let s1 := event s Reg.SCH_EVENTS 0
    rejected (if left.contains c.id then event s1 Reg.SCH_EVENTS 3 else s1) causeNOSHARE
  else { state := reshaped (joinCtx s c) c.huddle, code := codeOK }

/-- CTX_LEAVE's check and effect at the commit (R371). The operand's reserved bytes are checked with the page's format. -/
def takeLeave (s : State) (id : Nat) : CmdResult :=
  match Map.get s.sch.ctxs id with
  | none => rejected s causeRANGE
  | some x => { state := reshaped (leaveCtx s id) x.record.huddle, code := codeOK }

/-- A mode epoch begins where the changes since `before` call for it: the image of the epoch before is retained, `usable` where
no plan and no period changed (R50, R53). -/
def raiseEpoch (before s : State) (usable : Bool) : State :=
  if s.com.epochUp then
    { s with fab := { s.fab with holdAge := s.fab.holdAge + 1 },
             com := { s.com with epoch := (s.com.epoch + 1) % 2 ^ 32, epochUp := false, reshapes := [],
                                 prevImage := before.regs, prevUsable := usable, prevHuddles := s.com.reshapes } }
  else s

/-! ## Pause and suspension (R379, R380) -/

/-- PAUSE in force pre-empts the context's running job, whatever its class (R379). (DESIGN CHOICE, assumption 112.) -/
def pauseCtx (s : State) (c : Nat) : State := releaseCtx s c true

/-- The choice that a release of the context's running job calls for on its huddle (R374). -/
def chooseAfter (before s : State) (c h : Nat) : State :=
  if (hudOf before h).group.any (fun j => j.ctx == c) || (hudOf before h).taken.map (·.1) == some c then chooseWork s h else s

/-- PAUSE: the commit's value of SCH_CTX_CTRL.PAUSE and its effect, for a resident context, whose huddle comes to a decision
point. -/
def execPause (ctx : Fin 32) (s : State) : Out :=
  .next (match Map.get s.sch.ctxs ctx.val with
    | some x =>
      let changed := fld s (Reg.SCH_CTX_CTRL ctx.val) 0 0 == 0
      let s1 := { s with com := { s.com with epochUp := s.com.epochUp || changed } }
      let s2 := pauseCtx (pokeF s1 (Reg.SCH_CTX_CTRL ctx.val) 0 0 1) ctx.val
      raiseEpoch s (chooseAfter s1 s2 ctx.val x.record.huddle) true
    | none => s)

/-- The suspension of best-effort contexts while shedding step 2 is in force, and its lifting (R380). -/
def suspendBE (s : State) : State :=
  s.sch.ctxs.foldl (fun s c =>
    let want := shedStep s 2 && ctxClass s c.1 == 1
    if want && !c.2.suspended then
      let s1 := event (releaseCtx s c.1 true) Reg.SCH_EVENTS 2
      { s1 with sch := { s1.sch with ctxs := Map.upd s1.sch.ctxs c.1 (fun x => { x with suspended := true }) } }
    else if !want && c.2.suspended && !shedStep s 2 then
      { s with sch := { s.sch with ctxs := Map.upd s.sch.ctxs c.1 (fun x => { x with suspended := false }) } }
    else s) s

end Sys2Proof.Machine
end

