-- ==== Sys2Proof/Machine/SliverEncoding.lean ====
section
/-! DEFINITION. The encoding of the sliver-core instructions (R210, R211, R552): the word of each instruction and the
instruction that a word spells. -/

namespace Sys2Proof.Machine

/-- The FN code of an ALU or ALUI operation (R552). -/
def AluOp.code : AluOp → Nat
  | .add => 0x00
  | .sub => 0x01
  | .and => 0x02
  | .or => 0x03
  | .xor => 0x04
  | .sll => 0x05
  | .srl => 0x06
  | .sra => 0x07
  | .mul => 0x08
  | .mulh => 0x09
  | .mulhu => 0x0A
  | .slt => 0x0B
  | .sltu => 0x0C
  | .seq => 0x0D
  | .min => 0x0E
  | .max => 0x0F
  | .minu => 0x10
  | .maxu => 0x11
  | .adds => 0x12
  | .subs => 0x13

/-- The operation of an FN code of the ALU and ALUI classes. -/
def aluOpOf (fn : Nat) : Option AluOp :=
  match fn with
  | 0x00 => some .add
  | 0x01 => some .sub
  | 0x02 => some .and
  | 0x03 => some .or
  | 0x04 => some .xor
  | 0x05 => some .sll
  | 0x06 => some .srl
  | 0x07 => some .sra
  | 0x08 => some .mul
  | 0x09 => some .mulh
  | 0x0A => some .mulhu
  | 0x0B => some .slt
  | 0x0C => some .sltu
  | 0x0D => some .seq
  | 0x0E => some .min
  | 0x0F => some .max
  | 0x10 => some .minu
  | 0x11 => some .maxu
  | 0x12 => some .adds
  | 0x13 => some .subs
  | _ => none

/-- Format RR (R210): CLASS, FN, D, A, B and C. -/
def wordRR (cls fn : Nat) (d a b : BitVec 5) (c : BitVec 7) : BitVec 32 :=
  BitVec.ofNat 4 cls ++ BitVec.ofNat 6 fn ++ d ++ a ++ b ++ c

/-- Format RI: CLASS, FN, D, A and IMM12. -/
def wordRI (cls fn : Nat) (d a : BitVec 5) (imm : BitVec 12) : BitVec 32 :=
  BitVec.ofNat 4 cls ++ BitVec.ofNat 6 fn ++ d ++ a ++ imm

/-- Format BR: CLASS, FN, A, B and OFFSET. -/
def wordBR (cls fn : Nat) (a b : BitVec 5) (offset : BitVec 12) : BitVec 32 :=
  BitVec.ofNat 4 cls ++ BitVec.ofNat 6 fn ++ a ++ b ++ offset

/-- The word of a sliver-core instruction, its unused fields zero; none for every other command. -/
def sliverWord : Instr → Option (BitVec 32)
  | .endCore _ => some (wordRR 0 0x00 0 0 0 0)
  | .nop _ => some (wordRR 0 0x01 0 0 0 0)
  | .fence _ => some (wordRR 0 0x02 0 0 0 0)
  | .gshift _ d a b => some (wordRR 0 0x03 d a b 0)
  | .stst _ a => some (wordRR 0 0x04 0 a 0 0)
  | .add _ d a b => some (wordRR 1 0x00 d a b 0)
  | .sub _ d a b => some (wordRR 1 0x01 d a b 0)
  | .and _ d a b => some (wordRR 1 0x02 d a b 0)
  | .or _ d a b => some (wordRR 1 0x03 d a b 0)
  | .xor _ d a b => some (wordRR 1 0x04 d a b 0)
  | .sll _ d a b => some (wordRR 1 0x05 d a b 0)
  | .srl _ d a b => some (wordRR 1 0x06 d a b 0)
  | .sra _ d a b => some (wordRR 1 0x07 d a b 0)
  | .mul _ d a b => some (wordRR 1 0x08 d a b 0)
  | .mulh _ d a b => some (wordRR 1 0x09 d a b 0)
  | .mulhu _ d a b => some (wordRR 1 0x0A d a b 0)
  | .slt _ d a b => some (wordRR 1 0x0B d a b 0)
  | .sltu _ d a b => some (wordRR 1 0x0C d a b 0)
  | .seq _ d a b => some (wordRR 1 0x0D d a b 0)
  | .min _ d a b => some (wordRR 1 0x0E d a b 0)
  | .max _ d a b => some (wordRR 1 0x0F d a b 0)
  | .minu _ d a b => some (wordRR 1 0x10 d a b 0)
  | .maxu _ d a b => some (wordRR 1 0x11 d a b 0)
  | .adds _ d a b => some (wordRR 1 0x12 d a b 0)
  | .subs _ d a b => some (wordRR 1 0x13 d a b 0)
  | .lui _ d imm => some (wordRI 2 0x20 d 0 imm)
  | .lmi _ d a imm => some (wordRI 2 0x21 d a imm)
  | .beq _ a b offset => some (wordBR 3 0x00 a b offset)
  | .bne _ a b offset => some (wordBR 3 0x01 a b offset)
  | .blt _ a b offset => some (wordBR 3 0x02 a b offset)
  | .bge _ a b offset => some (wordBR 3 0x03 a b offset)
  | .bltu _ a b offset => some (wordBR 3 0x04 a b offset)
  | .bgeu _ a b offset => some (wordBR 3 0x05 a b offset)
  | .jmp _ offset => some (wordBR 3 0x08 0 0 offset)
  | .jal _ offset => some (wordBR 3 0x09 0 0 offset)
  | .jr _ a offset => some (wordBR 3 0x0A a 0 offset)
  | .loop _ a offset => some (wordBR 3 0x0B a 0 offset)
  | .lb _ d a imm => some (wordRI 4 0x00 d a imm)
  | .lbu _ d a imm => some (wordRI 4 0x01 d a imm)
  | .lh _ d a imm => some (wordRI 4 0x02 d a imm)
  | .lhu _ d a imm => some (wordRI 4 0x03 d a imm)
  | .lw _ d a imm => some (wordRI 4 0x04 d a imm)
  | .sb _ d a imm => some (wordRI 4 0x08 d a imm)
  | .sh _ d a imm => some (wordRI 4 0x09 d a imm)
  | .sw _ d a imm => some (wordRI 4 0x0A d a imm)
  | .vadd _ d a b m => some (wordRR 5 0x00 d a b ((0 : BitVec 4) ++ m))
  | .vsub _ d a b m => some (wordRR 5 0x01 d a b ((0 : BitVec 4) ++ m))
  | .vand _ d a b m => some (wordRR 5 0x02 d a b ((0 : BitVec 4) ++ m))
  | .vor _ d a b m => some (wordRR 5 0x03 d a b ((0 : BitVec 4) ++ m))
  | .vxor _ d a b m => some (wordRR 5 0x04 d a b ((0 : BitVec 4) ++ m))
  | .vsll _ d a b m => some (wordRR 5 0x05 d a b ((0 : BitVec 4) ++ m))
  | .vsrl _ d a b m => some (wordRR 5 0x06 d a b ((0 : BitVec 4) ++ m))
  | .vsra _ d a b m => some (wordRR 5 0x07 d a b ((0 : BitVec 4) ++ m))
  | .vmin _ d a b m => some (wordRR 5 0x08 d a b ((0 : BitVec 4) ++ m))
  | .vmax _ d a b m => some (wordRR 5 0x09 d a b ((0 : BitVec 4) ++ m))
  | .vadds _ d a b m => some (wordRR 5 0x0A d a b ((0 : BitVec 4) ++ m))
  | .vsubs _ d a b m => some (wordRR 5 0x0B d a b ((0 : BitVec 4) ++ m))
  | .vceq _ d a b => some (wordRR 5 0x0C d a b 0)
  | .vclt _ d a b => some (wordRR 5 0x0D d a b 0)
  | .vsel _ d a b m => some (wordRR 5 0x0E d a b ((0 : BitVec 4) ++ m))
  | .vdot8 _ d a b m => some (wordRR 5 0x10 d a b ((0 : BitVec 4) ++ m))
  | .vdot8u _ d a b m => some (wordRR 5 0x11 d a b ((0 : BitVec 4) ++ m))
  | .mand _ d a b => some (wordRR 5 0x18 d a b 0)
  | .mor _ d a b => some (wordRR 5 0x19 d a b 0)
  | .mxor _ d a b => some (wordRR 5 0x1A d a b 0)
  | .mnot _ d a => some (wordRR 5 0x1B d a 0 0)
  | .vshuf _ d a b => some (wordRR 5 0x1C d a b 0)
  | .vbcast _ d a m => some (wordRR 5 0x1D d a 0 ((0 : BitVec 4) ++ m))
  | .vext _ d a c => some (wordRR 5 0x1E d a 0 ((0 : BitVec 3) ++ c))
  | .vins _ d a c => some (wordRR 5 0x1F d a 0 ((0 : BitVec 3) ++ c))
  | .vfma _ d a b m => some (wordRR 6 0x00 d a b ((0 : BitVec 4) ++ m))
  | .vfmaw _ d a b m => some (wordRR 6 0x01 d a b ((0 : BitVec 4) ++ m))
  | .vaddh _ d a b m => some (wordRR 6 0x02 d a b ((0 : BitVec 4) ++ m))
  | .vmulh _ d a b m => some (wordRR 6 0x03 d a b ((0 : BitVec 4) ++ m))
  | .vcvthw _ d a => some (wordRR 6 0x08 d a 0 0)
  | .vcvtwh _ d a => some (wordRR 6 0x09 d a 0 0)
  | .vcvthi _ d a => some (wordRR 6 0x0A d a 0 0)
  | .vcvtih _ d a => some (wordRR 6 0x0B d a 0 0)
  | .vpk8 _ d a b => some (wordRR 6 0x0C d a b 0)
  | .vupkl8 _ d a => some (wordRR 6 0x0D d a 0 0)
  | .vupkh8 _ d a => some (wordRR 6 0x0E d a 0 0)
  | .vqnt _ d a b m => some (wordRR 6 0x10 d a b ((0 : BitVec 4) ++ m))
  | .vld _ d a imm => some (wordRI 7 0x00 d a imm)
  | .vst _ d a imm => some (wordRI 7 0x01 d a imm)
  | .vgath _ d a imm => some (wordRI 7 0x02 d a imm)
  | .vscat _ d a imm => some (wordRI 7 0x03 d a imm)
  | .raddf _ d a => some (wordRR 8 0x00 d a 0 0)
  | .raddi _ d a => some (wordRR 8 0x01 d a 0 0)
  | .rmaxf _ d a => some (wordRR 8 0x02 d a 0 0)
  | .rminf _ d a => some (wordRR 8 0x03 d a 0 0)
  | .rmaxi _ d a => some (wordRR 8 0x04 d a 0 0)
  | .rmini _ d a => some (wordRR 8 0x05 d a 0 0)
  | .get _ d a b c => some (wordRR 9 0x00 d a b ((0 : BitVec 2) ++ c))
  | .put _ d a b c => some (wordRR 9 0x01 d a b ((0 : BitVec 2) ++ c))
  | .blkget _ d a b c => some (wordRR 9 0x02 d a b ((0 : BitVec 2) ++ c))
  | .wait _ => some (wordRR 9 0x03 0 0 0 0)
  | .send _ a b => some (wordRR 10 0x00 0 a b 0)
  | .recv _ d a => some (wordRR 10 0x01 d a 0 0)
  | .bar _ => some (wordRR 10 0x02 0 0 0 0)
  | .tcontrib _ a => some (wordRR 11 0x00 0 a 0 0)
  | .unext _ d => some (wordRR 12 0x00 d 0 0 0)
  | .alui _ op d a imm => some (wordRI 2 (AluOp.code op) d a imm)
  | .whistle => none
  | .windowClose => none
  | .registerWrite _ _ _ => none
  | .commandPageWrite _ _ _ => none
  | .submitPage _ => none
  | .originReset => none
  | .clearTracks => none
  | .faultClr => none
  | .clrCounter _ => none
  | .clearAll => none
  | .eholdHold _ => none
  | .eholdSafe _ => none
  | .eholdRelease _ => none
  | .pause _ => none
  | .logReadWrite _ => none
  | .whsCountLoRead => none
  | .whsTsLoRead => none
  | .camPpsTsLoRead => none
  | .memErrAddrLoRead => none
  | .lysSyncOffsetLoRead => none
  | .pmcCntLoRead _ => none
  | .planLoad _ _ _ _ => none
  | .planSwitch _ _ _ => none
  | .planDiscard _ _ => none
  | .planVerificationEnd => none
  | .ctxJoin _ _ _ => none
  | .ctxLeave _ _ _ => none
  | .copyIn _ _ _ _ _ => none
  | .copyOut _ _ _ _ _ => none
  | .copyEnd => none
  | .nopCommand _ _ => none
  | .keyEnrol _ _ _ _ => none
  | .flashUpdate _ _ _ _ _ => none
  | .attest _ _ _ _ => none
  | .measureExtend _ _ _ => none
  | .bootClear _ _ => none
  | .secCommandEnd _ => none
  | .warmReset _ _ _ => none
  | .warmResetDue => none
  | .act _ _ => none
  | .apertureFillDone _ => none
  | .read _ _ _ => none
  | .wr _ _ _ _ => none
  | .mwr _ _ _ _ => none
  | .pre _ _ => none
  | .refreshCommand => none
  | .sre => none
  | .srx => none
  | .mrr _ => none
  | .mrw _ _ => none
  | .rdc => none
  | .wff _ => none
  | .rff => none
  | .mpcZq => none
  | .hostResetNLow => none
  | .hostPortReady => none
  | .frameStart _ _ _ _ _ _ => none
  | .longPacket _ _ _ _ _ _ _ _ => none
  | .frameEnd _ _ _ _ => none
  | .truncated _ => none
  | .noSignal _ => none
  | .fsyncPulse _ => none
  | .fsyncFall _ => none
  | .busTransactionEnd _ _ => none
  | .busWaitEnd _ => none
  | .stretch _ => none
  | .encoderEdge _ _ _ _ => none
  | .ppsEdge _ => none
  | .ppsLost => none
  | .imuDrdy _ => none
  | .imuReadDone _ => none
  | .pyr _ => none
  | .corner _ => none
  | .desc _ => none
  | .matchRow _ => none
  | .flow _ => none
  | .dvis _ => none
  | .stereo _ => none
  | .conf _ => none
  | .playbookEnd _ => none
  | .visionInstructionEnd _ _ _ => none
  | .jobListEntry _ => none
  | .conv _ => none
  | .poolMax _ => none
  | .poolAvg _ => none
  | .boxDecode _ => none
  | .tileComplete _ => none
  | .sliverJob _ => none
  | .jobEnd _ => none
  | .shotClock _ _ => none
  | .dmaComplete _ => none
  | .messageDelivery _ => none
  | .undefinedEncoding _ _ => none
  | .reductionDone _ => none
  | .coreFault _ _ _ => none
  | .spareCheckEnd _ _ => none
  | .synthesisJob _ => none
  | .decisionJob _ => none
  | .gen _ => none
  | .compose _ => none
  | .takeoverJob _ => none
  | .sob _ => none
  | .chainFrameStart => none
  | .chainReadback _ _ => none
  | .syncDrop => none
  | .lineRelease _ => none
  | .directPinTransition _ => none
  | .directReadback _ => none
  | .lineRecord => none
  | .viewFrameStart => none
  | .cloneFrameStart => none
  | .viewUnderrun _ _ _ => none
  | .viewSob => none
  | .frameDone _ _ => none
  | .frameRecord => none
  | .linkTrainingEnd _ => none
  | .hpd _ _ => none
  | .hpdIrq _ => none
  | .unplug => none
  | .linkDetect _ _ => none
  | .linkTrain _ _ => none
  | .linkAlign _ _ => none
  | .linkFail _ => none
  | .blockLockLoss _ => none
  | .idleFrame _ _ => none
  | .hello _ _ _ _ _ => none
  | .acknak _ _ _ _ => none
  | .syncFrame _ _ _ _ => none
  | .heartbeat _ _ _ => none
  | .rget _ _ _ _ => none
  | .rput _ _ _ _ _ => none
  | .remoteRequestServed => none
  | .reply _ _ _ _ _ => none
  | .mirror _ _ _ _ => none
  | .mirrorEnd _ _ => none
  | .droppedFrame _ _ _ => none
  | .mirrorSectionSend => none
  | .heartbeatSend => none
  | .heartbeatDeadline => none
  | .drawArbitration _ _ _ => none
  | .refreshDue _ _ _ => none
  | .selfRefreshEntry _ => none
  | .selfRefreshExit _ => none
  | .scrub _ _ _ => none
  | .porNLow => none
  | .porNRise _ => none
  | .brownOut _ => none
  | .vddCoreLow => none
  | .warmRstN => none
  | .resetRelease _ => none
  | .failedStart => none
  | .startOk => none
  | .busSample _ => none
  | .coreSample _ => none
  | .temperatureSample _ => none
  | .logWrite => none
  | .scoutRecord _ => none
  | .deskew _ _ _ => none
  | .inBandInterrupt _ => none
  | .badFrame _ => none
  | .failedStartWarmReset => none
  | .commandBusTraining _ => none
  | .wck2ckLevelling _ => none
  | .wck2dqOscillator _ => none

/-- The word that a core issues for its instruction (R210). -/
def wordOf (i : Instr) : BitVec 32 := (sliverWord i).getD 0

/-- The instruction that a word spells on a core, none for an undefined encoding (R212, R552). -/
def sliverDecode (lcn : BitVec 12) (w : BitVec 32) : Option Instr :=
  let d := w.extractLsb' 17 5
  let a := w.extractLsb' 12 5
  let b := w.extractLsb' 7 5
  let imm := w.extractLsb' 0 12
  match (w.extractLsb' 28 4).toNat, (w.extractLsb' 22 6).toNat with
  | 0, 0x00 => some (.endCore lcn)
  | 0, 0x01 => some (.nop lcn)
  | 0, 0x02 => some (.fence lcn)
  | 0, 0x03 => some (.gshift lcn d a b)
  | 0, 0x04 => some (.stst lcn a)
  | 1, 0x00 => some (.add lcn d a b)
  | 1, 0x01 => some (.sub lcn d a b)
  | 1, 0x02 => some (.and lcn d a b)
  | 1, 0x03 => some (.or lcn d a b)
  | 1, 0x04 => some (.xor lcn d a b)
  | 1, 0x05 => some (.sll lcn d a b)
  | 1, 0x06 => some (.srl lcn d a b)
  | 1, 0x07 => some (.sra lcn d a b)
  | 1, 0x08 => some (.mul lcn d a b)
  | 1, 0x09 => some (.mulh lcn d a b)
  | 1, 0x0A => some (.mulhu lcn d a b)
  | 1, 0x0B => some (.slt lcn d a b)
  | 1, 0x0C => some (.sltu lcn d a b)
  | 1, 0x0D => some (.seq lcn d a b)
  | 1, 0x0E => some (.min lcn d a b)
  | 1, 0x0F => some (.max lcn d a b)
  | 1, 0x10 => some (.minu lcn d a b)
  | 1, 0x11 => some (.maxu lcn d a b)
  | 1, 0x12 => some (.adds lcn d a b)
  | 1, 0x13 => some (.subs lcn d a b)
  | 2, 0x20 => some (.lui lcn d imm)
  | 2, 0x21 => some (.lmi lcn d a imm)
  | 3, 0x00 => some (.beq lcn d a imm)
  | 3, 0x01 => some (.bne lcn d a imm)
  | 3, 0x02 => some (.blt lcn d a imm)
  | 3, 0x03 => some (.bge lcn d a imm)
  | 3, 0x04 => some (.bltu lcn d a imm)
  | 3, 0x05 => some (.bgeu lcn d a imm)
  | 3, 0x08 => some (.jmp lcn imm)
  | 3, 0x09 => some (.jal lcn imm)
  | 3, 0x0A => some (.jr lcn d imm)
  | 3, 0x0B => some (.loop lcn d imm)
  | 4, 0x00 => some (.lb lcn d a imm)
  | 4, 0x01 => some (.lbu lcn d a imm)
  | 4, 0x02 => some (.lh lcn d a imm)
  | 4, 0x03 => some (.lhu lcn d a imm)
  | 4, 0x04 => some (.lw lcn d a imm)
  | 4, 0x08 => some (.sb lcn d a imm)
  | 4, 0x09 => some (.sh lcn d a imm)
  | 4, 0x0A => some (.sw lcn d a imm)
  | 5, 0x00 => some (.vadd lcn d a b (w.extractLsb' 0 3))
  | 5, 0x01 => some (.vsub lcn d a b (w.extractLsb' 0 3))
  | 5, 0x02 => some (.vand lcn d a b (w.extractLsb' 0 3))
  | 5, 0x03 => some (.vor lcn d a b (w.extractLsb' 0 3))
  | 5, 0x04 => some (.vxor lcn d a b (w.extractLsb' 0 3))
  | 5, 0x05 => some (.vsll lcn d a b (w.extractLsb' 0 3))
  | 5, 0x06 => some (.vsrl lcn d a b (w.extractLsb' 0 3))
  | 5, 0x07 => some (.vsra lcn d a b (w.extractLsb' 0 3))
  | 5, 0x08 => some (.vmin lcn d a b (w.extractLsb' 0 3))
  | 5, 0x09 => some (.vmax lcn d a b (w.extractLsb' 0 3))
  | 5, 0x0A => some (.vadds lcn d a b (w.extractLsb' 0 3))
  | 5, 0x0B => some (.vsubs lcn d a b (w.extractLsb' 0 3))
  | 5, 0x0C => some (.vceq lcn d a b)
  | 5, 0x0D => some (.vclt lcn d a b)
  | 5, 0x0E => some (.vsel lcn d a b (w.extractLsb' 0 3))
  | 5, 0x10 => some (.vdot8 lcn d a b (w.extractLsb' 0 3))
  | 5, 0x11 => some (.vdot8u lcn d a b (w.extractLsb' 0 3))
  | 5, 0x18 => some (.mand lcn d a b)
  | 5, 0x19 => some (.mor lcn d a b)
  | 5, 0x1A => some (.mxor lcn d a b)
  | 5, 0x1B => some (.mnot lcn d a)
  | 5, 0x1C => some (.vshuf lcn d a b)
  | 5, 0x1D => some (.vbcast lcn d a (w.extractLsb' 0 3))
  | 5, 0x1E => some (.vext lcn d a (w.extractLsb' 0 4))
  | 5, 0x1F => some (.vins lcn d a (w.extractLsb' 0 4))
  | 6, 0x00 => some (.vfma lcn d a b (w.extractLsb' 0 3))
  | 6, 0x01 => some (.vfmaw lcn d a b (w.extractLsb' 0 3))
  | 6, 0x02 => some (.vaddh lcn d a b (w.extractLsb' 0 3))
  | 6, 0x03 => some (.vmulh lcn d a b (w.extractLsb' 0 3))
  | 6, 0x08 => some (.vcvthw lcn d a)
  | 6, 0x09 => some (.vcvtwh lcn d a)
  | 6, 0x0A => some (.vcvthi lcn d a)
  | 6, 0x0B => some (.vcvtih lcn d a)
  | 6, 0x0C => some (.vpk8 lcn d a b)
  | 6, 0x0D => some (.vupkl8 lcn d a)
  | 6, 0x0E => some (.vupkh8 lcn d a)
  | 6, 0x10 => some (.vqnt lcn d a b (w.extractLsb' 0 3))
  | 7, 0x00 => some (.vld lcn d a imm)
  | 7, 0x01 => some (.vst lcn d a imm)
  | 7, 0x02 => some (.vgath lcn d a imm)
  | 7, 0x03 => if d = 31 then none else some (.vscat lcn d a imm)
  | 8, 0x00 => some (.raddf lcn d a)
  | 8, 0x01 => some (.raddi lcn d a)
  | 8, 0x02 => some (.rmaxf lcn d a)
  | 8, 0x03 => some (.rminf lcn d a)
  | 8, 0x04 => some (.rmaxi lcn d a)
  | 8, 0x05 => some (.rmini lcn d a)
  | 9, 0x00 => if b = 31 then none else some (.get lcn d a b (w.extractLsb' 0 5))
  | 9, 0x01 => if b = 31 then none else some (.put lcn d a b (w.extractLsb' 0 5))
  | 9, 0x02 => if b = 31 then none else some (.blkget lcn d a b (w.extractLsb' 0 5))
  | 9, 0x03 => if b = 31 then none else some (.wait lcn)
  | 10, 0x00 => some (.send lcn a b)
  | 10, 0x01 => some (.recv lcn d a)
  | 10, 0x02 => some (.bar lcn)
  | 11, 0x00 => some (.tcontrib lcn a)
  | 12, 0x00 => some (.unext lcn d)
  | 2, fn =>
    match aluOpOf fn with
    | some op => some (.alui lcn op d a imm)
    | none => none
  | _, _ => none

end Sys2Proof.Machine
end

