-- ==== Sys2Proof/Machine/Sliver.lean ====
section
/-! DEFINITION. A sliver core at work (R207–R237, R552): its registers and local memory, faults, the units it draws, DMA,
messages, tiles under Range Guard, and the operations that the instructions of Machine/SliverExec.lean are made of. -/

namespace Sys2Proof.Machine

/-! ## Registers of a core (R207) -/

/-- Scalar registers: s0 reads zero and discards writes. (DEDUCED, assumption 59.) -/
def Core.sget (c : Core) (r : Nat) : Nat := if r = 0 then 0 else (Map.getD c.s r 0).toNat
def Core.sset (c : Core) (r v : Nat) : Core := if r = 0 then c else { c with s := Map.set c.s r (BitVec.ofNat 32 v) }

/-- Lane `i` of a vector register, and a vector register from its 16 lanes. -/
def Core.lane (c : Core) (r i : Nat) : Nat := (((Map.getD c.v r 0).toNat) >>> (16 * i)) % 65536
def lanes16 (l : List Nat) : Nat := l.foldr (fun x a => x % 65536 + a * 65536) 0
def Core.vset (c : Core) (r : Nat) (l : List Nat) : Core := { c with v := Map.set c.v r (BitVec.ofNat 256 (lanes16 l)) }

/-- Lane `i` of an accumulator (register field modulo 8), and an accumulator from its 16 lanes. -/
def Core.acc (c : Core) (r i : Nat) : Nat := (((Map.getD c.w (r % 8) 0).toNat) >>> (32 * i)) % 2 ^ 32
def lanes32 (l : List Nat) : Nat := l.foldr (fun x a => x % 2 ^ 32 + a * 2 ^ 32) 0
def Core.wset (c : Core) (r : Nat) (l : List Nat) : Core :=
  { c with w := Map.set c.w (r % 8) (BitVec.ofNat 512 (lanes32 l)) }

/-- A mask register: m0 reads all ones and discards writes. -/
def Core.mget (c : Core) (r : Nat) : Nat := if r % 8 = 0 then 0xFFFF else (Map.getD c.m (r % 8) 0).toNat
def Core.mset (c : Core) (r v : Nat) : Core :=
  if r % 8 = 0 then c else { c with m := Map.set c.m (r % 8) (BitVec.ofNat 16 v) }

/-- The sixteen lane numbers. -/
def laneIx : List Nat := List.range 16

/-- A masked write of a vector register: lanes whose mask bit is 0 keep their values (R552). -/
def Core.vmask (c : Core) (d m : Nat) (f : Nat → Nat) : Core :=
  c.vset d (laneIx.map (fun i => if (c.mget m).testBit i then f i else c.lane d i))

/-- A masked write of an accumulator. -/
def Core.wmask (c : Core) (d m : Nat) (f : Nat → Nat) : Core :=
  c.wset d (laneIx.map (fun i => if (c.mget m).testBit i then f i else c.acc d i))

/-! ## The job of a core -/

/-- The top-level huddle and the leaf job that a core runs. -/
def jobOfCore (s : State) (l : Nat) : Option (Nat × Job) :=
  let h := topOf s.fab.plan (coreOf s l).huddle
  (((hudOf s h).group.find? (fun j => j.huddle == (coreOf s l).huddle && j.kind == 1 && j.cores.contains l))).map (fun j => (h, j))

/-- A job of a group replaced by its leaf. -/
def setJob (s : State) (h : Nat) (j : Job) : State :=
  let r := hudOf s h
  setHud s h { r with group := r.group.map (fun g => if g.huddle = j.huddle then j else g) }

/-- The counter attributes of a core's events (R531). (DEDUCED, assumption 68.) -/
def coreAttrs (s : State) (j : Job) (l : Nat) : Attrs := { jobAttrs s j with master := some (2 * (l / 256)) }

/-! ## What a DMA selector names (R442) -/

/-- What a selector names: none a fault, `some none` the local device, `some (some d)` ring device `d` (R442). (DEDUCED, assumption 62.) -/
def dmaDevice (s : State) (sel : Nat) : Option (Option Nat) :=
  if sel = 0 ∨ sel = ringId s + 1 then some none
  else if sel ≤ 8 then some (some (sel - 1))
  else none

/-- The address sA + IMM12. -/
def Core.ea (c : Core) (a : Nat) (imm : BitVec 12) : Nat := (c.sget a + wrap 32 imm.toInt) % 2 ^ 32

/-! ## The scout (R537–R540) -/

/-- An instruction of this class of this core is one the scout selects (R537). -/
def scoutSelects (s : State) (j : Job) (l cls : Nat) : Bool :=
  fld s Reg.PMC_SCOUT_CTRL 0 0 == 1 && fld s Reg.PMC_SCOUT_PERIOD 23 0 != 0
    && bit (fld s Reg.PMC_SCOUT_FILTER0 31 16) (l / 256) && bit (fld s Reg.PMC_SCOUT_FILTER0 15 0) cls
    && (fld s Reg.PMC_SCOUT_FILTER1 5 0 == 0x3F || fld s Reg.PMC_SCOUT_FILTER1 5 0 == (if j.ctx < 32 then j.ctx else 32))
    && bit (fld s Reg.PMC_SCOUT_FILTER1 9 8) (jobClass s j)

/-- The class of an instruction's word (R210). -/
def classOf (w : BitVec 32) : Nat := (w.extractLsb' 28 4).toNat

/-- The tag of an instruction that a core issues: for a load or store of either kind the local address sA + IMM12, for a GET, PUT or
BLKGET the device address bits [39:8] and whether another device is named (R539). (DESIGN CHOICE, assumption 162.) -/
def scoutTag (s : State) (j : Job) (l : Nat) (w : BitVec 32) : ScoutTag :=
  let c := coreOf s l
  let reg (lo : Nat) := (w.extractLsb' lo 5).toNat
  let dma : Bool := classOf w == 9 && decide ((w.extractLsb' 22 6).toNat ≤ 2)
  { lcn := l, pc := c.pc.toNat, word := w, ctx := if j.ctx < 32 then j.ctx else 32, huddle := j.huddle, whistle := tickNow s,
    dma := dma,
    remote := dma && ((dmaDevice s (c.sget (reg 2))).getD none).isSome,
    addr := if classOf w = 4 ∨ classOf w = 7 then c.ea (reg 12) (w.extractLsb' 0 12)
      else if dma then (c.sget (reg 7) + (c.sget (reg 7 + 1) % 256) * 2 ^ 32) / 256 else 0 }

/-- The instructions that issue in one ACLK cycle: those of different cores at its instant; a core that issues again begins the next
cycle (R538). (DESIGN CHOICE, assumption 162.) -/
def sameCycle (s : State) (l : Nat) : Bool := s.pmc.cycle == s.clk.now / tuAclk s && !s.pmc.issued.contains l

/-- The cores that have issued in the cycle, with this one. -/
def noteIssue (s : State) (l : Nat) : State :=
  { s with pmc := { s.pmc with cycle := s.clk.now / tuAclk s, issued := if sameCycle s l then s.pmc.issued ++ [l] else [l],
                               tagged := sameCycle s l && s.pmc.tagged } }

/-- The instruction that a core issues is tagged once the countdown is used up and no tag is in flight; of the selected instructions
that issue in one cycle the one of the lowest LCN carries the tag (R538). -/
def scoutIssue (s : State) (j : Job) (l : Nat) (w : BitVec 32) : State :=
  let s1 := noteIssue s l
  let on := scoutSelects s j l (classOf w) && s.pmc.armed
  match s.pmc.inFlight with
  | none =>
    if on && decide (s.pmc.countdown ≤ 0) then
      pmcAdd (scoutLoad { s1 with pmc := { s1.pmc with inFlight := some (scoutTag s j l w), tagged := true } }) 0x70 1
    else s1
  | some t =>
    if on && s1.pmc.tagged && decide (l < t.lcn) then
      { s1 with pmc := { s1.pmc with inFlight := some (scoutTag s j l w) } }
    else s1

/-- How far the tagged instruction has come, if it is this core's (R539). -/
def scoutPhase (s : State) (l : Nat) (f : ScoutPhase → ScoutPhase) : State :=
  match s.pmc.inFlight with
  | some t => if t.lcn = l then { s with pmc := { s.pmc with inFlight := some { t with phase := f t.phase } } } else s
  | none => s

/-- The tagged instruction of a core has put its request, or its message, into the queue of a core as entry `n`. -/
def scoutQueued (s : State) (l core n : Nat) : State :=
  scoutPhase s l (fun p => if p = .issued then .queued core n else p)

/-- The oldest request or message in a core's queue is complete (R539). -/
def scoutServed (s : State) (core : Nat) (dma : Bool) : State :=
  match s.pmc.inFlight with
  | some t =>
    if t.dma = dma then scoutPhase s t.lcn (fun p => match p with
      | .queued k n => if k = core then (if n ≤ 1 then .complete else .queued k (n - 1)) else p
      | _ => p)
    else s
  | none => s

/-- An instruction retires: the counters and the scout's countdown (R532, R538); a tagged one whose result is written is complete (R539). -/
def retire (s : State) (j : Job) (l cls : Nat) : State :=
  let s1 := scoutPhase (pmcAdd s 0x20 1 (coreAttrs s j l)) l (fun p => if p = .issued then .complete else p)
  if scoutSelects s1 j l cls then { s1 with pmc := { s1.pmc with countdown := s1.pmc.countdown - 1 } } else s1

/-- The next instruction index. -/
def Core.step (c : Core) : Core := { c with pc := c.pc + 1 }

/-- An instruction that has its effect on the core alone: the core goes on at the next index. -/
def coreNext (s : State) (j : Job) (l cls : Nat) (c : Core) : State := retire (setCore s l c.step) j l cls

/-- An instruction that sets the program counter itself. -/
def coreJump (s : State) (j : Job) (l cls : Nat) (c : Core) (pc : BitVec 13) : State :=
  retire (setCore s l { c with pc := pc }) j l cls

/-- A core executes an instruction: only while it runs a job, has not ended and waits for nothing (a short resource lets
the same instruction issue again). -/
def onCore (s : State) (lcn : BitVec 12) (w : BitVec 32) (f : State → Nat → Job → Core → State) : State :=
  let l := lcn.toNat
  underOld s (fun s => (jobOfCore s l).isSome) (fun s =>
    match jobOfCore s l with
    | none => s
    | some (_, j) =>
      let c := coreOf s l
      if c.active && !c.ended && !coreFenced s l && (c.wait.isNone || c.wait == some .again || c.wait == some .full) then
        f (scoutIssue s j l w) l j { c with wait := none }
      else s)

/-! ## The end of a job by one of its cores -/

/-- The job of a core ends with a status other than OK; its lines are lost (R212, R236, R237, R405). -/
def coreEnds (s : State) (h code : Nat) : State :=
  endGroup s h code 0 0 (groupComplete (hudOf s h)) true

/-- A program fault (R212): the log entry, the event and the job's end. Kinds: 0 encoding, 1 local access, 2 DMA address,
3 misalignment, 4 SEND, 5 remote request not permitted. -/
def progFault (s : State) (l kind : Nat) : State :=
  match jobOfCore s l with
  | none => s
  | some (h, j) =>
    let s1 := logEvent s 0x15 6 FAULT (argN 2 l ++ argN 2 (coreOf s l).pc.toNat ++ arg1 j.ctx ++ arg1 kind)
    coreEnds (slvEvent s1 4) h stFAULT

/-- A read met poison: the report, and the job ends MEM_ERROR (R405). -/
def coreMemError (s : State) (l line : Nat) : State :=
  match jobOfCore s l with
  | none => s
  | some (h, _) => coreEnds (memUncorr s line (2 * (l / 256))) h stMEMERROR

/-! ## Local memory (R213, R215) -/

/-- A range lies in the local memory map for a read or a write (R212, R213). (DEDUCED, assumption 63.) -/
def localOk (a n : Nat) (wr : Bool) : Bool := decide (a + n ≤ if wr then 0x4000 else 0x4040)

/-- The core with bytes stored in local memory. -/
def Core.store (c : Core) (a : Nat) (d : List Byte) : Core := { c with loc := Mem.write 0 c.loc a d }

/-- A load or store whose range and alignment are checked first (R212). -/
def localAccess (s : State) (l a n align : Nat) (wr : Bool) (f : State) : State :=
  if localOk a n wr = false then progFault s l 1 else if a % align ≠ 0 then progFault s l 3 else f

/-! ## Units (R220, R225) -/

/-- The fixed sequence of a core: the local numbers of its units (R220). (DEDUCED, assumption 61.) -/
def unitSeq (j : Job) (e : Nat) : List Nat :=
  let u := j.rowN
  let n := j.cores.length
  if n = 0 then []
  else if j.order = 0 then upTo (e * u / n) ((e + 1) * u / n)
  else if j.chunk = 0 then []
  else
    ((List.range (ceilDiv u j.chunk)).filter (fun k => k % n == e)).flatMap
      (fun k => upTo (k * j.chunk) (min u ((k + 1) * j.chunk)))

/-- One element of a reduction (R223, R224). -/
def redWord (op a b : Nat) : Nat :=
  if op = 0 then addF32 a b
  else if op = 1 then wrap 32 (satAdd32 (sgn 32 a) (sgn 32 b)).1
  else if op = 2 then pickF32 true a b
  else if op = 3 then pickF32 false a b
  else if op = 4 then wrap 32 (max (sgn 32 a) (sgn 32 b))
  else wrap 32 (min (sgn 32 a) (sgn 32 b))

/-- Two contributions combined, element by element. -/
def redList (op : Nat) (a b : List Nat) : List Nat := (a.zip b).map (fun p => redWord op p.1 p.2)

/-- The operation of a job's tree. -/
def treeOp (s : State) (j : Job) : Nat := ((s.fab.plan.trees[j.treeIx]?).map (·.op)).getD 0

/-- The unit in work is complete: staged words join the partial (R225). -/
def closeUnit (s : State) (l : Nat) (j : Job) (c : Core) : State × Core :=
  let c1 := { c with partialWords := c.staged.foldl (redList (treeOp s j)) c.partialWords, staged := [] }
  if c.inUnit then
    let h := topOf s.fab.plan j.huddle
    let j1 := match jobOfCore s l with | some (_, x) => x | none => j
    (pmcAdd (setJob s h { j1 with done := j1.done + 1 }) 0x23 1 (coreAttrs s j l),
      { c1 with inUnit := false, unitsDone := c1.unitsDone + 1 })
  else (s, c1)

/-- UNEXT (R220): the next unit of the job in sD, or −1. The number is that of the whole job's unit. -/
def unitNext (s : State) (l : Nat) (j : Job) (c : Core) (d : Nat) : State :=
  let r := closeUnit s l j c
  match (unitSeq j (enumOf j l))[r.2.taken]? with
  | some u =>
    coreNext r.1 j l 0xC ({ r.2 with taken := r.2.taken + 1, inUnit := true, unit := u, remoteN := 0 }.sset d (j.rowLo + u))
  | none => coreNext r.1 j l 0xC (r.2.sset d 0xFFFFFFFF)

/-- END (R220). -/
def coreEnd (s : State) (l : Nat) (j : Job) (c : Core) : State :=
  let r := closeUnit s l j c
  retire (setCore r.1 l { r.2 with ended := true }) j l 0

/-! ## Waits (R230, R231, R233) -/

/-- Messages of a core that have not been delivered. -/
def inTransit (s : State) (l : Nat) : Bool :=
  (List.range 16).any (fun k => (coreOf s (l / 16 * 16 + k)).inbound.any (fun m => m.1 == l % 16))

/-- A core that waited goes on: its instruction retires. -/
def wake (s : State) (l cls : Nat) (c : Core) : State :=
  match jobOfCore s l with
  | none => s
  | some (_, j) => coreNext s j l cls { c with wait := none }

/-- The wait of a core ends if what it waits for is complete. -/
def checkWait (s : State) (l : Nat) : State :=
  let c := coreOf s l
  match c.wait with
  | some .dma => if c.dma.isEmpty then wake s l 9 c else s
  | some .fence => if c.dma.isEmpty && !inTransit s l then wake s l 0 c else s
  | some (.recv d a) =>
    match c.mail with
    | [] => s
    | m :: rest => wake s l 0xA (({ c with mail := rest }.store a m.2).sset d m.1)
  | _ => s

/-- RECV (R230): the oldest message to local sA, the sender to sD; stalls while the mailbox is empty. -/
def coreRecv (s : State) (l : Nat) (j : Job) (c : Core) (d a : Nat) : State :=
  if localOk (c.sget a) 16 true = false then progFault s l 1
  else
    match c.mail with
    | m :: rest => coreNext s j l 0xA (({ c with mail := rest }.store (c.sget a) m.2).sset d m.1)
    | [] => setCore s l { c with wait := some (.recv d (c.sget a)) }

/-- SEND (R230): 16 bytes to the mailbox of logical core sB of the squad; a full mailbox stalls the sender. -/
def coreSend (s : State) (l : Nat) (j : Job) (c : Core) (a b : Nat) : State :=
  let k := c.sget b
  let dest := l / 16 * 16 + k
  let t := coreOf s dest
  if localOk (c.sget a) 16 false = false then progFault s l 1
  else if 16 ≤ k ∨ t.active = false then progFault s l 4
  else if 16 ≤ t.mail.length + t.inbound.length then setCore s l { c with wait := some .full }
  else
    let msg := localRead s j l c (c.sget a) 16
    let s1 := setCore s l c
    let t1 := coreOf s1 dest
    let s2 := setCore s1 dest { t1 with inbound := t1.inbound ++ [(l % 16, msg)] }
    coreNext (scoutQueued s2 l dest (t1.inbound.length + 1)) j l 0xA (coreOf s2 l)

/-- BAR (R230): the cores of the squad that take part in the job go on together. -/
def coreBar (s : State) (l : Nat) (j : Job) (c : Core) : State :=
  let s1 := setCore s l { c with wait := some .bar }
  let mates := j.cores.filter (fun x => x / 16 == l / 16)
  if mates.all (fun x => (coreOf s1 x).wait == some .bar) then mates.foldl (fun s x => wake s x 0xA (coreOf s x)) s1
  else s1

/-- MESSAGE_DELIVERY: the oldest message on its way to a core enters its mailbox; a RECV that waits takes it, and a FENCE
of the sender may complete (R208, R230). -/
def messageDelivery (s : State) (l : Nat) : State :=
  let c := coreOf s l
  match c.inbound with
  | [] => s
  | m :: rest =>
    let s1 := scoutServed (setCore s l { c with inbound := rest, mail := c.mail ++ [m] }) l false
    checkWait (checkWait s1 l) (l / 16 * 16 + m.1)

/-- MESSAGE_DELIVERY. -/
def execMessageDelivery (lcn : BitVec 12) (s : State) : Out :=
  .next (underOld s (fun s => (jobOfCore s lcn.toNat).isSome) (fun s => messageDelivery s lcn.toNat))

/-! ## Range Guard (R172–R176) -/

/-- Range Guard acts on an output tensor of a job (R173). -/
def guarded (s : State) (img : Map Word) (t : Tensor) : Bool :=
  t.guard && decide (t.fmt ≤ 5) && ifld s img (Reg.HUD_GUARD (topOf s.fab.plan t.producer)) 0 0 == 1

/-- The key of a tensor's sequence in one tick. (DESIGN CHOICE, assumption 66.) -/
def guardKey (tick tensor : Nat) : Nat := tick * 4096 + tensor

/-- The sequence of a tensor in one tick. -/
def guardOf (s : State) (tick tensor : Nat) : Guard := Map.getD s.slv.guards (guardKey tick tensor) {}

/-- The shift of tile `t` of a guarded tensor, once the statistics of the tile before it are final (R174). -/
def guardOff (s : State) (tick tensor t : Nat) : Option Int := (guardOf s tick tensor).offs[t]?

/-- The statistics of tile `t` are final: the offset steps, or an excursion is reported once (R174). The answer holds the
GUARD and EXCURSION bits of the record, from bit 0, of the step that the tile's statistics call for (R172); a tile whose statistics
are final already moves the offset no more. -/
def guardStep (s : State) (j : Job) (tensor t sat uflow n : Nat) : State × Nat :=
  let g := guardOf s j.tick tensor
  let off := (g.offs[t]?).getD ((g.offs.getLast?).getD 0)
  let up : Bool := decide (n ≤ sat * 64)
  let down : Bool := !up && decide (n < uflow * 2)
  let exc : Bool := (up && decide (4 ≤ off)) || (down && decide (off ≤ -4))
  let off1 := if exc then off else if up then off + 1 else if down then off - 1 else off
  let flags := 1 + (if up && !exc then 2 else 0) + (if down && !exc then 4 else 0) + (if exc then 8 else 0)
  if g.offs.length ≠ t + 1 then (s, flags)
  else
    let s1 := if exc && !g.logged then
        logEvent s 0x12 (jobBlock j) WARN (arg1 j.ctx ++ arg1 j.huddle ++ argN 2 tensor ++ argN 4 t
          ++ arg1 (if up then 1 else 255) ++ arg1 (wrap 8 off) ++ argN 4 j.tick) true
      else s
    let g1 : Guard := { offs := g.offs ++ [off1], logged := g.logged || exc }
    ({ s1 with slv := { s1.slv with guards := Map.set s1.slv.guards (guardKey j.tick tensor) g1 } }, flags)

/-- A statistics record (R172). -/
def statRecord (sat uflow elems : Nat) (shift : Int) (flags tag : Nat) : List Byte :=
  leBytes 2 (min sat 65535) ++ leBytes 2 (min uflow 65535) ++ leBytes 2 (min elems 65535) ++ leBytes 1 (wrap 8 shift)
    ++ leBytes 1 (flags % 16 + (tag % 16) * 16)

/-- GSHIFT answers on a core. -/
def gshiftDone (s : State) (l : Nat) (j : Job) (c : Core) (d tensor t : Nat) (shift off : Int) : State :=
  coreNext s j l 0 ({ c with wait := none, gtensor := some (tensor, t, shift, off) }.sset d (wrap 32 (shift + off)))

/-- GSHIFT (R233): stalls until the statistics of the tile before are final. A tensor that no plan declares has no stated
shift: a free value. -/
def coreGshift (s : State) (l : Nat) (j : Job) (c : Core) (d a b : Nat) : State :=
  let tensor := c.sget a
  let t := c.sget b
  match s.fab.plan.tensors[tensor]? with
  | none =>
    let v := freeValue s
    coreNext (drawFree s) j l 0 ({ c with gtensor := none }.sset d v)
  | some x =>
    if guarded s j.image x then
      match guardOff s j.tick tensor t with
      | some o => gshiftDone s l j c d tensor t x.shift o
      | none => setCore s l { c with wait := some (.gshift d tensor t) }
    else gshiftDone s l j c d tensor t x.shift 0

/-- Cores whose GSHIFT waits for statistics that are final go on. -/
def wakeGuards (s : State) : State :=
  s.slv.cores.foldl (fun s p =>
    let c := coreOf s p.1
    match c.wait, jobOfCore s p.1 with
    | some (.gshift d tensor t), some (_, j) =>
      match guardOff s j.tick tensor t, s.fab.plan.tensors[tensor]? with
      | some o, some x => gshiftDone s p.1 j c d tensor t x.shift o
      | _, _ => s
    | _, _ => s) s

/-- STST (R209, R233): the record of tile sA at STATS + sA × 8, the counters cleared, the tile's statistics final. Without
a GSHIFT of the job the spec states no SHIFT: a free value. -/
def coreStst (s : State) (l : Nat) (j : Job) (c : Core) (a : Nat) : State :=
  let t := c.sget a
  let stats := fieldLE j.bytes 0x28 8
  let addr := stats + t * 8
  if stats ≠ 0 ∧ (2 ^ 40 ≤ addr + 8 ∨ rangeOk s addr 8 true = false) then progFault s l 2
  else
    let x := match c.gtensor with | some g => s.fab.plan.tensors[g.1]? | none => none
    let r : State × Nat := match c.gtensor, x with
      | some g, some y => if guarded s j.image y then guardStep s j g.1 t c.sat c.uflow c.elems else (s, 0)
      | _, _ => (s, 0)
    let shift : Int := match c.gtensor, x with
      | some g, some y => if y.gran = 0 then g.2.2.1 + g.2.2.2 else g.2.2.2
      | _, _ => sgn 8 (freeValue s)
    let s1 := if x.isNone then drawFree r.1 else r.1
    let s2 := if stats = 0 then s1 else jobWrite s1 addr (statRecord c.sat c.uflow c.elems shift r.2 (t % 16))
    wakeGuards (coreNext s2 j l 0 { c with sat := 0, uflow := 0, elems := 0 })

/-! ## DMA (R207, R212, R232, R442, R443) -/

/-- The bytes of a block after its header's FMT and COUNT (R177), padded to 64 B. -/
def blockBytes (h : List Byte) : Nat :=
  let fmt := fieldLE h 1 1
  let n := fieldLE h 8 4
  let p := if fmt = 0xE then n else if fmt = 0xF then 4 * n else if fmt ≤ 1 then ceilDiv n 2 else n * (fmtBits fmt / 8)
  ceilDiv (16 + p) 64 * 64

/-- Join epoch and receive-slot places of a context (R366, R377). -/
def rxPlaces (s : State) (c : Nat) : Nat × Nat :=
  match Map.get s.sch.ctxs c with
  | some x => (x.epoch, x.record.rx4k * 64)
  | none => (0, 0)

/-- The address of an entry of a context's receive slot: the first RX_4K × 4 KiB of the share's lowest bank hold one reply per
64 B (R366, R377). -/
def rxAddr (s : State) (c entry : Nat) : Option Nat :=
  match Map.get s.sch.ctxs c with
  | some x => (x.banks.head?).map (fun b => b * 0x40000 + 64 * entry)
  | none => none

/-- A reply enters its entry of a receive slot: its data is stored there (R377, R444). -/
def rxReply (s : State) (ctx entry status : Nat) (data : List Byte) : State :=
  let f (y : RxEntry) : RxEntry := if y.ctx = ctx ∧ y.entry = entry then { y with reply := some status } else y
  let s1 := match rxAddr s ctx entry with
    | some a => if data.isEmpty then s else devWrite s a data
    | none => s
  { s1 with lys := { s1.lys with rx := s1.lys.rx.map f } }

/-- The data of an entry, as its slot holds it. -/
def rxData (s : State) (ctx entry : Nat) : List Byte :=
  match rxAddr s ctx entry with
  | some a => devRead s a 64
  | none => []

/-- The frames of a remote request are sent one by one: a key met again finds its entry and is not sent again (R378,
R443). The answer holds the state, whether every frame has its entry, and the entries' numbers. -/
def remoteFrames (s : State) (l : Nat) (j : Job) (write : Bool) (dev loc unit : Nat) :
    List (Nat × Nat × List Byte) → State × Bool × List Nat
  | [] => (s, true, [])
  | (n, addr, data) :: rest =>
    let e := enumOf j l
    let (join, places) := rxPlaces s j.ctx
    match s.lys.rx.find? (fun x => x.ctx == j.ctx && x.huddle == j.huddle && x.e == e && x.unit == unit && x.n == n) with
    | some x =>
      let r := remoteFrames s l j write dev (loc + 64) unit rest
      (r.1, r.2.1, x.entry :: r.2.2)
    | none =>
      match rxFree s j.ctx places with
      | none => (s, false, [])
      | some i =>
        let x : RxEntry := { ctx := j.ctx, entry := i, join := join, huddle := j.huddle, e := e, unit := unit, n := n,
                             lcn := l, write := write, device := dev, loc := loc }
        let f : LFrame := { typ := if write then 6 else 5, dst := dev, src := ringId s, ctx := j.ctx, hops := 0,
                            info := i % 4096 + (join % 65536) * 4096,
                            payload := leBytes 8 addr ++ List.replicate 24 0 ++ slice data 0 32,
                            input := 2 * (l / 256), tag := j.ctx }
        let s1 := { s with lys := { s.lys with rx := s.lys.rx ++ [x] } }
        let s2 := match routeTo s1 dev with
          | some k => queueFrame s1 k f
          | none => event (rxReply s1 j.ctx i 2 []) Reg.LYS_EVENTS 6
        let r := remoteFrames s2 l j write dev (loc + 64) unit rest
        (r.1, r.2.1, i :: r.2.2)

/-- A remote GET, PUT or BLKGET issues. -/
def remoteIssue (s : State) (l : Nat) (j : Job) (c : Core) (kind dev loc addr size tile : Nat) : State :=
  let step := if kind = 1 then 32 else 64
  let n := size / step
  if j.ctx ≥ 32 ∨ (rxPlaces s j.ctx).2 = 0 ∨ size % step ≠ 0 ∨ 4096 < size then progFault s l 5
  else
    let fs := (List.range n).map (fun i => (c.remoteN + i, addr + step * i,
      if kind = 1 then localRead s j l c (loc + 32 * i) 32 else []))
    let r := remoteFrames s l j (kind = 1) dev loc c.unit fs
    if r.2.1 then
      let q : Dma := { kind := kind, loc := loc, addr := addr, size := size, tile := tile, device := some dev,
                       reqs := r.2.2 }
      coreNext (scoutQueued r.1 l l (c.dma.length + 1)) j l 9 { c with remoteN := c.remoteN + n, dma := c.dma ++ [q] }
    else setCore r.1 l { c with wait := some .again }

/-- GET, PUT and BLKGET issue (0, 1, 2): checks of R212 and R552, four requests in flight at most. (DESIGN CHOICE, assumption 60.) -/
def dmaIssue (s : State) (l : Nat) (j : Job) (c : Core) (kind d a b sel : Nat) : State :=
  let loc := c.sget a
  let addr := c.sget b + (c.sget (b + 1) % 256) * 2 ^ 32
  if b = 31 then progFault s l 0
  else
    match dmaDevice s (c.sget sel) with
    | none => progFault s l 5
    | some dev =>
      let size := if kind = 2 then
          (if dev.isSome then 64 else blockBytes (unitRead s addr 16))
        else c.sget d
      if localOk loc size (kind != 1) = false then progFault s l 1
      else if addr % 64 ≠ 0 ∨ (dev.isNone ∧ (4096 < size ∨ rangeOk s addr size (kind == 1) = false)) then progFault s l 2
      else if 4 ≤ c.dma.length then setCore s l { c with wait := some .again }
      else
        match dev with
        | some k => remoteIssue s l j c kind k loc addr size (c.sget d)
        | none =>
          let q : Dma := { kind := kind, loc := loc, addr := addr, size := size, tile := c.sget d }
          coreNext (scoutQueued s l l (c.dma.length + 1)) j l 9 { c with dma := c.dma ++ [q] }

/-- The data and scale tags latched for a tile, the expected value where one is not yet fetched (R232). -/
def latchedTags (c : Core) (tensor tile : Nat) : Nat × Nat :=
  match c.tags with
  | some (t, i, d, k) => if t = tensor ∧ i = tile then (d.getD (tile % 16), k.getD (tile % 16)) else (tile % 16, tile % 16)
  | none => (tile % 16, tile % 16)

/-- A block has arrived: it is stored, its tag latched and compared; a mismatch stops the job (R178, R232). -/
def blockArrives (s : State) (l : Nat) (c : Core) (q : Dma) (data : List Byte) : State :=
  let c1 := c.store q.loc data
  let fmt := fieldLE data 1 1
  let tensor := fieldLE data 2 2
  let tag := fieldLE data 0 1 % 16
  let old := match c.tags with
    | some (t, i, d, k) => if t = tensor ∧ i = q.tile then (d, k) else (none, none)
    | none => (none, none)
  let c2 := if fmt = 0xE then { c1 with tags := some (tensor, q.tile, old.1, some tag) }
    else if fmt = 0xF then c1
    else { c1 with tags := some (tensor, q.tile, some tag, old.2) }
  let s1 := setCore s l c2
  if tag = q.tile % 16 then checkWait s1 l
  else
    match jobOfCore s l with
    | none => s1
    | some (h, j) =>
      let (dt, st) := latchedTags c2 tensor q.tile
      let weight := ((s.fab.plan.tensors[tensor]?).map (·.weight)).getD false
      let s2 := skewReport s1 j tensor q.tile dt st (b2n weight) (if fmt = 0xF then some tag else none)
      endGroup s2 h stSKEW dt st q.tile true

/-- A completed remote request: its replies are consumed (R443, R444). -/
def remoteDone (s : State) (l : Nat) (j : Job) (c : Core) (q : Dma) (rest : List Dma) : State :=
  let mine := s.lys.rx.filter (fun x => x.ctx == j.ctx && q.reqs.contains x.entry)
  if mine.any (fun x => x.reply.isNone) ∨ mine.length ≠ q.reqs.length then s
  else
    match mine.find? (fun x => x.reply.getD 0 != 0) with
    | some x =>
      let s1 := logEvent s 0x71 14 FAULT (arg1 j.ctx ++ arg1 (q.device.getD 0) ++ arg1 (x.reply.getD 0) ++ argN 2 x.entry)
      coreEnds (slvEvent s1 4) (topOf s.fab.plan j.huddle) stFAULT
    | none =>
      let data := q.reqs.flatMap (rxData s j.ctx)
      let full := if q.kind = 2 then blockBytes data else q.size
      if q.kind = 2 ∧ q.size < full then
        if localOk q.loc full true = false then progFault s l 1
        else if 4096 < full then progFault s l 5
        else
          let fs := (List.range (full / 64 - 1)).map (fun i => (c.remoteN + i, q.addr + 64 * (i + 1), ([] : List Byte)))
          let r := remoteFrames s l j false (q.device.getD 0) (q.loc + 64) c.unit fs
          if r.2.1 then
            let q1 : Dma := { q with size := full, reqs := q.reqs ++ r.2.2 }
            setCore r.1 l { c with remoteN := c.remoteN + (full / 64 - 1), dma := q1 :: rest }
          else r.1
      else
        let s1 := scoutServed (rxDrop s (fun x => x.ctx == j.ctx && q.reqs.contains x.entry)) l true
        let c1 := { c with dma := rest }
        if q.kind = 1 then checkWait (setCore s1 l c1) l
        else if q.kind = 0 then checkWait (setCore s1 l (c1.store q.loc data)) l
        else blockArrives s1 l c1 q data

/-- The oldest DMA request of a core completes (R207); a range that a plan switch has put outside ends the job (R212, R390). -/
def dmaComplete (s : State) (l : Nat) : State :=
  let c := coreOf s l
  match c.dma, jobOfCore s l with
  | q :: rest, some (_, j) =>
    if q.device.isSome then remoteDone s l j c q rest
    else if rangeOk s q.addr q.size (q.kind == 1) = false then progFault s l 2
    else if q.kind = 1 then
      checkWait (jobWrite (setCore (scoutServed s l true) l { c with dma := rest }) q.addr (localRead s j l c q.loc q.size)) l
    else if poisoned s q.addr q.size then
      match (linesOf q.addr q.size).find? (fun x => s.mem.poison.contains x) with
      | some line => coreMemError s l line
      | none => s
    else
      let s1 := scoutServed s l true
      if q.kind = 0 then checkWait (setCore s1 l ({ c with dma := rest }.store q.loc (devRead s q.addr q.size))) l
      else blockArrives s1 l { c with dma := rest } q (devRead s q.addr q.size)
  | _, _ => s

/-- DMA_COMPLETE. -/
def execDmaComplete (lcn : BitVec 12) (s : State) : Out :=
  .next (underOld s (fun s => (jobOfCore s lcn.toNat).isSome) (fun s => dmaComplete s lcn.toNat))

/-- UNDEFINED_ENCODING (R212): a word that spells no instruction. -/
def execUndefinedEncoding (lcn : BitVec 12) (word : BitVec 32) (s : State) : Out :=
  .next (if (sliverDecode lcn word).isSome then s
    else onCore s lcn word (fun s l _ _ => progFault s l 0))

/-- SCOUT_RECORD (R539, R540): the record of the tagged instruction, once it is complete or discarded. -/
def execScoutRecord (rec : ScoutFacts) (s : State) : Out :=
  .next (match s.pmc.inFlight with
    | none => s
    | some t =>
      let gone : Bool := t.phase == .discarded
      if t.phase ≠ .complete ∧ gone = false then s
      else
        let k := reg s Reg.PMC_SCOUT_COUNT
        let flags := b2n t.dma + 2 * b2n t.remote + 4 * b2n rec.operandStall + 8 * b2n gone
        let d := leBytes 4 k ++ leBytes 2 t.lcn ++ leBytes 2 t.pc ++ leBytes 4 t.word.toNat ++ leBytes 1 t.ctx
          ++ leBytes 1 t.huddle ++ leBytes 2 flags ++ leBytes 4 t.whistle ++ leBytes 4 rec.cycle.toNat
          ++ leBytes 2 rec.stall.toNat ++ leBytes 2 (if gone then 0 else rec.latency.toNat) ++ leBytes 4 t.addr
        let s1 := statWrite (countReg s Reg.PMC_SCOUT_COUNT 1) (0x961000 + (k % 256) * 32) d
        event { s1 with pmc := { s1.pmc with inFlight := none } } Reg.PMC_EVENTS 1)

end Sys2Proof.Machine
end

