-- ==== Sys2Proof/Machine/Matrix.lean ====
section
/-! DEFINITION. The Matrix Engines (R155–R206): job descriptors and their checks, tile blocks, the arithmetic of
convolution and pooling, the epilogue, index of maximum, statistics, and the completion of one output tile. -/

namespace Sys2Proof.Machine

/-! ## The descriptor (R192) -/

/-- The operands of a Matrix Engine job. -/
structure MeJob where
  op : Nat
  relu : Bool
  argmax : Bool
  kh : Nat
  kw : Nat
  sy : Nat
  sx : Nat
  pt : Nat
  pb : Nat
  pl : Nat
  pr : Nat
  inH : Nat
  inW : Nat
  cin : Nat
  cout : Nat
  groups : Nat
  tileH : Nat
  inTileH : Nat
  inT : Nat
  wT : Nat
  outT : Nat
  budget : Nat
  inStride : Nat
  outStride : Nat
  wStride : Nat
  inData : Nat
  inScale : Nat
  wData : Nat
  wScale : Nat
  wSum : Nat
  bias : Nat
  outData : Nat
  outScale : Nat
  stats : Nat
  amax : Nat
  deriving DecidableEq, Repr

/-- A descriptor read from its bytes. -/
def parseMe (b : List Byte) : MeJob :=
  let pad := fieldLE b 6 2
  { op := fieldLE b 0 1, relu := bit (fieldLE b 1 1) 0, argmax := bit (fieldLE b 1 1) 1,
    kh := fieldLE b 2 1, kw := fieldLE b 3 1, sy := fieldLE b 4 1, sx := fieldLE b 5 1,
    pt := bits pad 2 0, pb := bits pad 5 3, pl := bits pad 8 6, pr := bits pad 11 9,
    inH := fieldLE b 8 2, inW := fieldLE b 0xA 2, cin := fieldLE b 0xC 2, cout := fieldLE b 0xE 2,
    groups := fieldLE b 0x10 2, tileH := fieldLE b 0x12 2, inTileH := fieldLE b 0x14 2,
    inT := fieldLE b 0x18 2, wT := fieldLE b 0x1A 2, outT := fieldLE b 0x1C 2, budget := fieldLE b 0x20 4,
    inStride := fieldLE b 0x24 2, outStride := fieldLE b 0x26 2, wStride := fieldLE b 0x28 2,
    inData := fieldLE b 0x38 8, inScale := fieldLE b 0x40 8, wData := fieldLE b 0x48 8, wScale := fieldLE b 0x50 8,
    wSum := fieldLE b 0x58 8, bias := fieldLE b 0x60 8, outData := fieldLE b 0x68 8, outScale := fieldLE b 0x70 8,
    stats := fieldLE b 0x78 8, amax := fieldLE b 0x80 8 }

/-- Output rows and columns (R192), as integers: below 1 where no output exists. -/
def MeJob.ohI (d : MeJob) : Int := (((d.inH + d.pt + d.pb : Nat) : Int) - d.kh) / (max 1 d.sy : Nat) + 1
def MeJob.owI (d : MeJob) : Int := (((d.inW + d.pl + d.pr : Nat) : Int) - d.kw) / (max 1 d.sx : Nat) + 1
def MeJob.oh (d : MeJob) : Nat := d.ohI.toNat
def MeJob.ow (d : MeJob) : Nat := d.owI.toNat

/-- Column blocks and bands (R183, R187). -/
def MeJob.ncb (d : MeJob) : Nat := ceilDiv d.cout 128
def MeJob.bands (d : MeJob) : Nat := ceilDiv d.oh d.tileH
/-- Input-channel blocks. -/
def MeJob.ncbIn (d : MeJob) : Nat := ceilDiv d.cin 128
/-- Channels of a group. -/
def MeJob.cinG (d : MeJob) : Nat := d.cin / max 1 d.groups
def MeJob.coutG (d : MeJob) : Nat := d.cout / max 1 d.groups

/-- A reserved bit or byte is not zero (R193, order 1). -/
def meReserved (b : List Byte) : Bool :=
  fieldLE b 1 1 / 4 != 0 || fieldLE b 6 2 / 4096 != 0 || fieldLE b 0x23 1 != 0 || fieldLE b 0x2A 2 / 2048 != 0
    || !allZero (slice b 0x16 2) || !allZero (slice b 0x1E 2) || !allZero (slice b 0x32 6)
    || [0x38, 0x40, 0x48, 0x50, 0x58, 0x60, 0x68, 0x70, 0x78, 0x80, 0x88].any (fun o => fieldLE b (o + 5) 3 != 0)

/-- An address is 64-byte aligned and its first line lies in Court and LPDDR6. -/
def lineAddrOk (s : State) (a : Nat) (wr : Bool) : Bool := a % 64 == 0 && rangeOk s a 64 wr

/-- The addresses of a descriptor that break R193, order 3. One that reads 0 and that the job does not use names nothing.
(DEDUCED, assumption 118.) -/
def meAddrBad (s : State) (d : MeJob) (status : Nat) : Bool :=
  let rd := if d.op = 1 then [d.inData, d.inScale, d.wData, d.wScale] else if d.op = 4 then [d.inData, d.inScale, d.wData]
    else [d.inData, d.inScale]
  let wr := (if d.op = 4 then [d.outData, status] else [d.outData, d.outScale, d.stats, status])
    ++ (if d.argmax then [d.amax] else [])
  let orNone := [(d.wData, false), (d.wScale, false), (d.wSum, false), (d.bias, false), (d.outScale, true), (d.stats, true),
    (d.amax, true)]
  rd.any (fun a => !lineAddrOk s a false) || wr.any (fun a => !lineAddrOk s a true)
    || orNone.any (fun p => p.1 != 0 && !lineAddrOk s p.1 p.2)

/-- A field outside its range (R193, order 3). -/
def meRangeBad (d : MeJob) (b : List Byte) : Bool :=
  let cfg := fieldLE b 0x2A 2
  d.budget % 2 ^ 24 == 0 || decide (7 < d.kh) || decide (7 < d.kw) || d.sy == 0 || decide (4 < d.sy) || d.sx == 0
    || decide (4 < d.sx) || decide (d.kh ≤ d.pt) || decide (d.kh ≤ d.pb) || decide (d.kw ≤ d.pl) || decide (d.kw ≤ d.pr)
    || [d.inH, d.inW, d.cin, d.cout].any (fun x => decide (8192 < x)) || decide (d.ohI < 1) || decide (d.owI < 1)
    || decide (65535 < min d.tileH d.oh * d.ow * min 128 d.cout)
    || decide (8 < bits cfg 3 0) || decide (64 < bits cfg 10 4) || decide (64 < fieldLE b 0x31 1)

/-- A format is one of INT8 and UINT8, INT4 and UINT4, or FP8. -/
def isInt8 (f : Nat) : Bool := f == 2 || f == 3
def isInt4 (f : Nat) : Bool := f == 0 || f == 1
def isFp8 (f : Nat) : Bool := f == 4 || f == 5

/-- The pairings that the array serves (R164). -/
def pairOk (dq w a : Nat) : Bool :=
  if dq = 0 then (isInt8 w && isInt8 a) || (isInt4 w && isInt4 a) || (isFp8 w && isFp8 a)
  else if dq = 1 then isInt4 w && (isInt8 a || isFp8 a || a == 6)
  else decide (w ≤ 6) && decide (a ≤ 6)

/-- Rows D and cycles per pass (R182). -/
def arrayMode (dq w a : Nat) : Nat × Nat :=
  if dq = 0 then (if isInt4 w then 256 else 128, 1) else if dq = 1 then (128, if a = 6 then 2 else 1) else (128, 4)

/-- The input rows of each output band lie within one input band (R189). -/
def bandsOk (d : MeJob) : Bool :=
  (List.range d.bands).all (fun b =>
    let y0 := b * d.tileH
    let y1 := min d.oh (y0 + d.tileH) - 1
    let lo := y0 * d.sy - d.pt
    let hi := min (d.inH - 1) (y1 * d.sy + d.kh - 1 - d.pt)
    lo / max 1 d.inTileH == hi / max 1 d.inTileH)

/-- Dimensions of a tensor record. -/
def dimsAre (t : Tensor) (l : List Nat) : Bool := t.dims == l

/-- The tensor checks of R193, order 4. -/
def meTensorBad (p : Plan) (d : MeJob) : Bool :=
  match p.tensors[d.inT]?, p.tensors[d.outT]? with
  | some i, some o =>
    !dimsAre i [d.cin, d.inW, d.inH, 1] || !dimsAre o [d.cout, d.ow, d.oh, 1] || decide (6 < o.fmt) || decide (6 < i.fmt)
      || (d.argmax && !(decide (2 ≤ d.cout) && decide (d.cout ≤ 128) && decide (o.fmt ≤ 3) && o.gran == 0))
      || (if d.op = 1 then
          d.cin % d.groups != 0 || d.cout % d.groups != 0 || (128 % d.coutG != 0 && d.coutG % 128 != 0)
            || i.gran != 0 || (i.guard && (decide (128 < d.cin) || !bandsOk d))
            || (match p.tensors[d.wT]? with
                | some w => !dimsAre w [d.kw, d.kh, d.cinG, d.cout] || !pairOk w.dq w.fmt i.fmt
                | none => true)
        else d.wT != 0xFFFF || d.cin != d.cout)
  | _, _ => true

/-- Input channels of a column block and the local SRAM need (R183, R200). -/
def MeJob.groupsPerBlock (d : MeJob) : Nat := min d.groups (max 1 (128 / max 1 d.coutG))
def MeJob.cbIn (d : MeJob) : Nat := d.groupsPerBlock * d.cinG

/-- The groups of column block `cb`, fewer than G_b in the last block of some jobs, and the block's input channels.
(DEDUCED, assumption 117.) -/
def MeJob.blockGroups (d : MeJob) (cb : Nat) : Nat := max 1 (min d.groupsPerBlock (d.groups - 128 * cb / max 1 d.coutG))
def MeJob.blockIn (d : MeJob) (cb : Nat) : Nat := d.blockGroups cb * d.cinG
def up4k (bits8 : Nat) : Nat := ceilDiv (ceilDiv bits8 8) 4096 * 4096
def meSramNeed (p : Plan) (d : MeJob) : Nat :=
  let bi := ((p.tensors[d.inT]?).map (fun t => fmtBits t.fmt)).getD 8
  let lb := up4k ((d.kh + d.sy) * (d.inW + d.pl + d.pr) * d.cin * bi)
  if d.op = 1 then
    let bw := ((p.tensors[d.wT]?).map (fun t => fmtBits t.fmt)).getD 8
    lb + 2 * up4k (d.kh * d.kw * d.cbIn * 128 * bw) + 65536
  else lb + 65536

/-- The checks of R193 in order: the status of the first that fails. `leaves` are the leaves that take the entry. -/
def meCheck (s : State) (leaves : List Huddle) (b : List Byte) : Option Nat :=
  let d := parseMe b
  let p := s.fab.plan
  if d.op = 0 ∨ 4 < d.op ∨ meReserved b = true ∨ leaves.isEmpty = true ∨ leaves.any (fun h => (enginesOf s h).isEmpty) = true
  then some stFORMAT
  else if [d.kh, d.kw, d.inH, d.inW, d.cin, d.cout, d.tileH, d.inTileH].contains 0 ∨ (d.op = 1 ∧ d.groups = 0) then some stEMPTY
  else if meRangeBad d b ∨ meAddrBad s d (fieldLE b 0x88 8) then some stRANGE
  else if d.op = 4 ∨ meTensorBad p d = true then some stFORMAT
  else if leaves.any (fun h => decide (h.meSram * 65536 < meSramNeed p d)) then some stNOSRAM
  else none

/-! ## Starting a job -/

/-- The Draw input of the units of a leaf that read for a job (R383): its first engine, or its first team's port. -/
def readerOf (h : Huddle) (kind : Nat) : Nat :=
  if kind = 0 then 32 + ((setPositions 16 h.engineMask).head?).getD 0 else 2 * (h.squadFirst / 16)

/-- A job of the entry taken ends before it runs, with a status and no output, a decision point. (DEDUCED, assumption 50.) -/
def endAtStart (s : State) (h : Nat) (j : Job) (code : Nat) (lose : Bool) : State :=
  let r := hudOf s h
  let note := if r.takenUps || r.isRerun then [] else [(j.tick, j.desc, j.leaves, j.epoch, code)]
  let s0 := setHud s h { r with taken := none, isRerun := false, takenUps := false, entries := r.entries ++ note }
  let s1 := if r.takenUps then upsEnded s0 h false else s0
  let s2 := if j.bytes.isEmpty then s1 else jobStatus s1 j code 0 0 0
  decisionPoint (if lose then loseLines s2 j else s2) h

/-- A context starts a job, an entry of its lists, a rerun or an up-scale job; a split entry is one job of it (R388).
(DESIGN CHOICE, assumption 152.) -/
def countStart (s : State) (c : Nat) : State :=
  { s with sch := { s.sch with ctxs := Map.upd s.sch.ctxs c (fun x => { x with started := (x.started + 1) % 2 ^ 32 }) } }

/-- The jobs that an entry becomes on its leaves start: RUNNING is written, the leaf's tag and counts move (R76, R194, R388); the
engines that take part begin their first tiles. -/
def startGroup (s : State) (h : Nat) (js : List Job) : State :=
  let r := hudOf s h
  let note := match js with
    | j :: _ => if r.takenUps || r.isRerun then [] else [(j.tick, j.desc, js.map (·.huddle), j.epoch, stRUNNING)]
    | [] => []
  let s1 := setHud s h { r with
    taken := none, group := js, groupDone := 0, isRerun := false, takenUps := false, entries := r.entries ++ note }
  let s2 := js.foldl (fun s j =>
    let x := hudOf s j.huddle
    pmcAdd (setHud s j.huddle { x with epoch := j.epoch }) 0x60 1 (jobAttrs s j)) s1
  match js with
  | j :: _ => jobStatus (beginTiles (countStart s2 j.ctx) js) j stRUNNING 0 0 0
  | [] => s2

/-- The entry that a huddle has taken, with its target's leaves: huddle, context, descriptor, kind, child and parts. -/
def takenParts (s : State) (h : Nat) (chan : Bool) (x : Part) (child : Nat) : List Part :=
  let r := hudOf s h
  match entryTarget s.fab.plan (if r.takenUps then (r.ups.map (·.1)).getD h else h) child with
  | some t => splitGo s.fab.plan chan 256 t x
  | none => []

/-- The job of an entry taken on a huddle before its split, given the leaves that take it; an up-scale job runs under the picture's
image (R275). -/
def newJob (s : State) (h kind ctx desc child : Nat) (leaves : List Nat) (bytes : List Byte) : Job :=
  let j : Job := { kind := kind, ctx := ctx, huddle := 0, desc := desc, entry := child, leaves := leaves, bytes := bytes,
                   image := s.regs, epoch := s.com.epoch % 65536, tick := tickNow s, again := (hudOf s h).isRerun,
                   budget := fieldLE bytes (if kind = 0 then 0x20 else 4) 3 }
  if (hudOf s h).takenUps then
    match s.vw.pic with
    | some p => { j with image := p.image, epoch := p.epoch, view := true }
    | none => { j with view := true }
  else j

/-- An event of a descriptor check (R206): FORMAT, RANGE or NO_SRAM on the engines of the leaves. -/
def meCheckEvent (s : State) (leaves : List Huddle) (code : Nat) : State :=
  let k := if code = stFORMAT then some 0 else if code = stRANGE then some 1 else if code = stNOSRAM then some 4 else none
  match k with
  | some k => leaves.foldl (fun s h => mxeEvent s (enginesOf s h) k) s
  | none => s

/-- CONV, POOL_MAX, POOL_AVG and BOX_DECODE: the entry taken is checked and starts, where its descriptor holds this OP; an
unknown OP falls to the same checks (R192–R195, R405). A job on a line path first compares its epochs (R52). -/
def startMatrix (s : State) (h op : Nat) : State :=
  let r := hudOf s h
  match r.taken with
  | none => s
  | some (ctx, desc, kind, child) =>
    if kind ≠ 0 ∨ r.rom.isEmpty = false ∨ r.group.isEmpty = false then s
    else
      let b := unitRead s desc 144
      let o := fieldLE b 0 1
      if 1 ≤ o ∧ o ≤ 4 ∧ o ≠ op ∧ poisoned s desc 144 = false then s
      else
        let d := parseMe b
        let parts := takenParts s h true ⟨h, 0, d.bands, 0, d.ncb⟩ child
        let leaves := parts.filterMap (fun x => findHuddle s.fab.plan x.leaf)
        let j := { newJob s h 0 ctx desc child (parts.map (·.leaf)) b with rowN := d.bands, chN := d.ncb }
        let jl := { j with huddle := ((leaves.head?).map (·.id)).getD h,
                           bytes := if rangeOk s desc 144 false then b else [] }
        if poisoned s desc 144 then
          match (linesOf desc 144).find? (fun l => s.mem.poison.contains l) with
          | some l =>
            let hid := poisoned s (desc + 0x88) 8
            endAtStart (memUncorr s l (((leaves.head?).map (fun x => readerOf x 0)).getD 59)) h
              (if hid then { jl with bytes := [] } else jl) stMEMERROR true
          | none => s
        else
          match meCheck s leaves b with
          | some code => endAtStart (meCheckEvent s leaves code) h jl code false
          | none =>
            let x := segEpoch s j
            startGroup x.1 h (parts.map (fun p =>
              { x.2 with huddle := p.leaf, rowLo := p.rowLo, rowN := p.rowN, chLo := p.chLo, chN := p.chN }))

/-- CONV. -/
def execConv (huddle : Byte) (s : State) : Out := .next (startMatrix s huddle.toNat 1)
/-- POOL_MAX. -/
def execPoolMax (huddle : Byte) (s : State) : Out := .next (startMatrix s huddle.toNat 2)
/-- POOL_AVG. -/
def execPoolAvg (huddle : Byte) (s : State) : Out := .next (startMatrix s huddle.toNat 3)
/-- BOX_DECODE in a loaded plan ends FORMAT (R199); the built-in check's own runs within a start. (DESIGN CHOICE, assumption 65.) -/
def execBoxDecode (huddle : Byte) (s : State) : Out := .next (startMatrix s huddle.toNat 4)

/-! ## Blocks (R177, R188) -/

/-- A block header. -/
def blockHeader (tile fmt tensor count epoch : Nat) : List Byte :=
  leBytes 1 (tile % 16) ++ leBytes 1 fmt ++ leBytes 2 tensor ++ leBytes 4 tile ++ leBytes 4 count ++ leBytes 2 epoch
    ++ leBytes 2 0

/-- Bytes padded with zeros to a multiple of 64. -/
def pad64 (l : List Byte) : List Byte := l ++ List.replicate (ceilDiv l.length 64 * 64 - l.length) 0

/-- The data address of input tile `t` and its scale block. -/
def MeJob.inBlock (d : MeJob) (t : Nat) : Nat := d.inData + t * d.inStride * 64
def MeJob.inShift (d : MeJob) (t : Nat) : Nat := d.inScale + t * 192

/-- Channels of a block `cb` of `c` channels. -/
def blockChannels (c cb : Nat) : Nat := min 128 (c - 128 * cb)

/-- Rows of a band of `h` rows a tile. -/
def bandRows (total h b : Nat) : Nat := min h (total - h * b)

/-- The input tiles that an output tile needs, ascending (R189, R190): the bands its rows touch; of the channel blocks
those its column block reads. -/
def inTiles (d : MeJob) (t : Nat) : List Nat :=
  let b := t / d.ncb
  let cb := t % d.ncb
  let y0 := b * d.tileH
  let y1 := min d.oh (y0 + d.tileH) - 1
  let lo := y0 * d.sy - d.pt
  let hi := min (d.inH - 1) (y1 * d.sy + d.kh - 1 - d.pt)
  let c0 := if d.op = 1 then (128 * cb / max 1 d.coutG) * d.cinG else 128 * cb
  let c1 := if d.op = 1 then c0 + d.blockIn cb else c0 + blockChannels d.cout cb
  (pairsOf (upTo (lo / max 1 d.inTileH) (hi / max 1 d.inTileH + 1)) (upTo (c0 / 128) (ceilDiv c1 128))).map
    (fun p => p.1 * d.ncbIn + p.2)

/-- The code of an input element, none outside the input (padding). -/
def inCode (s : State) (d : MeJob) (fmt : Nat) (y x : Int) (c : Nat) : Option Nat :=
  if y < 0 ∨ x < 0 ∨ (d.inH : Int) ≤ y ∨ (d.inW : Int) ≤ x then none
  else
    let ib := y.toNat / d.inTileH
    let cb := c / 128
    let n := blockChannels d.cin cb
    let e := ((y.toNat - ib * d.inTileH) * d.inW + x.toNat) * n + c % 128
    let a := d.inBlock (ib * d.ncbIn + cb) + 16
    let w := fmtBits fmt
    if w = 4 then
      let v := (devByte s (a + e / 2)).toNat
      some (if e % 2 = 0 then v % 16 else v / 16)
    else some (devLE s (a + e * (w / 8)) (w / 8))

/-- The code of a weight: output channel `o` of its block `cb`, channel `ci` of its group, tap. -/
def weightCode (s : State) (d : MeJob) (fmt cb o ci ky kx : Nat) : Nat :=
  let e := ((o * d.cinG + ci) * d.kh + ky) * d.kw + kx
  let a := d.wData + cb * d.wStride * 64 + 16
  let w := fmtBits fmt
  if w = 4 then
    let v := (devByte s (a + e / 2)).toNat
    if e % 2 = 0 then v % 16 else v / 16
  else devLE s (a + e * (w / 8)) (w / 8)

/-- The shift of channel `c` of a block, from the block's scale bytes (R159). -/
def shiftOf (s : State) (a gran c : Nat) : Int :=
  let i := if gran = 0 then 0 else if gran = 1 then c else c / 32
  sgn 8 (devByte s (a + 16 + i)).toNat

/-! ## Convolution (R165–R171, R183, R184) -/

/-- The value that EXPAND gives an operand (R166): FP16 of code − z, or of the floating code. -/
def expandVal (fmt z c : Nat) : Fp :=
  if fmt ≤ 3 then fmtFP16.decode (fmtFP16.encode (Fp.ofInt (intCode fmt c - z))) else (fpOf fmt).decode c

/-- One reduction index of a column block: the tap, and the channel of the input (R183). -/
def redIndex (d : MeJob) (cb i : Nat) : Nat × Nat × Nat :=
  let k := d.blockIn cb
  let c0 := (128 * cb / max 1 d.coutG) * d.cinG
  (i / k / d.kw, i / k % d.kw, c0 + i % k)

/-- What one product of the array gets: the activation code (the zero point's code at padding) and the weight code, 0 for
a channel of another group. -/
def operands (s : State) (d : MeJob) (a w : Tensor) (cb o y x i : Nat) : Nat × Nat :=
  let (ky, kx, c) := redIndex d cb i
  let ac := (inCode s d a.fmt (((y * d.sy + ky : Nat) : Int) - d.pt) (((x * d.sx + kx : Nat) : Int) - d.pl) c).getD a.zero
  let g := (128 * cb + o) / max 1 d.coutG
  let ci := c - g * d.cinG
  (ac, if c / max 1 d.cinG = g then weightCode s d w.fmt cb o ci ky kx else 0)

/-- Integer accumulation: the pass sums added in order, saturating, and whether any addition saturated (R168, R184). -/
def accInt (s : State) (d : MeJob) (a w : Tensor) (cb o y x rows : Nat) : Int × Bool :=
  let n := d.kh * d.kw * d.blockIn cb
  (List.range (ceilDiv n rows)).foldl (fun acc p =>
    let ps := sumI ((upTo (rows * p) (min n (rows * (p + 1)))).map (fun i =>
      let q := operands s d a w cb o y x i
      intCode a.fmt q.1 * intCode w.fmt q.2))
    let r := satAdd32 acc.1 ps
    (r.1, acc.2 || r.2)) (0, false)

/-- The tree of R184 over the products of one pass: FP32 codes, a product of +0 where a row carries no index. -/
def passTree (f : Nat → Nat → Nat) : Nat → List Nat → Nat
  | 0, l => (l.head?).getD 0
  | n + 1, l =>
    let rec go : List Nat → List Nat
      | x :: y :: r => f x y :: go r
      | l => l
    passTree f n (go l)

/-- Floating accumulation (R184): each pass in its tree, the totals in order from +0. -/
def accFloat (s : State) (d : MeJob) (a w : Tensor) (cb o y x rows : Nat) : Nat :=
  let n := d.kh * d.kw * d.blockIn cb
  let val (fmt z c : Nat) : Fp := if w.dq = 2 then expandVal fmt z c else codeValue fmt c
  (List.range (ceilDiv n rows)).foldl (fun acc p =>
    let prods := (List.range rows).map (fun r =>
      let i := rows * p + r
      if i < n then
        let q := operands s d a w cb o y x i
        fmtFP32.encode ((val a.fmt a.zero q.1).mul (val w.fmt w.zero q.2))
      else 0)
    addF32 acc (passTree addF32 7 prods)) 0

/-- ROWSUM of an output position over its group (R169, R191), padding included. -/
def rowSum (s : State) (d : MeJob) (a : Tensor) (cb o y x : Nat) : Int :=
  let g := (128 * cb + o) / max 1 d.coutG
  sumI ((pairsOf (pairsOf (List.range d.kh) (List.range d.kw)) (List.range d.cinG)).map (fun q =>
    intCode a.fmt ((inCode s d a.fmt (((y * d.sy + q.1.1 : Nat) : Int) - d.pt) (((x * d.sx + q.1.2 : Nat) : Int) - d.pl)
      (g * d.cinG + q.2)).getD a.zero)))

/-- The accumulation of a pairing is integer (R164). -/
def intPath (a w : Tensor) : Bool := w.dq != 2 && isIntFmt a.fmt && isIntFmt w.fmt

/-- What an element comes to before its code: the real value scaled to the output shift, or the integer and its shift
count (R169–R171, R196). -/
inductive Pre where
  | int (v k : Int) (sat : Bool)
  | real (y : Fp)
  /-- The spec states no value. -/
  | open_

/-- One element of a convolution before requantisation. (DEDUCED, assumption 64.) -/
def convElem (s : State) (d : MeJob) (a w : Tensor) (sa so : Int) (cb o y x : Nat) : Pre :=
  let rows := (arrayMode w.dq w.fmt a.fmt).1
  let sw := shiftOf s (d.wScale + cb * 192) w.gran o
  let ba := d.bias + (128 * cb + o) * 4
  if intPath a w then
    let acc := accInt s d a w cb o y x rows
    let za : Int := a.zero
    let zw : Int := w.zero
    let n : Int := (d.kh * d.kw * d.cinG : Nat)
    let rs := if zw = 0 then 0 else rowSum s d a cb o y x
    let cs := if za = 0 then 0 else sgn 32 (devLE s (d.wSum + cb * 576 + 16 + 4 * o) 4)
    let v := acc.1 - zw * rs - za * cs + n * za * zw + (if d.bias = 0 then 0 else sgn 32 (devLE s ba 4))
    .int (if d.relu && decide (v < 0) then 0 else v) (so - (sw + sa)) acc.2
  else if w.dq = 1 ∧ w.zero ≠ 0 then .open_
  else
    let acc := accFloat s d a w cb o y x rows
    let v := fmtFP32.decode (if d.bias = 0 then acc else addF32 acc (devLE s ba 4))
    let v1 := match v with
      | .nan _ => v
      | _ => if d.relu && v.neg then Fp.fin false 0 0 else v
    .real (v1.scale (sw + sa - so))

/-! ## Pooling (R197) -/

/-- The taps of a pooled element that lie inside the input: code and the shift of its tile. -/
def poolTaps (s : State) (d : MeJob) (a : Tensor) (y x c : Nat) : List (Nat × Int) :=
  (pairsOf (List.range d.kh) (List.range d.kw)).filterMap (fun q =>
    let iy : Int := ((y * d.sy + q.1 : Nat) : Int) - d.pt
    let ix : Int := ((x * d.sx + q.2 : Nat) : Int) - d.pl
    (inCode s d a.fmt iy ix c).map (fun v =>
      (v, shiftOf s (d.inShift (iy.toNat / d.inTileH * d.ncbIn + c / 128)) a.gran (c % 128))))

/-- `m × 2^k ÷ n` with 200 quotient bits below the point and a sticky bit, which decide its one rounding to any format of
R155. -/
def divReal (m : Int) (n : Nat) (k : Int) : Fp :=
  let q := (m.natAbs * 2 ^ 200) / n
  let r := (m.natAbs * 2 ^ 200) % n
  .fin (decide (m < 0)) (2 * q + (if r = 0 then 0 else 1)) (k - 201)

/-- The exact value `m × 2^k ÷ n` rounded once to FP32 (the division of a floating average). -/
def divF32 (v : Fp) (n : Nat) : Fp :=
  match v with
  | .fin neg m e =>
    let q := (m * 2 ^ 64) / n
    let r := (m * 2 ^ 64) % n
    fmtFP32.decode (fmtFP32.encode (.fin neg (2 * q + (if r = 0 then 0 else 1)) (e - 65)))
  | x => x

/-- An integer-path pooled value `m × 2^k ÷ n` rounded once to an integer (R161, R197). -/
def poolRound (m : Int) (n : Nat) (k : Int) : Int :=
  if 0 ≤ k then rneDiv (m * ((2 ^ k.toNat : Nat) : Int)) n else rneDiv m (n * 2 ^ (-k).toNat)

/-- One pooled element: its code, saturated and uflow (R171, R197). -/
def poolElem (s : State) (d : MeJob) (a : Tensor) (ofmt ozero : Nat) (so : Int) (y x c : Nat) : Nat × Bool × Bool :=
  let taps := poolTaps s d a y x c
  let n := if d.op = 3 then d.kh * d.kw else 1
  if isIntFmt a.fmt then
    let smin := (taps.map (·.2)).foldl min ((taps.head?.map (·.2)).getD 0)
    let us := taps.map (fun t => (intCode a.fmt t.1 - a.zero) * ((2 ^ (t.2 - smin).toNat : Nat) : Int))
    let m := if d.op = 3 then sumI us else us.foldl max ((us.head?).getD 0)
    if isIntFmt ofmt then
      let r := poolRound m n (smin - so)
      let (lo, hi) := intRange ofmt
      (wrap 16 (clampI lo hi (r + ozero)), decide (r + ozero < lo) || decide (hi < r + ozero), decide (m ≠ 0) && decide (r = 0))
    else requantReal (divReal m n (smin - so)) ozero ofmt
  else
    let vs := taps.map (fun t => ((fpOf a.fmt).decode t.1).scale t.2)
    let v := if d.op = 3 then
        divF32 (fmtFP32.decode (vs.foldl (fun acc x => addF32 acc (fmtFP32.encode x)) 0)) n
      else
        vs.foldl (fun acc x => match acc, x with
          | .nan _, _ => acc
          | _, .nan _ => x
          | _, _ => if acc.lt x then x else acc) ((vs.head?).getD (.fin false 0 0))
    requantReal (v.scale (-so)) ozero ofmt

/-! ## One output tile (R185, R190, R196) -/

/-- What one element comes to: code, saturated, uflow. An open value takes a code from the free values. -/
def elemCode (s : State) (d : MeJob) (a : Tensor) (w : Option Tensor) (ot : Tensor) (sa so : Int) (cb o y x : Nat) :
    Nat × Bool × Bool :=
  match w with
  | none => poolElem s d a ot.fmt ot.zero so y x (128 * cb + o)
  | some w =>
    match convElem s d a w sa so cb o y x with
    | .int v k sat =>
      if isIntFmt ot.fmt then
        let r := requantInt v k ot.zero ot.fmt sat
        (wrap 16 r.1, r.2.1, r.2.2)
      else
        let r := requantReal ((Fp.ofInt v).scale (-k)) ot.zero ot.fmt
        (r.1, r.2.1 || sat, r.2.2)
    | .real v => requantReal v ot.zero ot.fmt
    | .open_ => (Config.freeNat (s.free + ((y * d.ow + x) * 128 + o)) % 2 ^ fmtBits ot.fmt, false, false)

/-- The class record of one position (R196). -/
def classRecord (codes : List Nat) (fmt : Nat) (z : Nat) : Nat :=
  let vs := codes.map (fun c => intCode fmt c - z)
  let best := vs.foldl max ((vs.head?).getD 0)
  let k := vs.findIdx (· == best)
  let second := (vs.eraseIdx k).foldl max (((vs.eraseIdx k).head?).getD 0)
  k % 256 + (min 255 (best - second).toNat) * 256

/-- A stop of a running entry with STATUS and its lines lost. -/
def stopEntry (s : State) (h code dt st tile : Nat) : State := endGroup s h code dt st tile true

/-- The tag check of a tile's blocks (R178): none when they agree, else the data tag, the scale tag and the sum tag. -/
def tagCheck (s : State) (dataA scaleA : Nat) (sumA : Option Nat) (t : Nat) : Option (Nat × Nat × Option Nat) :=
  let dt := (devByte s dataA).toNat % 16
  let st := (devByte s scaleA).toNat % 16
  let su := sumA.map (fun a => (devByte s a).toNat % 16)
  if dt = t % 16 ∧ st = t % 16 ∧ (su.getD (t % 16)) = t % 16 then none else some (dt, st, su)

/-- The ranges that a tile reads: address and bytes. -/
def tileReads (d : MeJob) (a : Tensor) (w : Option Tensor) (t : Nat) : List (Nat × Nat) :=
  let cb := t % d.ncb
  let ins := (inTiles d t).flatMap (fun i =>
    let n := bandRows d.inH d.inTileH (i / d.ncbIn) * d.inW * blockChannels d.cin (i % d.ncbIn)
    [(d.inBlock i, 16 + ceilDiv (n * fmtBits a.fmt) 8), (d.inShift i, 16 + 128)])
  match w with
  | none => ins
  | some w =>
    let n := blockChannels d.cout cb * d.cinG * d.kh * d.kw
    ins ++ [(d.wData + cb * d.wStride * 64, 16 + ceilDiv (n * fmtBits w.fmt) 8), (d.wScale + cb * 192, 16 + 128)]
      ++ (if a.zero = 0 then [] else [(d.wSum + cb * 576, 16 + 4 * blockChannels d.cout cb)])
      ++ (if d.bias = 0 then [] else [(d.bias + 512 * cb, 4 * blockChannels d.cout cb)])

/-- The first disagreement of the tags that engine `e` checks for a tile: tensor, tile, tags and stream (R178). The tags of weights are
those of the first tile of a column block that the engine works on since the job started or resumed (R190). -/
def tileSkew (s : State) (j : Job) (d : MeJob) (a : Tensor) (w : Option Tensor) (e t : Nat) :
    Option (Nat × Nat × (Nat × Nat × Option Nat) × Nat) :=
  let cb := t % d.ncb
  match (inTiles d t).findSome? (fun i => (tagCheck s (d.inBlock i) (d.inShift i) none i).map (fun x => (d.inT, i, x, 0))) with
  | some x => some x
  | none =>
    match w with
    | none => none
    | some _ =>
      if j.loaded.contains (e, cb) then none
      else (tagCheck s (d.wData + cb * d.wStride * 64) (d.wScale + cb * 192)
        (if a.zero = 0 then none else some (d.wSum + cb * 576)) cb).map (fun x => (d.wT, cb, x, 1))

/-- Array passes and engine cycles of a tile (R183, R185, R197); a tile under Range Guard takes a further ⌈ELEMS / 128⌉ cycles. -/
def tileCost (d : MeJob) (a : Tensor) (w : Option Tensor) (cb rows : Nat) (guard : Bool) : Nat × Nat :=
  let req := if guard then ceilDiv (rows * d.ow * blockChannels d.cout cb) 128 else 0
  match w with
  | some w =>
    let m := arrayMode w.dq w.fmt a.fmt
    let p := ceilDiv (d.kh * d.kw * d.blockIn cb) m.1
    (rows * d.ow * p, rows * d.ow * p * m.2 + 160 + req)
  | none => (0, rows * d.ow * ceilDiv (d.kh * d.kw) 4 + 160 + req)

/-- ACLK cycles that `n` engine cycles take, at half rate or not (R182). -/
def aclkOf (half : Bool) (n : Nat) : Nat := if half then 2 * n else n

/-- ACLK cycles of the tile that an engine completes, of `n` engine cycles: those spent at an earlier rate stand (R204). -/
def tileAclk (s : State) (e n : Nat) : Nat :=
  let x := Map.getD s.slv.spent e (0, 0, 0)
  x.2.2 + aclkOf (shedStep s 4) (n - x.2.1)

/-- Where half rate takes force or ends at a Whistle, the engine cycles that each engine has spent on its tile stand at the rate
before (R204). -/
def rateChange (before s : State) : State :=
  if shedStep before 4 = shedStep s 4 then s
  else
    let step (x : Nat × Nat × Nat) : Nat × Nat × Nat :=
      let n := (s.clk.now - x.1) / tuAclk s / (if shedStep before 4 then 2 else 1)
      (s.clk.now, x.2.1 + n, x.2.2 + aclkOf (shedStep before 4) n)
    { s with slv := { s.slv with spent := s.slv.spent.map (fun e => (e.1, step e.2)) } }

/-- The tiles of a leaf's part in ascending index (R195). -/
def leafTiles (j : Job) (ncb : Nat) : List Nat :=
  (pairsOf (upTo j.rowLo (j.rowLo + j.rowN)) (upTo j.chLo (j.chLo + j.chN))).map (fun p => p.1 * ncb + p.2)

/-- The next tile of the `k`-th of `n` engines (R195). (DESIGN CHOICE, assumption 108.) -/
def nextTile (j : Job) (ncb n k : Nat) : Option Nat :=
  (leafTiles j ncb).find? (fun t => t % max 1 n == k && !j.tiles.contains t)

/-- The outputs of a tile are written: data, scale, statistics, class records, and the headers last (R188, R196). -/
def writeTile (s : State) (j : Job) (d : MeJob) (ot : Tensor) (t : Nat) (rows : List (List (List (Nat × Bool × Bool))))
    (so off : Int) (flags : Nat) : State :=
  let cb := t % d.ncb
  let b := t / d.ncb
  let flat := (rows.flatMap id).flatMap id
  let nc := blockChannels d.cout cb
  let ns := if ot.gran = 0 then 1 else if ot.gran = 1 then nc else ceilDiv nc 32
  let da := d.outData + t * d.outStride * 64
  let sa := d.outScale + t * 192
  let body := (pad64 (blockHeader t ot.fmt d.outT flat.length j.epoch ++ packCodes ot.fmt (flat.map (·.1))))
  let scale := (pad64 (blockHeader t 0xE d.outT ns j.epoch ++ List.replicate ns (BitVec.ofNat 8 (wrap 8 so)))).take 192
  let sat := (flat.filter (·.2.1)).length
  let ufl := (flat.filter (·.2.2)).length
  let s1 := jobWrite s (da + 16) (body.drop 16)
  let s2 := jobWrite s1 (sa + 16) (scale.drop 16)
  let s3 := jobWrite s2 (d.stats + t * 8) (statRecord sat ufl flat.length (if ot.gran = 0 then so else off) flags (t % 16))
  let s4 := if d.argmax then
      (rows.zip (List.range rows.length)).foldl (fun s r =>
        (r.1.zip (List.range r.1.length)).foldl (fun s p =>
          jobWrite s (d.amax + ((b * d.tileH + r.2) * d.ow + p.2) * 2)
            (leBytes 2 (classRecord (p.1.map (·.1)) ot.fmt ot.zero))) s) s3
    else s3
  jobWrite (jobWrite s4 da (body.take 16)) sa (scale.take 16)

/-- The ranges that a tile writes. -/
def tileWrites (d : MeJob) (ot : Tensor) (t rows : Nat) : List (Nat × Nat) :=
  let n := rows * d.ow * blockChannels d.cout (t % d.ncb)
  [(d.outData + t * d.outStride * 64, ceilDiv (16 + ceilDiv (n * fmtBits ot.fmt) 8) 64 * 64), (d.outScale + t * 192, 192),
   (d.stats + t * 8, 8)]
    ++ (if d.argmax then [(d.amax + (t / d.ncb) * d.tileH * d.ow * 2, rows * d.ow * 2)] else [])

/-- Engine `e` completes its next output tile of leaf job `j` on top-level huddle `h` (R174, R178, R190, R195, R196). -/
def completeTile (s : State) (h : Nat) (j : Job) (e t : Nat) : State :=
  let d := parseMe j.bytes
  match s.fab.plan.tensors[d.inT]?, s.fab.plan.tensors[d.outT]? with
  | some a, some ot =>
    let w := if d.op = 1 then s.fab.plan.tensors[d.wT]? else none
    let rd := tileReads d a w t
    let nr := bandRows d.oh d.tileH (t / d.ncb)
    let done := groupComplete (hudOf s h)
    let attrs := { jobAttrs s j with master := some (32 + e) }
    if rd.any (fun x => !rangeOk s x.1 x.2 false) ∨ (tileWrites d ot t nr).any (fun x => !rangeOk s x.1 x.2 true) then
      stopEntry (mxeEvent s [e] 1) h stRANGE 0 0 done
    else
      match (rd.flatMap (fun x => linesOf x.1 x.2)).find? (fun l => s.mem.poison.contains l) with
      | some l => stopEntry (memUncorr s l (32 + e)) h stMEMERROR 0 0 done
      | none =>
        match tileSkew s j d a w e t with
        | some (tensor, tile, (dt, st, su), stream) =>
          let onlySum := dt = tile % 16 ∧ st = tile % 16
          stopEntry (skewReport s j tensor tile dt st stream (if stream = 1 then su else none)) h stSKEW
            (if onlySum then tile % 16 else dt) (if onlySum then tile % 16 else st) tile
        | none =>
          let g := guarded s j.image ot
          match (if g then guardOff s j.tick d.outT t else some 0) with
          | none => s
          | some off =>
            let so := ot.shift + off
            let sa := match inTiles d t with | i :: _ => shiftOf s (d.inShift i) 0 0 | [] => 0
            let cb := t % d.ncb
            let y0 := t / d.ncb * d.tileH
            let rows := (List.range nr).map (fun r => (List.range d.ow).map (fun x =>
              (List.range (blockChannels d.cout cb)).map (fun o => elemCode s d a w ot sa so cb o (y0 + r) x)))
            let flat := (rows.flatMap id).flatMap id
            let sat := (flat.filter (·.2.1)).length
            let ufl := (flat.filter (·.2.2)).length
            let r := if g then guardStep s j d.outT t (min sat 65535) (min ufl 65535) flat.length else (s, 0)
            let s1 := writeTile r.1 j d ot t rows so off r.2
            let s1 := { s1 with free := s1.free + d.oh * d.ow * 128 + 1 }
            let j1 := { j with tiles := j.tiles ++ [t], done := j.done + 1, loaded := j.loaded ++ [(e, cb)] }
            let s2 := setJob s1 h j1
            let s3 := if 0 < sat then mxeEvent s2 [e] 5 else s2
            let cost := tileCost d a w cb nr g
            let cyc := tileAclk s e cost.2
            let s4 := { s3 with slv := { s3.slv with
              busy := Map.set s3.slv.busy e (Map.getD s3.slv.busy e 0 + cyc), spent := Map.set s3.slv.spent e (s3.clk.now, 0, 0) } }
            wakeGuards (pmcAdd (pmcAdd (pmcAdd (pmcAdd s4 0x10 cyc attrs) 0x11 cost.1 attrs) 0x12 1 attrs) 0x13 sat attrs)
  | _, _ => s

/-- The leaf job that runs on an engine: top-level huddle, job, the engine's place among the leaf's engines and their
number. -/
def jobOfEngine (s : State) (e : Nat) : Option (Nat × Job × Nat × Nat) :=
  s.sch.hud.findSome? (fun p =>
    p.2.group.findSome? (fun j =>
      if j.kind ≠ 0 then none
      else
        match findHuddle s.fab.plan j.huddle with
        | some x => if (enginesOf s x).contains e then
            some (p.1, j, (enginesOf s x).findIdx (· == e), (enginesOf s x).length) else none
        | none => none))

/-- TILE_COMPLETE. -/
def execTileComplete (engine : Fin 16) (s : State) : Out :=
  .next (underOld s (fun s => (jobOfEngine s engine.val).isSome) (fun s =>
    match jobOfEngine s engine.val with
    | none => s
    | some (h, j, k, n) =>
      match nextTile j (parseMe j.bytes).ncb n k with
      | some t => completeTile s h j engine.val t
      | none => s))

/-- Every tile of a leaf's part is complete. -/
def meDone (j : Job) : Bool := (leafTiles j (parseMe j.bytes).ncb).all (fun t => j.tiles.contains t)

end Sys2Proof.Machine
end

