-- ==== Sys2Proof/Machine/Crypto.lean ====
section
/-! DEFINITION. The external standards that the spec names: SHA-384 (FIPS 180-4), HMAC, ECDSA verification on P-384
(FIPS 186-5) and the AES-256 key wrap (RFC 3394). PRESUMED: the spec names them and leaves their text to the standards. -/

namespace Sys2Proof.Machine

/-! ## SHA-384 -/

/-- The round constants of SHA-384. -/
def shaK : List Nat :=
  [0x428a2f98d728ae22, 0x7137449123ef65cd, 0xb5c0fbcfec4d3b2f, 0xe9b5dba58189dbbc] ++
  [0x3956c25bf348b538, 0x59f111f1b605d019, 0x923f82a4af194f9b, 0xab1c5ed5da6d8118] ++
  [0xd807aa98a3030242, 0x12835b0145706fbe, 0x243185be4ee4b28c, 0x550c7dc3d5ffb4e2] ++
  [0x72be5d74f27b896f, 0x80deb1fe3b1696b1, 0x9bdc06a725c71235, 0xc19bf174cf692694] ++
  [0xe49b69c19ef14ad2, 0xefbe4786384f25e3, 0x0fc19dc68b8cd5b5, 0x240ca1cc77ac9c65] ++
  [0x2de92c6f592b0275, 0x4a7484aa6ea6e483, 0x5cb0a9dcbd41fbd4, 0x76f988da831153b5] ++
  [0x983e5152ee66dfab, 0xa831c66d2db43210, 0xb00327c898fb213f, 0xbf597fc7beef0ee4] ++
  [0xc6e00bf33da88fc2, 0xd5a79147930aa725, 0x06ca6351e003826f, 0x142929670a0e6e70] ++
  [0x27b70a8546d22ffc, 0x2e1b21385c26c926, 0x4d2c6dfc5ac42aed, 0x53380d139d95b3df] ++
  [0x650a73548baf63de, 0x766a0abb3c77b2a8, 0x81c2c92e47edaee6, 0x92722c851482353b] ++
  [0xa2bfe8a14cf10364, 0xa81a664bbc423001, 0xc24b8b70d0f89791, 0xc76c51a30654be30] ++
  [0xd192e819d6ef5218, 0xd69906245565a910, 0xf40e35855771202a, 0x106aa07032bbd1b8] ++
  [0x19a4c116b8d2d0c8, 0x1e376c085141ab53, 0x2748774cdf8eeb99, 0x34b0bcb5e19b48a8] ++
  [0x391c0cb3c5c95a63, 0x4ed8aa4ae3418acb, 0x5b9cca4f7763e373, 0x682e6ff3d6b2b8a3] ++
  [0x748f82ee5defb2fc, 0x78a5636f43172f60, 0x84c87814a1f0ab72, 0x8cc702081a6439ec] ++
  [0x90befffa23631e28, 0xa4506cebde82bde9, 0xbef9a3f7b2c67915, 0xc67178f2e372532b] ++
  [0xca273eceea26619c, 0xd186b8c721c0c207, 0xeada7dd6cde0eb1e, 0xf57d4f7fee6ed178] ++
  [0x06f067aa72176fba, 0x0a637dc5a2c898a6, 0x113f9804bef90dae, 0x1b710b35131c471b] ++
  [0x28db77f523047d84, 0x32caab7b40c72493, 0x3c9ebe0a15c9bebc, 0x431d67c49c100d4c] ++
  [0x4cc5d4becb3e42b6, 0x597f299cfc657e2a, 0x5fcb6fab3ad6faec, 0x6c44198c4a475817]

/-- The initial hash value of SHA-384. -/
def shaH : List Nat :=
  [0xcbbb9d5dc1059ed8, 0x629a292a367cd507, 0x9159015a3070dd17, 0x152fecd8f70e5939] ++
  [0x67332667ffc00b31, 0x8eb44a8768581511, 0xdb0c2e0d64f98fa7, 0x47b5481dbefa4fa4]

/-- A 64-bit rotation right. -/
def ror64 (x n : Nat) : Nat := ((x >>> n) ||| (x <<< (64 - n))) % 2 ^ 64

/-- The message schedule: the words so far, newest first, extended `n` times. -/
def shaSchedule : Nat → List Nat → List Nat
  | 0, w => w
  | n + 1, w =>
    let g (i : Nat) : Nat := (w[i]?).getD 0
    let a := g 1
    let b := g 14
    let s1 := ror64 a 19 ^^^ ror64 a 61 ^^^ (a >>> 6)
    let s0 := ror64 b 1 ^^^ ror64 b 8 ^^^ (b >>> 7)
    shaSchedule n (((s1 + g 6 + s0 + g 15) % 2 ^ 64) :: w)

/-- One round on the eight working variables. -/
def shaRound (v : List Nat) (kw : Nat) : List Nat :=
  match v with
  | [a, b, c, d, e, f, g, h] =>
    let s1 := ror64 e 14 ^^^ ror64 e 18 ^^^ ror64 e 41
    let ch := (e &&& f) ^^^ ((2 ^ 64 - 1 - e) &&& g)
    let t1 := h + s1 + ch + kw
    let s0 := ror64 a 28 ^^^ ror64 a 34 ^^^ ror64 a 39
    let maj := (a &&& b) ^^^ (a &&& c) ^^^ (b &&& c)
    [(t1 + s0 + maj) % 2 ^ 64, a, b, c, (d + t1) % 2 ^ 64, e, f, g]
  | l => l

/-- One 128-byte block. -/
def shaBlock (h : List Nat) (b : List Byte) : List Nat :=
  let w0 := (List.range 16).map (fun i => ofBE (slice b (8 * i) 8))
  let w := (shaSchedule 64 w0.reverse).reverse
  let v := (w.zip shaK).foldl (fun v p => shaRound v ((p.1 + p.2) % 2 ^ 64)) h
  (h.zip v).map (fun p => (p.1 + p.2) % 2 ^ 64)

/-- `n` blocks. -/
def shaBlocks : Nat → List Nat → List Byte → List Nat
  | 0, h, _ => h
  | n + 1, h, l => shaBlocks n (shaBlock h (l.take 128)) (l.drop 128)

/-- The SHA-384 of bytes, 48 bytes. (PRESUMED, assumption 14.) -/
def sha384 (l : List Byte) : List Byte :=
  let z := (240 - (l.length + 1) % 128) % 128
  let m := l ++ [0x80] ++ List.replicate (z % 128) 0 ++ beBytes 16 (8 * l.length)
  ((shaBlocks (m.length / 128) shaH m).take 6).flatMap (beBytes 8)

/-- HMAC-SHA-384. -/
def hmac384 (key msg : List Byte) : List Byte :=
  let k0 := if 128 < key.length then sha384 key else key
  let k := k0 ++ List.replicate (128 - k0.length) 0
  sha384 (k.map (· ^^^ 0x5C) ++ sha384 (k.map (· ^^^ 0x36) ++ msg))

/-- HKDF-SHA-384 for at most 48 bytes: the extract, and one block of the expand (RFC 5869). (PRESUMED, assumption 14.) -/
def hkdf384 (salt ikm info : List Byte) (n : Nat) : List Byte := (hmac384 (hmac384 salt ikm) (info ++ [1])).take n

/-! ## ECDSA on P-384 -/

/-- The prime, the order, b and the base point of P-384. -/
def p384p : Nat := 2 ^ 384 - 2 ^ 128 - 2 ^ 96 + 2 ^ 32 - 1
def p384n : Nat := 0xffffffffffffffffffffffffffffffffffffffffffffffffc7634d81f4372ddf581a0db248b0a77aecec196accc52973
def p384b : Nat := 0xb3312fa7e23ee7e4988e056be3f82d19181d9c6efe8141120314088f5013875ac656398d8a2ed19d2a85c8edd3ec2aef
def p384gx : Nat := 0xaa87ca22be8b05378eb1c71ef320ad746e1d3b628ba79b9859f741e082542a385502f25dbf55296c3a545e3872760ab7
def p384gy : Nat := 0x3617de4a96262c6f5d9e98bf9292dc29f8f41dbd289a147ce9da3113b5f0b8c00a60b1ce1d7e819d7a431d7c90ea0e5f

/-- Modular power by the low `n` bits of an exponent. -/
def powMod (m : Nat) : Nat → Nat → Nat → Nat
  | 0, _, _ => 1
  | n + 1, x, e =>
    let r := powMod m n (x * x % m) (e / 2)
    if e % 2 = 1 then r * x % m else r

/-- The inverse modulo a prime. -/
def invMod (m x : Nat) : Nat := powMod m 384 (x % m) (m - 2)

/-- A point, none at infinity; the sum of two points. -/
def ecAdd (a b : Option (Nat × Nat)) : Option (Nat × Nat) :=
  let p := p384p
  match a, b with
  | none, q => q
  | q, none => q
  | some (x1, y1), some (x2, y2) =>
    if x1 = x2 ∧ (y1 + y2) % p = 0 then none
    else
      let l := if x1 = x2 then (3 * x1 * x1 + p - 3) * invMod p (2 * y1) % p
        else (y2 + p - y1) * invMod p (x2 + p - x1) % p
      let x3 := (l * l + 2 * p - x1 - x2) % p
      some (x3, (l * (x1 + p - x3) + p - y1) % p)

/-- The multiple of a point by the low `n` bits of a number. -/
def ecMul : Nat → Nat → Option (Nat × Nat) → Option (Nat × Nat)
  | 0, _, _ => none
  | n + 1, k, q =>
    let r := ecMul n (k / 2) (ecAdd q q)
    if k % 2 = 1 then ecAdd q r else r

/-- A 97-byte uncompressed public key (0x04, X, Y) as a point of the curve. -/
def ecKey (k : List Byte) : Option (Nat × Nat) :=
  let x := ofBE (slice k 1 48)
  let y := ofBE (slice k 49 48)
  if k.length = 97 ∧ k.head? = some 4 ∧ x < p384p ∧ y < p384p ∧ (y * y) % p384p = (x * x * x + p384p * 3 - 3 * x + p384b) % p384p
  then some (x, y) else none

/-- The ECDSA check of a digest under a public key: r and s of 48 big-endian bytes each. -/
def ecdsaVerify (key digest sig : List Byte) : Bool :=
  let r := ofBE (slice sig 0 48)
  let s := ofBE (slice sig 48 48)
  match ecKey key with
  | none => false
  | some q =>
    if r = 0 ∨ p384n ≤ r ∨ s = 0 ∨ p384n ≤ s then false
    else
      let w := invMod p384n s
      match ecAdd (ecMul 384 (ofBE digest * w % p384n) (some (p384gx, p384gy))) (ecMul 384 (r * w % p384n) (some q)) with
      | none => false
      | some (x, _) => x % p384n == r

/-- The base point. -/
def p384g : Option (Nat × Nat) := some (p384gx, p384gy)

/-- The 97-byte uncompressed public key of a private scalar. -/
def ecPublic (d : Nat) : List Byte :=
  match ecMul 384 d p384g with
  | some (x, y) => [4] ++ beBytes 48 x ++ beBytes 48 y
  | none => List.replicate 97 0

/-- The ECDSA signature of a digest under a private scalar with the drawn number k. -/
def ecdsaSign (d k : Nat) (digest : List Byte) : List Byte :=
  let r := match ecMul 384 k p384g with | some (x, _) => x % p384n | none => 0
  beBytes 48 r ++ beBytes 48 (invMod p384n k * (ofBE digest + r * d) % p384n)

/-! ## AES-256 key wrap -/

/-- The AES substitution table. -/
def aesS : List Nat :=
  [99, 124, 119, 123, 242, 107, 111, 197, 48, 1, 103, 43, 254, 215, 171, 118] ++
  [202, 130, 201, 125, 250, 89, 71, 240, 173, 212, 162, 175, 156, 164, 114, 192] ++
  [183, 253, 147, 38, 54, 63, 247, 204, 52, 165, 229, 241, 113, 216, 49, 21] ++
  [4, 199, 35, 195, 24, 150, 5, 154, 7, 18, 128, 226, 235, 39, 178, 117] ++
  [9, 131, 44, 26, 27, 110, 90, 160, 82, 59, 214, 179, 41, 227, 47, 132] ++
  [83, 209, 0, 237, 32, 252, 177, 91, 106, 203, 190, 57, 74, 76, 88, 207] ++
  [208, 239, 170, 251, 67, 77, 51, 133, 69, 249, 2, 127, 80, 60, 159, 168] ++
  [81, 163, 64, 143, 146, 157, 56, 245, 188, 182, 218, 33, 16, 255, 243, 210] ++
  [205, 12, 19, 236, 95, 151, 68, 23, 196, 167, 126, 61, 100, 93, 25, 115] ++
  [96, 129, 79, 220, 34, 42, 144, 136, 70, 238, 184, 20, 222, 94, 11, 219] ++
  [224, 50, 58, 10, 73, 6, 36, 92, 194, 211, 172, 98, 145, 149, 228, 121] ++
  [231, 200, 55, 109, 141, 213, 78, 169, 108, 86, 244, 234, 101, 122, 174, 8] ++
  [186, 120, 37, 46, 28, 166, 180, 198, 232, 221, 116, 31, 75, 189, 139, 138] ++
  [112, 62, 181, 102, 72, 3, 246, 14, 97, 53, 87, 185, 134, 193, 29, 158] ++
  [225, 248, 152, 17, 105, 217, 142, 148, 155, 30, 135, 233, 206, 85, 40, 223] ++
  [140, 161, 137, 13, 191, 230, 66, 104, 65, 153, 45, 15, 176, 84, 187, 22]

/-- The inverse substitution. -/
def aesInvS (x : Nat) : Nat := aesS.findIdx (· == x)

/-- A product in GF(2^8), by the low `n` bits of the second factor. -/
def gfMul : Nat → Nat → Nat → Nat
  | 0, _, _ => 0
  | n + 1, a, b => (if b % 2 = 1 then a else 0) ^^^ gfMul n (if a < 128 then 2 * a else (2 * a - 256) ^^^ 0x1B) (b / 2)

/-- The key schedule: words of four bytes, newest first, `n` more. -/
def aesExpand : Nat → Nat → List (List Nat) → List (List Nat)
  | 0, _, w => w
  | n + 1, i, w =>
    let t := (w.head?).getD []
    let sub (l : List Nat) := l.map (fun x => (aesS[x]?).getD 0)
    let t1 := if i % 8 = 0 then
        match sub (t.drop 1 ++ t.take 1) with
        | a :: r => (a ^^^ 2 ^ (i / 8 - 1)) :: r
        | [] => []
      else if i % 8 = 4 then sub t else t
    aesExpand n (i + 1) (((((w[7]?).getD []).zip t1).map (fun p => p.1 ^^^ p.2)) :: w)

/-- The fifteen round keys of a 32-byte key. -/
def aesKeys (key : List Byte) : List (List Nat) :=
  let w0 := (List.range 8).map (fun i => (slice key (4 * i) 4).map (·.toNat))
  let w := (aesExpand 52 8 w0.reverse).reverse
  (List.range 15).map (fun r => (List.range 4).flatMap (fun i => (w[4 * r + i]?).getD []))

/-- The exclusive or of two byte lists. -/
def xorL (a b : List Nat) : List Nat := (a.zip b).map (fun p => p.1 ^^^ p.2)

/-- One round of the inverse cipher on the 16 bytes, column by column. -/
def aesInvRound (mix : Bool) (k st : List Nat) : List Nat :=
  let sh := (List.range 16).map (fun i => aesInvS ((st[(4 * ((i / 4 + 4 - i % 4) % 4) + i % 4)]?).getD 0))
  let x := xorL sh k
  if mix then
    (List.range 16).map (fun i =>
      let g (j : Nat) : Nat := (x[4 * (i / 4) + (i + j) % 4]?).getD 0
      gfMul 8 (g 0) 14 ^^^ gfMul 8 (g 1) 11 ^^^ gfMul 8 (g 2) 13 ^^^ gfMul 8 (g 3) 9)
  else x

/-- AES-256 decryption of one block. -/
def aesDecrypt (key blk : List Byte) : List Byte :=
  match (aesKeys key).reverse with
  | [] => []
  | k14 :: rest =>
    let st := xorL (blk.map (·.toNat)) k14
    let r := (rest.zip (List.range 14)).foldl (fun st p => aesInvRound (p.2 != 13) p.1 st) st
    r.map (BitVec.ofNat 8)

/-- One round of the cipher on the 16 bytes, column by column. -/
def aesRound (mix : Bool) (k st : List Nat) : List Nat :=
  let sub := st.map (fun x => (aesS[x]?).getD 0)
  let x := (List.range 16).map (fun i => (sub[4 * ((i / 4 + i % 4) % 4) + i % 4]?).getD 0)
  let y := if mix then
      (List.range 16).map (fun i =>
        let g (j : Nat) : Nat := (x[4 * (i / 4) + (i + j) % 4]?).getD 0
        gfMul 8 (g 0) 2 ^^^ gfMul 8 (g 1) 3 ^^^ g 2 ^^^ g 3)
    else x
  xorL y k

/-- AES-256 encryption of one block. -/
def aesEncrypt (key blk : List Byte) : List Byte :=
  match aesKeys key with
  | [] => []
  | k0 :: rest =>
    let st := xorL (blk.map (·.toNat)) k0
    let r := (rest.zip (List.range 14)).foldl (fun st p => aesRound (p.2 != 13) p.1 st) st
    r.map (BitVec.ofNat 8)

/-- The inner steps of the key wrap, `k` of them from step `t` on (RFC 3394). -/
def wrapGo (key : List Byte) (n : Nat) : Nat → Nat → List Byte → List (List Byte) → List Byte × List (List Byte)
  | 0, _, a, r => (a, r)
  | k + 1, t, a, r =>
    let i := t % n
    let b := aesEncrypt key (a ++ ((r[i]?).getD []))
    let ax := ((b.take 8).zip (beBytes 8 (t + 1))).map (fun p => p.1 ^^^ p.2)
    wrapGo key n k (t + 1) ax (setNth r i (b.drop 8))

/-- The AES key wrap of plain bytes, a multiple of 8 of them. -/
def keyWrap (key p : List Byte) : List Byte :=
  let n := p.length / 8
  let x := wrapGo key n (6 * n) 0 (List.replicate 8 0xA6) ((List.range n).map (fun i => slice p (8 * i) 8))
  x.1 ++ x.2.flatMap id

/-- The inner steps of the key unwrap: A and the blocks R, for t from the top down (RFC 3394). -/
def unwrapGo (key : List Byte) (n : Nat) : Nat → List Byte → List (List Byte) → List Byte × List (List Byte)
  | 0, a, r => (a, r)
  | t + 1, a, r =>
    let i := t % n
    let ax := (a.zip (beBytes 8 (t + 1))).map (fun p => p.1 ^^^ p.2)
    let b := aesDecrypt key (ax ++ ((r[i]?).getD []))
    unwrapGo key n t (b.take 8) (setNth r i (b.drop 8))

/-- The AES key unwrap: the plain bytes where the integrity check holds. -/
def keyUnwrap (key c : List Byte) : Option (List Byte) :=
  let n := c.length / 8 - 1
  let r := (List.range n).map (fun i => slice c (8 * (i + 1)) 8)
  let x := unwrapGo key n (6 * n) (c.take 8) r
  if x.1 = List.replicate 8 0xA6 then some (x.2.flatMap id) else none

end Sys2Proof.Machine
end

