-- ==== Sys2Proof/Machine/RomJob.lean ====
section
/-! DEFINITION. ROM stage jobs as such (R261, R273, R295, R374, R453, R548): when one may start on its huddle, what every
one does at its start and at its end, and what stopping one of each kind leaves behind (R264, R290, R313, R453). -/

namespace Sys2Proof.Machine

/-- The cores of a huddle's leaves, in the order of the leaves (R219). -/
def romCores (s : State) (h : Nat) : List Nat := (leavesOf s.fab.plan h).flatMap (coresOf s)

/-- Every running job on a unit of a huddle. -/
def jobsUnder (s : State) (h : Nat) : List Job :=
  (runningJobs (hudOf s (topOf s.fab.plan h))).filter (fun j =>
    isUnder s.fab.plan j.huddle h || (leavesOf s.fab.plan j.huddle).any (fun x => isUnder s.fab.plan x.id h))

/-- The huddle after best-effort work on it is pre-empted for a ROM stage job, and whether its units are free (R375).
(DESIGN CHOICE, assumption 52.) -/
def romMakeRoom (s : State) (h : Nat) : State × Bool :=
  let s1 := preemptBE s (topOf s.fab.plan h)
  (s1, (jobsUnder s1 h).isEmpty && huddleDefined s1 h && !oldBusy s1 h && !orderlyStop s1)

/-- The oldest due job of a kind on a huddle. -/
def romDueOf (s : State) (kind h : Nat) : Option (Nat × Nat × Nat × Nat) :=
  (hudOf s (topOf s.fab.plan h)).romDue.find? (fun d => d.1 == kind && d.2.1 == h)

/-- A due job is no longer due. -/
def romTaken (s : State) (d : Nat × Nat × Nat × Nat) : State :=
  let top := topOf s.fab.plan d.2.1
  let r := hudOf s top
  setHud s top { r with romDue := r.romDue.erase d }

/-- A job becomes due on a huddle that the plan defines. -/
def romPush (s : State) (kind h w inst : Nat) : State :=
  if huddleDefined s h then
    let top := topOf s.fab.plan h
    let r := hudOf s top
    setHud s top { r with romDue := r.romDue ++ [(kind, h, w, inst)] }
  else s

/-- A ROM stage job before its inputs are read (R51, R261). -/
def newRom (s : State) (kind h budget : Nat) : Job :=
  let cores := romCores s h
  { kind := kind, ctx := 0x40, huddle := h, desc := 0, image := s.regs, epoch := s.com.epoch % 65536, tick := tickNow s,
    budget := budget, cores := cores, dead := cores.filter (coreFenced s) }

/-- The job runs: its leaves' counts and tags move (R76). -/
def romBegin (s : State) (j : Job) : State :=
  let top := topOf s.fab.plan j.huddle
  let r := hudOf s top
  let s1 := setHud s top { r with rom := r.rom ++ [j] }
  (leavesOf s.fab.plan j.huddle).foldl (fun s x =>
    let y := hudOf s x.id
    setHud s x.id { y with epoch := j.epoch }) (pmcAdd s1 0x60 1 (jobAttrs s j))

/-- The job no longer runs. -/
def romRemove (s : State) (j : Job) (ok : Bool) : State :=
  let top := topOf s.fab.plan j.huddle
  let r := hudOf s top
  let s1 := setHud s top { r with rom := r.rom.erase j }
  let s2 := if ok then pmcAdd s1 0x61 1 (jobAttrs s j) else s1
  (leavesOf s.fab.plan j.huddle).foldl (fun s x => leafEnded s x.id ok) s2

/-- A ROM stage job that its shot clock, a tag mismatch or a core's fault stops counts as stopped (R532). -/
def romCounted (s : State) (j : Job) : State := pmcAdd s 0x63 1 (jobAttrs s j)

/-- A leaf has no squad, or one of its squads is LOST: the job ends at once with NO_CORES (R548). -/
def romNoCores (s : State) (h : Nat) : Bool :=
  let ls := leavesOf s.fab.plan h
  ls.all (fun x => x.squadCount == 0) || ls.any (fun x => (squadsOf x).any (fun q => (squadOf s q).lost))

/-- The sweeps of a synthesis job that stopped read STOPPED (R264). -/
def stopSweeps (s : State) (j : Job) : State :=
  j.syn.foldl (fun s r =>
    let s1 := match sweepAddr s r.image r.route j.tick with
      | some a => if rangeOk s (a + 5) 1 true then jobWrite s (a + 5) [1] else s
      | none => s
    let s2 := pokeF (synEvent s1 r.route 1) (Reg.SYN_RT_STATUS r.route) 1 0 1
    match sweepAddr s r.image r.route j.tick with
    | some a => statWrite s2 (statBase 7 + r.route * 0x100) (unitRead s2 a 256)
    | none => s2) s

/-- Bytes that a ROM stage job stores, where they lie in Court and LPDDR6 (R390). -/
def romWrite (s : State) (a : Nat) (d : List Byte) : State :=
  unitWrite s a d

/-- The 32 bytes of a slot (R300). -/
def trackBytes : Option Track → List Byte
  | none => List.replicate 32 0
  | some t => leBytes 8 (wrap 64 t.x) ++ leBytes 8 (wrap 64 t.y) ++ leBytes 4 t.id ++ leBytes 1 t.route
      ++ leBytes 1 (t.state + 4 * b2n t.matched) ++ leBytes 1 t.conf ++ leBytes 1 t.hits ++ leBytes 1 t.misses
      ++ leBytes 1 t.extA ++ leBytes 1 t.extL ++ leBytes 1 t.cls ++ leBytes 4 t.last

/-- A TRK_RT_EVENTS bit with its TRK_IRQ_STATUS bit (R315). -/
def trkEvent (s : State) (r k : Nat) : State := event (event s (Reg.TRK_RT_EVENTS r) k) Reg.TRK_IRQ_STATUS k

/-- TRK_OCCUPANCY, the status page and the snapshot at the end of a decision job (R315). -/
def trkPublish (s : State) (j : Job) : State :=
  let conf := (s.trk.slots.filter (fun e => e.2.state == 2)).length
  let s1 := poke s Reg.TRK_OCCUPANCY (s.trk.slots.length + conf * 65536)
  let s2 := j.dec.foldl (fun s q =>
    statWrite s (statBase 8 + q.route * 0x40) ((List.range 16).flatMap (fun k => leBytes 4 (reg s (Reg.TRK_RT_CTRL q.route + 4 * k))))) s1
  if ifld s j.image Reg.TRK_SNAP_HI 31 31 = 0 then s2
  else
    let a := bits (ireg s j.image Reg.TRK_SNAP_LO) 31 16 * 65536 + ifld s j.image Reg.TRK_SNAP_HI 7 0 * 2 ^ 32
    romWrite s2 a ((List.range 4096).flatMap (fun k => trackBytes (Map.get s2.trk.slots k)))

/-- A track change that a decision job made is taken back, where the slot still holds it (R313). -/
def undoTrack (s : State) (e : Nat × Option Track × Option Track) : State :=
  if Map.get s.trk.slots e.1 ≠ e.2.2 then s
  else
    let m := match e.2.1 with
      | some t => Map.set s.trk.slots e.1 t
      | none => Map.erase s.trk.slots e.1
    { s with trk := { s.trk with slots := m, changed := setInsert s.trk.changed e.1 } }

/-- No CLEAR has fallen since a decision job started: its track changes stand (R313). -/
def tableStands (s : State) (j : Job) : Bool := s.trk.past.all (fun e => decide (e.1 ≤ j.tick))

/-- The lines of a decision job that stopped are hold lines; the track table is as it stood before the job, or as a CLEAR that the job
crossed left it, and the job's end is published (R313, R315). (DESIGN CHOICE, assumption 53.) -/
def stopDecisions (s : State) (j : Job) : State :=
  let s1 := if tableStands s j then j.dec.reverse.foldl (fun s q => q.undo.reverse.foldl undoTrack s) s else s
  let s2 := j.dec.foldl (fun s r =>
    poke (trkEvent s r.route 0) (Reg.TRK_RT_STATUS r.route) (setBits (reg s (Reg.TRK_RT_STATUS r.route)) 15 0 2)) s1
  trkPublish s2 j

/-- Stages of pictures that are due no longer are: COMPOSE slices, and GEN too where `gen` holds. -/
def purgeStages (s : State) (gen : Bool) : State :=
  { s with sch := { s.sch with hud := s.sch.hud.map (fun e => (e.1, { e.2 with
      romDue := e.2.romDue.filter (fun d => d.1 != 5 && !(gen && d.1 == 4)) })) } }

/-- The picture of view start `v`, where it is in progress, ends without a picture; the event is set (R290). -/
def dropPic (s : State) (v k : Nat) : State :=
  let s1 := event s Reg.SYN_VW_EVENTS k
  match s.vw.pic with
  | some p => if p.start = v then purgeStages { s1 with vw := { s1.vw with pic := none } } false else s1
  | none => s1

/-- What stopping a ROM stage job leaves: STOPPED sweeps and hold lines, hold lines, no picture, or a late takeover line; its huddle
comes to a decision point (R374). (DEDUCED, assumption 81.) -/
def romStopped (s : State) (j : Job) : State :=
  let s1 := romRemove s j false
  let s2 := if j.kind = 2 then loseLines (stopSweeps s1 j) j
    else if j.kind = 3 then loseLines (stopDecisions s1 j) j
    else if j.kind = 4 then dropPic s1 j.tick 2
    else if j.kind = 5 then dropPic s1 j.tick 3
    else event s1 Reg.LYS_EVENTS 10
  decisionPoint s2 (topOf s.fab.plan j.huddle)

/-- A ROM stage job starts, or ends at once with NO_CORES (R548). -/
def romStart (s : State) (j : Job) : State :=
  let s1 := romBegin s j
  if romNoCores s j.huddle then romStopped s1 j else s1

/-- The ROM stage jobs that run on a logical core, or on a leaf. -/
def romOnCore (s : State) (l : Nat) : Option Job :=
  (s.sch.hud.flatMap (fun e => e.2.rom)).find? (fun j => j.cores.contains l)
def romOnLeaf (s : State) (leaf : Nat) : List Job :=
  (s.sch.hud.flatMap (fun e => e.2.rom)).filter (fun j => isUnder s.fab.plan leaf j.huddle)

/-- The ROM stage job that runs on a huddle under its own name. -/
def romOf (s : State) (h : Nat) : Option Job :=
  (hudOf s (topOf s.fab.plan h)).rom.find? (fun j => j.huddle == h)

end Sys2Proof.Machine
end

