-- ==== Sys2Proof/Machine/SliverJob.lean ====
section
/-! DEFINITION. Sliver jobs as a whole (R214–R226), the faults, benching and substitution of cores (R236–R243). -/

namespace Sys2Proof.Machine

/-- The checks of R217 in order: the status of the first that fails. -/
def slvCheck (s : State) (leaves : List Huddle) (b : List Byte) (k : Nat) : Option Nat :=
  let p := s.fab.plan
  let flags := fieldLE b 1 1
  let units := fieldLE b 8 4
  let args := fieldLE b 0x10 8
  let argN := fieldLE b 0xC 2
  let red := fieldLE b 0x18 8
  let stride := fieldLE b 0x20 4
  let elems := fieldLE b 0x24 4
  let stats := fieldLE b 0x28 8
  let tiling := fieldLE b 2 2
  let tree := fieldLE b 0xE 2
  let status := fieldLE b 0x30 8
  if 1 < flags ∨ fieldLE b 7 1 ≠ 0 ∨ allZero (slice b 0x38 8) = false
      ∨ [0x10, 0x18, 0x28, 0x30].any (fun o => fieldLE b (o + 5) 3 != 0)
      ∨ leaves.isEmpty = true ∨ leaves.any (fun h => h.squadCount == 0) = true then some stFORMAT
  else if units = 0 then some stEMPTY
  else if fieldLE b 4 3 = 0 ∨ 1048576 < units ∨ 256 < argN ∨ 256 < elems ∨ args % 16 ≠ 0
      ∨ rangeOk s args argN false = false
      ∨ red % 64 ≠ 0 ∨ stride % 64 ≠ 0 ∨ rangeOk s status 8 true = false
      ∨ (List.range k).any (fun i => !rangeOk s (red + i * stride) (4 * elems) true) = true
      ∨ (stats ≠ 0 ∧ (stats % 64 ≠ 0 ∨ rangeOk s stats 8 true = false)) then some stRANGE
  else if (tiling ≠ 0xFFFF ∧ p.tilings.length ≤ tiling) ∨ (tree ≠ 0xFFFF ∧ p.trees.length ≤ tree)
      ∨ leaves.any (fun h => (loadedAt p h.id (fieldLE b 0 1)).isNone) = true then some stFORMAT
  else if leaves.any (fun h => (squadsOf h).any (fun q => (squadOf s q).lost)) then some stNOCORES
  else none

/-- SLIVER_JOB: the entry taken is checked and starts on every active core of its leaves (R216–R222, R405). A job on a line path
first compares its epochs (R52). -/
def startSliver (s : State) (h : Nat) : State :=
  let r := hudOf s h
  match r.taken with
  | none => s
  | some (ctx, desc, kind, child) =>
    if kind ≠ 1 ∨ r.rom.isEmpty = false ∨ r.group.isEmpty = false then s
    else
      let b := unitRead s desc 64
      let parts := takenParts s h false ⟨h, 0, fieldLE b 8 4, 0, 0⟩ child
      let j := newJob s h 1 ctx desc child (parts.map (·.leaf)) b
      let leaves := parts.filterMap (fun x => findHuddle s.fab.plan x.leaf)
      let jl := { j with huddle := ((leaves.head?).map (·.id)).getD h,
                         bytes := if rangeOk s desc 64 false then b else [] }
      if poisoned s desc 64 then
        match (linesOf desc 64).find? (fun l => s.mem.poison.contains l) with
        | some l =>
          let s1 := memUncorr s l (((leaves.head?).map (fun x => readerOf x 1)).getD 59)
          endAtStart s1 h (if poisoned s (desc + 0x30) 8 then { jl with bytes := [] } else jl) stMEMERROR true
        | none => s
      else
        match slvCheck s leaves b parts.length with
        | some code => endAtStart s h jl code (code = stNOCORES)
        | none =>
        match argsPoison s jl with
        | some l => endAtStart (memUncorr s l (((leaves.head?).map (fun x => readerOf x 1)).getD 59)) h jl stMEMERROR true
        | none =>
          let many := decide (1 < parts.length)
          let x := segEpoch s j
          let js := (parts.zip (List.range parts.length)).filterMap (fun p =>
            (findHuddle s.fab.plan p.1.leaf).map (fun y =>
              withVariant s { x.2 with huddle := y.id, rowLo := p.1.rowLo, rowN := p.1.rowN,
                                       child := if many then p.2 else 0 } y))
          js.foldl loadCores (startGroup x.1 h js)

/-- SLIVER_JOB. -/
def execSliverJob (huddle : Byte) (s : State) : Out := .next (startSliver s huddle.toNat)

/-! ## Reduction (R223–R226) -/

/-- A list folded from left to right, empty lists giving nothing. -/
def foldRed (op : Nat) : List (List Nat) → List Nat
  | [] => []
  | x :: r => r.foldl (redList op) x

/-- One level of PAIR: adjacent results combine, an unpaired last one passes up. -/
def pairLevel (op : Nat) : List (List Nat) → List (List Nat)
  | a :: b :: r => redList op a b :: pairLevel op r
  | l => l

/-- PAIR over at most 2^n results. -/
def pairRed (op : Nat) : Nat → List (List Nat) → List Nat
  | 0, l => (l.head?).getD []
  | n + 1, l => pairRed op n (pairLevel op l)

/-- HIER: each squad's cores, then each team's squads, then the teams (R223). -/
def hierRed (s : State) (op : Nat) (cores : List Nat) : List Nat :=
  let part (l : Nat) := (coreOf s l).partialWords
  let squads := (cores.map (· / 16)).eraseDups
  let teams := (squads.map (· / 16)).eraseDups
  foldRed op (teams.map (fun t => foldRed op ((squads.filter (fun q => q / 16 == t)).map (fun q =>
    foldRed op ((cores.filter (fun l => l / 16 == q)).map part)))))

/-- The result of a job's reduction. -/
def reduction (s : State) (j : Job) : List Nat :=
  match s.fab.plan.trees[j.treeIx]? with
  | none => []
  | some t => if t.shape = 0 then hierRed s t.op j.cores
    else pairRed t.op 12 (j.cores.map (fun l => (coreOf s l).partialWords))

/-- A sliver job reduces: REDUCE with contributions (R217). -/
def reduces (j : Job) : Bool := bit (fieldLE j.bytes 1 1) 0 && redElems j != 0

/-- Every core of a job has executed END. -/
def coresEnded (s : State) (j : Job) : Bool := j.cores.all (fun l => (coreOf s l).ended)

/-- REDUCTION_DONE: once every core has ended, the result is written for this leaf's child position, and the leaf's job is
ready to end (R220, R226); a result address that a plan switch has put outside ends the job RANGE (R217, R390). (DESIGN CHOICE,
assumption 107; DEDUCED, assumption 153.) -/
def reductionDone (s : State) (leaf : Nat) : State :=
  let h := topOf s.fab.plan leaf
  match (hudOf s h).group.find? (fun j => j.huddle == leaf && j.kind == 1) with
  | none => s
  | some j =>
    if reduces j && coresEnded s j && !j.reduced then
      let a := fieldLE j.bytes 0x18 8 + j.child * fieldLE j.bytes 0x20 4
      if rangeOk s a (4 * redElems j) true then
        let s1 := jobWrite s a ((reduction s j).flatMap (leBytes 4))
        endLeafOk (setJob s1 h { j with reduced := true }) h { j with reduced := true }
      else coreEnds s h stRANGE
    else s

/-- A list job runs on a leaf. -/
def runsOn (leaf : Nat) (s : State) : Bool := (hudOf s (topOf s.fab.plan leaf)).group.any (fun j => j.huddle == leaf)

/-- REDUCTION_DONE. -/
def execReductionDone (huddle : Byte) (s : State) : Out :=
  .next (underOld s (runsOn huddle.toNat) (fun s => reductionDone s huddle.toNat))

/-! ## Benching and substitution (R235–R243) -/

/-- The state of a squad replaced. -/
def setSquad (s : State) (q : Nat) (x : Squad) : State :=
  { s with slv := { s.slv with squads := Map.set s.slv.squads q x } }

/-- The logical core that a physical slot carries. -/
def logicalOf (x : Squad) (p : Nat) : Option Nat :=
  if x.lost then none
  else if p = 16 then x.sub
  else if x.sub = some p ∨ x.off = some p then none else some p

/-- A core is benched at its detection: marked and logged; the mapping change waits for the Whistle (R238). (DEDUCED, assumption 106.) -/
def benchSlot (s : State) (q p cause : Nat) : State :=
  let x := squadOf s q
  if x.bench.testBit p then s
  else
    let lcn := match logicalOf x p with | some k => q * 16 + k | none => 0xFFFF
    let s1 := setSquad s q { x with bench := x.bench ||| 2 ^ p, fenced := setInsert x.fenced p }
    logEvent (slvEvent (scoutDrop s1 [lcn]) 0) 0x21 6 WARN (arg1 q ++ arg1 p ++ arg1 cause ++ argN 2 lcn)

/-- The leaf that owns a squad in the plan in force. -/
def squadOwner (s : State) (q : Nat) : Option Huddle :=
  if s.fab.inForce then s.fab.plan.huddles.find? (fun h => !h.composite && decide (h.squadFirst ≤ q) && decide (q < h.squadFirst + h.squadCount))
  else none

/-- A pinned huddle over a squad's owner. -/
def pinnedAbove (p : Plan) : Nat → Nat → Option Nat
  | 0, _ => none
  | k + 1, h =>
    match findHuddle p h with
    | none => none
    | some x => if x.pinned then some h else if x.parent = 0xFF then none else pinnedAbove p k x.parent

/-- CORES of a huddle (R68). -/
def hudCores (s : State) (h : Nat) : Nat :=
  sumN ((leavesOf s.fab.plan h).flatMap (fun x => (squadsOf x).map (squadActive s)))

/-- A squad fell short of 16 active cores: REDUCED for its leaf, and a pinned huddle loses its promise (R76, R79). A further short squad of
a huddle whose PIN_BROKEN already reads 1 writes no further entry. (DESIGN CHOICE, assumption 132.) -/
def squadShort (s : State) (q : Nat) : State :=
  match squadOwner s q with
  | none => s
  | some x =>
    let s1 := hudEvent s x.id 2
    match pinnedAbove s.fab.plan 256 x.id with
    | none => s1
    | some h =>
      if (hudOf s1 h).pinBroken then s1
      else
        let s2 := setHud s1 h { hudOf s1 h with pinBroken := true }
        logEvent s2 0x14 2 WARN (arg1 h ++ argN 2 (hudCores s2 h) ++ arg1 q)

/-- Released sliver jobs of a leaf end NO_CORES instead of resuming (R240, R463). -/
def keptNoCores (s : State) (leaf : Nat) : State :=
  let h := topOf s.fab.plan leaf
  let onLeaf (l : List Job) : Bool := l.any (fun j => j.huddle == leaf && j.kind == 1)
  let s1 := s.sch.ctxs.foldl (fun s c =>
    if onLeaf c.2.preempted then
      endKept { s with sch := { s.sch with ctxs := Map.upd s.sch.ctxs c.1 (fun x => { x with preempted := [] }) } } h c.2.preempted stNOCORES
    else s) s
  let r := hudOf s1 h
  if onLeaf r.preempted then endKept (setHud s1 h { r with preempted := [] }) h r.preempted stNOCORES else s1

/-- Every sliver job and ROM stage job that runs on a leaf ends NO_CORES, one that is pre-empted or paused too (R240, R463). -/
def endNoCores (s : State) (leaf : Nat) : State :=
  let h := topOf s.fab.plan leaf
  let s1 := keptNoCores ((romOnLeaf s leaf).foldl romStopped s) leaf
  if (hudOf s1 h).group.any (fun j => j.huddle == leaf && j.kind == 1) then coreEnds s1 h stNOCORES else s1

/-- The change that one benched slot makes to its squad (R239, R240). -/
def squadChange (s : State) (q p : Nat) : State :=
  let x := squadOf s q
  let change (s : State) (kind k : Nat) : State :=
    logEvent s 0x22 6 WARN (arg1 q ++ arg1 kind ++ arg1 k ++ arg1 p ++ arg1 (squadActive s q))
  if x.lost then s
  else
    match logicalOf x p with
    | none => if p = 16 then change (setSquad s q { x with spare := false }) 1 0xFF else s
    | some k =>
      if x.spare then
        change (slvEvent (setSquad s q { x with spare := false, sub := some k }) 1) 0 k
      else if x.off.isNone then
        let s1 := slvEvent (setSquad s q { x with off := some k, sub := if p = 16 then none else x.sub }) 2
        squadShort (change s1 2 k) q
      else
        let s1 := slvEvent (setSquad s q { x with lost := true, bench := 0x1FFFF, spare := false }) 3
        let own := squadOwner s1 q
        let s2 := logEvent s1 0x23 6 FAULT (arg1 q ++ arg1 ((own.map (·.id)).getD 0xFF))
        match own with
        | some o => endNoCores (squadShort s2 q) o.id
        | none => s2

/-- At a Whistle, the fenced slots of every squad take effect in ascending slot (R238, R239; R42 step 6). -/
def applySubstitution (s : State) : State :=
  s.slv.squads.foldl (fun s e =>
    let x := squadOf s e.1
    x.fenced.foldl (fun s p => squadChange s e.1 p) (setSquad s e.1 { x with fenced := [] })) s

/-- CORE_FAULT (R236): an error that cannot be corrected fences the core, its job stops with CORE_FAULT, and it is benched. -/
def coreFault (s : State) (q p : Nat) (parity : Bool) : State :=
  let x := squadOf s q
  let told (l ctx : Nat) : State := logEvent s 0x20 6 FAULT (argN 2 l ++ arg1 q ++ arg1 p ++ arg1 (b2n parity) ++ arg1 ctx)
  if x.bench.testBit p then s
  else
    match logicalOf x p with
    | none => benchSlot s q p 1
    | some k =>
      let l := q * 16 + k
      match jobOfCore s l with
      | some (h, j) =>
        if (coreOf s l).active then
          coreEnds (benchSlot (told l j.ctx) q p 1) h stCOREFAULT
        else benchSlot (told l 0xFF) q p 1
      | none =>
        match romOnCore s l with
        | some j => romStopped (romCounted (benchSlot (told l 0x40) q p 1) j) j
        | none => benchSlot (told l 0xFF) q p 1

/-- A single-bit error of a local memory is corrected and counted (R236, R244). -/
def coreCorrected (s : State) : State := countSat (slvEvent s 6) Reg.SLV_MEM_CORR 1

/-- CORE_FAULT: the two kinds of error of R236. (DEDUCED, assumption 20.) -/
def execCoreFault (squad : Fin 256) (slot : Fin 17) (error : CoreError) (s : State) : Out :=
  let l := squad.val * 16 + (logicalOf (squadOf s squad.val) slot.val).getD 0
  let fault (parity : Bool) : State := underOld s (fun s => (jobOfCore s l).isSome || (romOnCore s l).isSome)
    (fun s => coreFault s squad.val slot.val parity)
  .next (match error with
    | .corrected => coreCorrected s
    | .uncorrectable => fault false
    | .parity => fault true)

/-- Every unused spare starts its check at a Whistle that SLV_SPARE_CHECK selects (R241). -/
def startSpareChecks (s : State) (w : Nat) : State :=
  let period := fld s Reg.SLV_SPARE_CHECK 15 0
  if period = 0 ∨ w % period ≠ 0 then s
  else
    (List.range 256).foldl (fun s q =>
      let x := squadOf s q
      if x.spare && !x.bench.testBit 16 then setSquad s q { x with checking := true } else s) s

/-- SPARE_CHECK_END: a spare that fails is benched (R241). -/
def execSpareCheckEnd (squad : Fin 256) (passed : Bool) (s : State) : Out :=
  let x := squadOf s squad.val
  .next (if x.checking then
      let s1 := setSquad s squad.val { x with checking := false }
      if passed then s1 else benchSlot s1 squad.val 16 3
    else s)

/-- The cores of a stopped job that the shot clock benches: those named as having retired nothing, outside any wait
(R235). -/
def benchStuck (s : State) (j : Job) (stuck : List Nat) : State :=
  let waits (l : Nat) : Bool := match (coreOf s l).wait with
    | none => false
    | some .again => false
    | some _ => true
  (j.cores.filter (fun l => stuck.contains l && !waits l)).foldl (fun s l =>
    benchSlot s (l / 16) (slotOf (squadOf s (l / 16)) (l % 16)) 0) s

/-- The shot clock stops a ROM stage job; how many of its units are complete, the model leaves free (R56, R235). -/
def shotRom (s : State) (j : Job) (stuck : List Nat) : State :=
  let s1 := shotReport (drawFree s) j (freeValue s % 2 ^ 32)
  let s2 := (leavesOf s1.fab.plan j.huddle).foldl (fun s x => hudEvent s x.id 0) s1
  let s3 := (j.cores.filter (fun l => stuck.contains l)).foldl (fun s l =>
    benchSlot s (l / 16) (slotOf (squadOf s (l / 16)) (l % 16)) 0) s2
  romStopped (romCounted (slvEvent s3 5) j) j

/-- The shot clock's reports on a leaf's list job, which it stops or finds stopped on a tag mismatch (R56, R204, R235). -/
def shotReports (s : State) (j : Job) (n : Nat) : State :=
  let s1 := shotReport (hudEvent s j.huddle 0) j n
  if j.kind = 0 then (match findHuddle s1.fab.plan j.huddle with | some x => mxeEvent s1 (enginesOf s1 x) 2 | none => s1)
  else slvEvent s1 5

/-- The job of a leaf that a tag mismatch stopped in this very cycle, with the tiles or units complete of its entry (R204). -/
def skewNow (s : State) (h leaf : Nat) : Option (Job × Nat) :=
  match (hudOf s h).lastSkew with
  | some (at_, js, n) => if at_ = s.clk.now then (js.find? (fun j => j.huddle == leaf)).map (fun j => (j, n)) else none
  | none => none

/-- The shot clock stops the list entry that runs on a top-level huddle (R56, R57, R201, R235). A Matrix Engine job whose last tile
is complete ends OK; a job that a tag mismatch stopped in this very cycle keeps BLOCK_SKEW, and both are reported (R204).
(DESIGN CHOICE, assumption 119.) -/
def shotList (s : State) (h leaf : Nat) (stuck : List Nat) : State :=
  let r := hudOf s h
  match skewNow s h leaf with
  | some (j, n) => let s1 := shotReports s j n; setHud s1 h { hudOf s1 h with lastSkew := none }
  | none =>
    match r.group.find? (fun j => j.huddle == leaf) with
    | none => s
    | some j =>
      if j.kind = 0 ∧ meDone j = true then endLeafOk s h j
      else
        let n := groupComplete r
        let s1 := shotReports s j n
        let s2 := if j.kind = 0 then s1 else r.group.foldl (fun s g => benchStuck s g stuck) s1
        stopEntry s2 h stSHOT 0 0 n

end Sys2Proof.Machine
end

