-- ==== Sys2Proof/Machine/Plan.lean ====
section
/-! DEFINITION. Uzon plans (R60–R73, R85, R546, R553): reading a plan's bytes, and the checks of its verification. -/

namespace Sys2Proof.Machine

/-! ## Sections (R60–R63) -/

/-- One entry of the section table. -/
structure Section where
  typ : Nat
  flags : Nat
  off : Nat
  size : Nat
  clean : Bool
  deriving DecidableEq, Repr

/-- The section table of a plan. -/
def sectionsOf (b : List Byte) : List Section :=
  (List.range (fieldLE b 0x0C 2)).map (fun i =>
    let o := 256 + 16 * i
    { typ := fieldLE b o 2, flags := fieldLE b (o + 2) 2, off := fieldLE b (o + 4) 4, size := fieldLE b (o + 8) 4,
      clean := fieldLE b (o + 12) 4 == 0 })

/-- The body of a section type, none when the plan has none. -/
def bodyOf (b : List Byte) (typ : Nat) : Option (List Byte) :=
  ((sectionsOf b).find? (fun x => x.typ == typ)).map (fun x => slice b x.off x.size)

/-- The body, empty where the section is absent. -/
def bodyD (b : List Byte) (typ : Nat) : List Byte := (bodyOf b typ).getD []

/-- Record `i` of `n` bytes after a 16-byte header. -/
def recordOf (l : List Byte) (n i : Nat) : List Byte := slice l (16 + n * i) n

/-! ## Records -/

/-- A huddle record (R66). -/
def parseHuddle (r : List Byte) : Huddle :=
  { id := fieldLE r 0 1, parent := fieldLE r 1 1, composite := fieldLE r 2 1 == 1, pinned := bit (fieldLE r 3 1) 0,
    children := fieldLE r 4 1, split := fieldLE r 5 1, squadFirst := fieldLE r 8 1, squadCount := fieldLE r 0xA 2,
    engineMask := fieldLE r 0xC 2, tree := fieldLE r 0x10 2, tiling := fieldLE r 0x12 2, meSram := fieldLE r 0x14 1 }

/-- A route record (R71). -/
def parseRoute (r : List Byte) : Route :=
  let t := fieldLE r 6 1
  { route := fieldLE r 0 1, source := fieldLE r 1 1, playbook := fieldLE r 2 1, synHud := fieldLE r 3 1,
    segHud := fieldLE r 4 1, decHud := fieldLE r 5 1, synTick := bits t 1 0, segTick := bits t 3 2, decTick := bits t 5 4,
    viewTile := fieldLE r 7 1, lead := fieldLE r 8 2, chanFirst := fieldLE r 0xA 2, chanCount := fieldLE r 0xC 2 }

/-- A tensor record (R180). -/
def parseTensor (r : List Byte) : Tensor :=
  let f := fieldLE r 3 1
  { fmt := fieldLE r 2 1, guard := bit f 0, weight := bit f 1, gran := bits f 3 2, dq := fieldLE r 4 1,
    shift := fieldSLE r 5 1, zero := fieldLE r 6 1, rank := fieldLE r 7 1,
    dims := (List.range 4).map (fun i => fieldLE r (8 + 4 * i) 4), producer := fieldLE r 0x18 1 }

/-- A tiling record (R221). -/
def parseTiling (r : List Byte) : Tiling :=
  { order16 := fieldLE r 2 1, order15 := fieldLE r 3 1, chunk16 := fieldLE r 4 2, chunk15 := fieldLE r 6 2,
    tree15 := fieldLE r 8 2, valid15 := fieldLE r 0xA 1 == 1 }

/-- A program from its index entry (R227). -/
def parseProgram (body : List Byte) (i : Nat) : Program :=
  let e := recordOf body 16 i
  let o := fieldLE e 0 4
  { words := (List.range (fieldLE e 4 4)).map (fun k => fieldLE body (o + 4 * k) 4), entry := fieldLE e 8 2,
    huddle := fieldLE e 0xA 1 }

/-- A playbook instruction (R149). -/
def parseVInsn (r : List Byte) : VInsn :=
  let w := fieldLE r 0 4
  { op := bits w 7 0, a := bits w 11 8, b := bits w 15 12, c := bits w 19 16, level := bits w 21 20, imm := fieldLE r 4 4 }

/-- A playbook from its index entry (R147, R148). -/
def parsePlaybook (body : List Byte) (i : Nat) : Playbook :=
  let o := fieldLE body (0x10 + 8 * i) 4
  { full := fieldLE body o 1, band := fieldLE body (o + 1) 1, sensor := fieldLE body (o + 2) 1,
    insns := (List.range (fieldLE body (o + 4) 2)).map (fun k => parseVInsn (slice body (o + 16 + 8 * k) 8)) }

/-- The JOBS entries from a place on: prefix kind and template bytes (R229), at most `n`. -/
def parseJobs : Nat → List Byte → List (Nat × List Byte)
  | 0, _ => []
  | n + 1, l =>
    let k := fieldLE l 0 1
    (k, slice l 8 (descSize k)) :: parseJobs n (l.drop (8 + descSize k))

/-- A plan read from its bytes (R60–R73). -/
def parsePlan (b : List Byte) : Plan :=
  let tm := bodyD b 1
  let hs := (List.range ((bodyD b 2).length / 32)).map (fun i => parseHuddle (slice (bodyD b 2) (32 * i) 32))
  let sh := bodyD b 3
  let per := fieldLE tm 0 4
  let pb := bodyD b 0xA
  let npb := if pb.isEmpty then 0 else fieldLE pb 0 2
  { hash := sha384 (b.take (fieldLE b 8 4 - 96)), id := fieldLE b 0x10 4, version := fieldLE b 0x14 4,
    benchEligible := bit (fieldLE b 0x0E 2) 0, tickNs := bits per 19 0, tickFrac := bits per 29 20,
    minTick := fieldLE tm 4 4, maxTick := fieldLE tm 8 4, viewDiv := fieldLE tm 0xC 1,
    huddles := hs, owners := (List.range 256).map (fun i => fieldLE sh (2 * i) 2), gather := (sh.drop 512).map (·.toNat),
    routes := (List.range ((bodyD b 4).length / 16)).map (fun i => parseRoute (slice (bodyD b 4) (16 * i) 16)),
    contexts := (List.range (fieldLE (bodyD b 0xB) 0 2)).map (fun i => parseCtx (recordOf (bodyD b 0xB) 32 i)),
    templates := parseJobs (fieldLE (bodyD b 9) 0 2) ((bodyD b 9).drop 16),
    trees := (List.range (fieldLE (bodyD b 5) 0 2)).map (fun i =>
      let r := recordOf (bodyD b 5) 8 i; { shape := fieldLE r 2 1, op := fieldLE r 3 1 }),
    tilings := (List.range (fieldLE (bodyD b 6) 0 2)).map (fun i => parseTiling (recordOf (bodyD b 6) 16 i)),
    tensors := (List.range (fieldLE (bodyD b 7) 0 2)).map (fun i => parseTensor (recordOf (bodyD b 7) 32 i)),
    programs := (List.range (fieldLE (bodyD b 8) 0 2)).map (parseProgram (bodyD b 8)),
    playbooks := (List.range npb).map (parsePlaybook pb),
    pattern := if fieldLE pb 2 1 = 1 then some (slice pb (0x10 + 8 * npb) 1024) else none }

/-! ## Checks (R85); each answers the codes it finds broken -/

/-- The failure codes of R85. -/
def pfFORMAT : Nat := 0x01
def pfSIGNATURE : Nat := 0x02
def pfDEVICE : Nat := 0x03
def pfTIMING : Nat := 0x04
def pfNEST : Nat := 0x05
def pfEMPTY : Nat := 0x06
def pfOVERLAP : Nat := 0x07
def pfPIN : Nat := 0x08
def pfNOFALLBACK : Nat := 0x09
def pfSHARE : Nat := 0x0A
def pfRINGSHORT : Nat := 0x0B
def pfROUTE : Nat := 0x0C
def pfZERODIM : Nat := 0x0D

/-- A condition that breaks a rule gives its code. -/
def broken (c : Bool) (code : Nat) : List Nat := if c then [code] else []

/-- Two ranges share a byte. -/
def overlaps (a b : Nat × Nat) : Bool := decide (a.1 < b.1 + b.2) && decide (b.1 < a.1 + a.2)

/-- Two ranges of a list share a byte. -/
def anyOverlap : List (Nat × Nat) → Bool
  | [] => false
  | x :: r => r.any (overlaps x) || anyOverlap r

/-- A value occurs twice. -/
def repeats (l : List Nat) : Bool := l.eraseDups.length != l.length

/-- The header breaks R61 in a way that leaves the sections impossible to locate (R553). Which faults do so the spec does not list: a bad
MAGIC, a TOTAL_SIZE other than the staged size, more than 32 sections, or no room for the header, the table and the signature.
(DESIGN CHOICE, assumption 128.) -/
def headerLost (b : List Byte) (size : Nat) : Bool :=
  fieldLE b 0 4 != 0x4C505A55 || fieldLE b 8 4 != size || decide (size < 352) || decide (32 < fieldLE b 0x0C 2)
    || decide (size < 352 + 16 * fieldLE b 0x0C 2)

/-- Header and section table (R61, R62, R546). -/
def headerCodes (b : List Byte) (size : Nat) : List Nat :=
  let n := fieldLE b 0x0C 2
  let ss := sectionsOf b
  let known (x : Section) : Bool := decide (1 ≤ x.typ) && decide (x.typ ≤ 0xB)
  let content := size - 96
  broken (headerLost b size || fieldLE b 4 2 != 1 || fieldLE b 6 2 != 0x100 || size % 16 != 0
      || decide (33554432 < size) || decide (n < 5) || decide (1 < fieldLE b 0x0E 2) || !allZero (slice b 0x1A 2)
      || !allZero (slice b 0x28 0xD8)) pfFORMAT
    ++ (if headerLost b size then [] else
      broken (ss.any (fun x => !x.clean || decide (1 < x.flags) || x.off % 16 != 0 || decide (content < x.off + x.size)
          || (!known x && x.flags % 2 == 0))
        || anyOverlap ((0, 256 + 16 * n) :: (ss.filter (fun x => x.size != 0)).map (fun x => (x.off, x.size)))
        || repeats (ss.map (·.typ))
        || [1, 2, 3, 5, 6].any (fun t => !ss.any (fun x => x.typ == t))) pfFORMAT)

/-- TIMING (R65). -/
def timingCodes (t : List Byte) : List Nat :=
  let per := fieldLE t 0 4
  let tick := bits per 19 0
  let lo := fieldLE t 4 4
  let hi := fieldLE t 8 4
  broken (t.length != 16 || bits per 31 30 != 0 || !allZero (slice t 0xD 3)) pfFORMAT
    ++ broken (tick == 0) pfZERODIM
    ++ broken (decide (lo < 208333) || decide (833333 < hi) || decide (hi < lo)
      || (tick != 0 && (decide (tick < lo) || decide (hi < tick)))) pfTIMING

/-- Following PARENT reaches 0xFF (R67). -/
def reachesTop (p : Plan) : Nat → Nat → Bool
  | 0, _ => false
  | k + 1, h =>
    match findHuddle p h with
    | none => false
    | some x => x.parent == 0xFF || reachesTop p k x.parent

/-- An ancestor of a huddle, or the huddle itself, is pinned. -/
def pinnedOver (p : Plan) (h : Nat) : Bool := (pinnedAbove p 256 h).isSome

/-- HUDDLES (R66, R67). -/
def huddleCodes (p : Plan) (body : List Byte) : List Nat :=
  let rs := (List.range (body.length / 32)).map (fun i => slice body (32 * i) 32)
  let hs := p.huddles
  let leaves := hs.filter (fun h => !h.composite)
  broken (body.length % 32 != 0 || body.isEmpty || decide (8160 < body.length)
      || rs.any (fun r => !allZero (slice r 6 2) || fieldLE r 9 1 != 0 || !allZero (slice r 0xE 2)
        || !allZero (slice r 0x15 11) || decide (1 < fieldLE r 2 1) || decide (1 < fieldLE r 3 1)
        || decide (2 < fieldLE r 5 1) || fieldLE r 0 1 == 0xFF)
      || hs.any (fun h => if h.composite then decide (h.children < 2) || decide (16 < h.children)
          || (h.engineMask == 0 && h.meSram != 0)
        else h.children != 0 || h.split != 0)
      || repeats (hs.map (·.id))) pfFORMAT
    ++ broken (hs.any (fun h =>
        (h.parent != 0xFF && !(match findHuddle p h.parent with | some x => x.composite | none => false))
          || !reachesTop p 256 h.id
          || (h.composite && ((childrenOf p h.id).length != h.children || h.squadCount != 0 || h.engineMask != 0))
          || decide (256 < h.squadFirst + h.squadCount))) pfNEST
    ++ broken (leaves.any (fun h => h.squadCount == 0 && h.engineMask == 0)) pfEMPTY
    ++ broken (repeats (leaves.flatMap squadsOf) || repeats (leaves.flatMap (fun h => setPositions 16 h.engineMask))) pfOVERLAP
    ++ broken (hs.any (fun h => !h.pinned && h.parent != 0xFF && pinnedOver p h.parent)) pfPIN
    ++ broken (hs.any (fun h => decide (p.trees.length ≤ h.tree)
        || (match p.tilings[h.tiling]? with | some t => !t.valid15 | none => true))) pfNOFALLBACK

/-- SHARES (R69, R70). The owner entry 0x00FF, which no row of R69 lists and which does not lie above 0x0103, fails with SHARE as an entry
that names no huddle does; the Lmax of a plan without routes is 0, so that its ring needs one line. (DESIGN CHOICE, assumptions 129 and
130.) -/
def shareCodes (p : Plan) (body : List Byte) : List Nat :=
  let comps := (p.huddles.filter (·.composite)).length
  let staging := (lentOf p.owners).length
  let lmax := (p.routes.map (·.lead)).foldl max 0
  let leaves := p.huddles.filter (fun h => !h.composite)
  broken (body.length != 512 + comps || p.owners.any (fun o => decide (0x103 < o)) || p.gather.any (· != 0)) pfFORMAT
    ++ broken (p.owners.any (fun o => decide (o < 0xFF) && (findHuddle p o).isNone) || p.owners.any (· == 0xFF)
      || decide (staging < 64) || decide (256 < staging)
      || (List.range 16).any (fun e => decide (64 < sumN ((leaves.filter (fun h => h.engineMask.testBit e)).map (·.meSram))))
      || leaves.any (fun h => if h.engineMask = 0 then h.meSram != 0 else h.meSram == 0 || decide (64 < h.meSram))) pfSHARE
    ++ broken (decide (ringLines (ringBanks p.owners).length < lmax + 1)) pfRINGSHORT

/-- The ports that a route's SOURCE names (R71). -/
def portsOf (source : Nat) : List Nat := if source < 0x80 then [source] else [2 * (source - 0x80), 2 * (source - 0x80) + 1]

/-- ROUTES (R71, R72, R152); a set bit in [7:6] of STAGE_TICKS breaks the format. (DESIGN CHOICE, assumption 141.) -/
def routeCodes (p : Plan) (body : List Byte) : List Nat :=
  let rs := p.routes
  let known (h : Nat) : Bool := (findHuddle p h).isSome
  let raw := (List.range (body.length / 16)).map (fun i => slice body (16 * i) 16)
  broken (body.length % 16 != 0 || decide (256 < body.length)
      || raw.any (fun r => decide (63 < fieldLE r 6 1) || !allZero (slice r 0xE 2))
      || rs.any (fun r => r.playbook != 0xFF && decide (p.playbooks.length ≤ r.playbook))) pfFORMAT
    ++ broken (repeats (rs.flatMap (fun r => portsOf r.source)) || repeats (rs.map (·.route))
      || anyOverlap ((rs.filter (fun r => r.chanCount != 0)).map (fun r => (r.chanFirst, r.chanCount)))
      || rs.any (fun r => r.synTick != 0 || decide (r.segTick < r.synTick) || decide (r.decTick < r.segTick)
        || decide (r.lead < r.decTick + 1) || decide (1040 < r.chanFirst + r.chanCount) || !known r.synHud
        || !known r.segHud || !known r.decHud || decide (15 < r.route)
        || !(decide (r.source ≤ 0x0F) || (decide (0x80 ≤ r.source) && decide (r.source ≤ 0x87)))
        || decide (r.lead < 2) || decide (1023 < r.lead))) pfROUTE

/-- The 16-byte header of a counted section: COUNT within bounds, the rest zero, and the exact size (R546). -/
def countedBad (body : List Byte) (lo hi rec : Nat) : Bool :=
  let n := fieldLE body 0 2
  decide (n < lo) || decide (hi < n) || !allZero (slice body 2 14) || body.length != 16 + rec * n

/-- TREES (R223). -/
def treeCodes (body : List Byte) : List Nat :=
  broken (countedBad body 1 255 8
    || (List.range (fieldLE body 0 2)).any (fun i =>
      let r := recordOf body 8 i
      fieldLE r 0 2 != i || decide (1 < fieldLE r 2 1) || decide (5 < fieldLE r 3 1) || !allZero (slice r 4 4))) pfFORMAT

/-- TILINGS (R221). -/
def tilingCodes (p : Plan) (body : List Byte) : List Nat :=
  broken (countedBad body 1 255 16
    || (List.range (fieldLE body 0 2)).any (fun i =>
      let r := recordOf body 16 i
      let t := parseTiling r
      fieldLE r 0 2 != i || decide (1 < t.order16) || decide (1 < t.order15) || (t.order16 == 1 && t.chunk16 == 0)
        || (t.order15 == 1 && t.chunk15 == 0) || decide (4096 < t.chunk16) || decide (4096 < t.chunk15)
        || (t.tree15 != 0xFFFF && decide (p.trees.length ≤ t.tree15)) || decide (1 < fieldLE r 0xA 1)
        || !allZero (slice r 0xB 5))) pfFORMAT
    ++ broken (p.tilings.any (fun t => !t.valid15)) pfNOFALLBACK

/-- TENSORS (R180, R181). -/
def tensorCodes (p : Plan) (body : List Byte) : List Nat :=
  let n := fieldLE body 0 2
  broken (p.tensors.any (fun t => t.dims.any (· == 0))) pfZERODIM
    ++ broken (p.tensors.any (fun t => t.guard && pinnedOver p t.producer)) pfPIN
    ++ broken (countedBad body 0 4095 32
      || (List.range n).any (fun i =>
        let r := recordOf body 32 i
        let t := parseTensor r
        fieldLE r 0 2 != i || decide (8 < t.fmt) || t.gran == 3 || decide (15 < fieldLE r 3 1) || !allZero (slice r 0x19 7)
          || decide (t.shift < -32) || decide (31 < t.shift)
          || (t.zero != 0 && t.fmt != 1 && t.fmt != 3) || (t.fmt == 1 && decide (15 < t.zero))
          || t.rank == 0 || decide (4 < t.rank)
          || (t.dims.drop t.rank).any (fun d => d != 0 && d != 1)
          || (t.dq != 0 && !t.weight) || (t.dq == 1 && !isInt4 t.fmt) || decide (2 < t.dq)
          || (t.guard && (t.weight || decide (6 ≤ t.fmt)))
          || (if t.weight then t.producer != 0xFF else (findHuddle p t.producer).isNone))) pfFORMAT

/-- CODE (R227, R228, R546). -/
def codeCodes (p : Plan) (body : List Byte) : List Nat :=
  let n := fieldLE body 0 2
  let items := (List.range n).map (fun i => (fieldLE (recordOf body 16 i) 0 4, 4 * fieldLE (recordOf body 16 i) 4 4))
  let leaves := p.huddles.filter (fun h => !h.composite)
  broken (n == 0 || decide (255 < n) || !allZero (slice body 2 14) || decide (body.length < 16 + 16 * n)
    || (List.range n).any (fun i => !allZero (slice (recordOf body 16 i) 0xB 5))
    || items.any (fun x => x.1 % 4 != 0 || decide (body.length < x.1 + x.2))
    || anyOverlap ((0, 16 + 16 * n) :: items.filter (fun x => x.2 != 0))
    || p.programs.any (fun x => decide (x.words.length ≤ x.entry) || (findHuddle p x.huddle).isNone
      || x.words.any (fun w => (sliverDecode 0 (BitVec.ofNat 32 w)).isNone))
    || leaves.any (fun h => decide (8192 < sumN (p.programs.map (fun x => if isUnder p h.id x.huddle then x.words.length else 0))))) pfFORMAT

/-- The bytes that `n` JOBS entries need, none for an unknown KIND (R546). -/
def jobsSize : Nat → List Byte → Option Nat
  | 0, _ => some 0
  | n + 1, l =>
    let k := fieldLE l 0 1
    if 1 < k ∨ allZero (slice l 1 7) = false then none
    else (jobsSize n (l.drop (8 + descSize k))).map (fun m => m + 8 + descSize k)

/-- JOBS (R229). -/
def jobCodes (body : List Byte) : List Nat :=
  let n := fieldLE body 0 2
  broken (decide (4095 < n) || !allZero (slice body 2 14)
    || (match jobsSize n (body.drop 16) with | some m => body.length != 16 + m | none => true)) pfFORMAT

/-- The indexes of an entry, from its first instruction up to its END; none where it reaches the end without one (R148,
R152). -/
def entryRun (l : List VInsn) (start : Nat) : Option (List VInsn) :=
  let r := l.drop start
  let body := r.takeWhile (fun x => x.op != 0)
  if start < l.length ∧ body.length < r.length then some body else none

/-- A set operand of CUR. -/
def isCurSet (x : Nat) : Bool := decide (x < 4)
def isPrevSet (x : Nat) : Bool := decide (8 ≤ x) && decide (x < 12)

/-- The operand codes and immediate of an instruction break R149 or R152. -/
def vinsnBad (x : VInsn) : Bool :=
  if x.op = 1 then decide (2 < x.a)
  else if x.op = 2 then decide (2 < x.a) || !(isCurSet x.b || x.b == 15) || !isCurSet x.c || decide (2048 < bits x.imm 27 16)
  else if x.op = 3 then !isCurSet x.a
  else if x.op = 4 then !isCurSet x.a || !(isCurSet x.b || isPrevSet x.b)
  else if x.op = 5 then !isPrevSet x.a || !isCurSet x.b
  else if x.op = 6 then !isCurSet x.a
  else if x.op = 8 then !(isCurSet x.a || isPrevSet x.a || x.a == 15)
  else decide (9 < x.op)

/-- The CUR sets that an instruction reads and writes. -/
def vReads (x : VInsn) : List Nat :=
  (if x.op = 2 then [x.b] else if x.op = 3 ∨ x.op = 6 ∨ x.op = 8 then [x.a] else if x.op = 4 then [x.a, x.b] else []).filter isCurSet
def vWrites (x : VInsn) : List Nat := if x.op = 2 then [x.c] else if x.op = 5 then [x.b] else []

/-- An instruction of an entry reads a CUR set that none before it writes. -/
def readsUnwritten : List Nat → List VInsn → Bool
  | _, [] => false
  | w, x :: r => (vReads x).any (fun k => !w.contains k) || readsUnwritten (w ++ vWrites x) r

/-- A playbook breaks R152. -/
def playbookBad (body : List Byte) (i : Nat) : Bool :=
  let o := fieldLE body (0x10 + 8 * i) 4
  let size := fieldLE body (0x14 + 8 * i) 4
  let x := parsePlaybook body i
  let n := x.insns.length
  let raw := (List.range n).map (fun k => fieldLE body (o + 16 + 8 * k) 4)
  let work (e : Nat) : Bool := e != 0xFF && (match entryRun x.insns e with
    | some l => readsUnwritten [] l || l.any (fun i => i.op == 9)
    | none => true)
  fieldLE body (o + 3) 1 != 0 || !allZero (slice body (o + 6) 10) || n == 0 || decide (256 < n) || decide (size < 16 + 8 * n)
    || raw.any (fun w => bits w 31 22 != 0) || x.insns.any vinsnBad
    || work x.full || work x.band
    || (x.sensor != 0xFF && !((x.insns[x.sensor]?).map (·.op) == some 9 && (x.insns[x.sensor + 1]?).map (·.op) == some 0))
    || (List.range n).any (fun k => (x.insns[k]?).map (·.op) == some 9 && !(x.sensor != 0xFF && k == x.sensor))

/-- PLAYBOOKS (R147–R152, R546). -/
def playbookCodes (body : List Byte) : List Nat :=
  let n := fieldLE body 0 2
  let pat := fieldLE body 2 1
  let top := 16 + 8 * n + (if pat = 1 then 1024 else 0)
  let items := (List.range n).map (fun i => (fieldLE body (0x10 + 8 * i) 4, fieldLE body (0x14 + 8 * i) 4))
  broken (n == 0 || decide (64 < n) || decide (1 < pat) || !allZero (slice body 3 13) || decide (body.length < top)
    || items.any (fun x => x.1 % 8 != 0 || decide (body.length < x.1 + x.2))
    || anyOverlap ((0, top) :: items.filter (fun x => x.2 != 0))
    || (pat == 1 && (slice body (16 + 8 * n) 1024).any (fun b => decide (b.toInt < -15) || decide (15 < b.toInt)))
    || (List.range n).any (playbookBad body)) pfFORMAT

/-- CONTEXTS (R368, R369). -/
def contextCodes (p : Plan) (body : List Byte) : List Nat :=
  let n := fieldLE body 0 2
  let rs := (List.range n).map (recordOf body 32)
  broken (countedBad body 0 32 32 || rs.any (ctxFormatBad p) || repeats (p.contexts.map (·.id))
    || (List.range n).any (fun i => match p.contexts[i]? with
      | some c => ctxPlanBad p c (p.contexts.take i)
      | none => false)) pfFORMAT
    ++ broken (decide ((poolOf p).length < sumN (p.contexts.map CtxRec.share))) pfSHARE

/-- Signature and KEY_ID (R64). -/
def signatureCodes (b : List Byte) (hash key : List Byte) (size : Nat) : List Nat :=
  broken (slice b 0x20 8 != (sha384 key).take 8 || !ecdsaVerify key hash (slice b (size - 96) 96)) pfSIGNATURE

/-- The part's own limits (R61). -/
def deviceCodes (s : State) (b : List Byte) : List Nat :=
  broken (!bit (fieldLE b 0x19 1) (b2n s.gradeX) || decide (fld s Reg.GEN_ID 23 20 < fieldLE b 0x18 1)) pfDEVICE

/-- The key that plans are verified against: the owner key, else the Tuirno key (R64). -/
def planKey (s : State) : List Byte := if s.sec.ownerKey.isEmpty then Config.tuirnoKey else s.sec.ownerKey

/-- A section's check, where the plan has the section. -/
def inSection (b : List Byte) (typ : Nat) (f : List Byte → List Nat) : List Nat :=
  match bodyOf b typ with
  | some x => f x
  | none => []

/-- Every code that a plan of `size` staged bytes breaks (R553). -/
def planCodes (s : State) (b : List Byte) (size : Nat) : List Nat :=
  if headerLost b size then [pfFORMAT]
  else
    let p := parsePlan b
    headerCodes b size ++ signatureCodes b p.hash (planKey s) size ++ deviceCodes s b
      ++ inSection b 1 timingCodes ++ inSection b 2 (huddleCodes p) ++ inSection b 3 (shareCodes p)
      ++ routeCodes p (bodyD b 4)
      ++ inSection b 5 treeCodes ++ inSection b 6 (tilingCodes p) ++ inSection b 7 (tensorCodes p)
      ++ inSection b 8 (codeCodes p) ++ inSection b 9 jobCodes ++ inSection b 0xA playbookCodes
      ++ inSection b 0xB (contextCodes p)

/-- The code that verification reports: the lowest broken, none for a plan that passes (R553). (DEDUCED, assumption 46.) -/
def planVerdict (s : State) (b : List Byte) (size : Nat) : Option Nat :=
  match planCodes s b size with
  | [] => none
  | c :: r => some (r.foldl min c)

end Sys2Proof.Machine
end

