-- ==== Sys2Proof/Machine/BoxDecode.lean ====
section
/-! DEFINITION. The box decoder (R198, R199): the list that a BOX_DECODE job leaves at OUT_DATA. It runs only in the built-in check of
each start (R205), on an image and weights in on-die ROM that the spec does not print; a list entry that names it ends FORMAT. -/

namespace Sys2Proof.Machine

/-! ## exp2, rounded correctly -/

/-- ln 2 with 440 fraction bits: 2 × Σ (1/3)^(2k+1) ÷ (2k+1), from the term for `i`. -/
def ln2Series : Nat → Nat → Int → Int
  | 0, _, _ => 0
  | n + 1, i, t => t / (i : Int) + ln2Series n (i + 2) (t / 9)

def fixLn2 : Int := 2 * ln2Series 150 1 (fixOne / 3)

/-- The series Σ r^i ÷ i!, from the term for `i`. -/
def expSeries (r : Int) : Nat → Nat → Int → Int
  | 0, _, _ => 0
  | n + 1, i, t => t + expSeries r n (i + 1) (fixMul t r / ((i + 1 : Nat) : Int))

/-- 2 to the power of an FP32 number, rounded once. -/
def fexp2 (a : F32) : F32 :=
  match ofF a with
  | .nan _ => a
  | .inf n => if n then 0 else a
  | .fin n m e =>
    if 1000 < e + (m.log2 : Int) then (if n then 0 else toF (.inf false))
    else
      let x := (Fp.fin n m e).toFix
      let k := x / fixOne
      if k < -1000 then 0
      else if 1000 < k then toF (.inf false)
      else toF (.fin false (expSeries (fixMul (x % fixOne) fixLn2) 120 0 fixOne).toNat (k - 440))

/-! ## Candidates and suppression (R198) -/

/-- A candidate box in FP32: corners, score, anchor and position. -/
structure Box where
  x0 : F32
  y0 : F32
  x1 : F32
  y1 : F32
  score : F32
  anchor : Nat
  index : Nat
  deriving DecidableEq, Repr

/-- The real value of an input element: its code less the zero point, times 2^shift (R158). -/
def boxVal (s : State) (d : MeJob) (t : Tensor) (y x c : Nat) : F32 :=
  let k := shiftOf s (d.inShift (y / max 1 d.inTileH)) 0 0
  let code := (inCode s d t.fmt y x c).getD 0
  toF ((if t.fmt ≤ 3 then Fp.ofInt (intCode t.fmt code - t.zero) else codeValue t.fmt code).scale k)

/-- The candidate of an anchor at a position. -/
def boxAt (s : State) (d : MeJob) (t : Tensor) (cell y x a : Nat) : Box :=
  let v (i : Nat) : F32 := boxVal s d t y x (5 * a + i)
  let half := fRat 1 2
  let cell := fInt (cell : Nat)
  let centre (p i : Nat) : F32 := fmul (fadd (fadd (fInt (p : Nat)) half) (v i)) cell
  let side (o i : Nat) : F32 := fmul (fInt (devLE s (d.wData + 4 * a + o) 2 : Nat)) (fexp2 (v i))
  let cx := centre x 1
  let cy := centre y 2
  let w := fmul (side 0 3) half
  let h := fmul (side 2 4) half
  { x0 := fsub cx w, y0 := fsub cy h, x1 := fadd cx w, y1 := fadd cy h, score := v 0, anchor := a, index := y * d.inW + x }

/-- The area of a box, and of the part that two boxes share. -/
def boxArea (b : Box) : F32 := fmul (fsub b.x1 b.x0) (fsub b.y1 b.y0)
def boxInter (b c : Box) : F32 :=
  let w := fmax 0 (fsub (fmin b.x1 c.x1) (fmax b.x0 c.x0))
  let h := fmax 0 (fsub (fmin b.y1 c.y1) (fmax b.y0 c.y0))
  fmul w h

/-- A box is suppressed by a kept one: inter × 256 > IOU_THR × union. -/
def suppresses (thr : Nat) (k b : Box) : Bool :=
  let i := boxInter b k
  flt (fmul (fInt (thr : Nat)) (fsub (fadd (boxArea b) (boxArea k)) i)) (fmul i (fInt 256))

/-- The boxes kept, in order of taking. -/
def keepBoxes (maxBox thr : Nat) : List Box → List Box → List Box
  | kept, [] => kept
  | kept, b :: r =>
    if maxBox ≤ kept.length then kept
    else keepBoxes maxBox thr (if kept.any (fun k => suppresses thr k b) then kept else kept ++ [b]) r

/-- Descending score; on equal scores the lower index, then the lower anchor. -/
def boxBefore (a b : Box) : Bool :=
  flt b.score a.score || (!flt a.score b.score
    && (decide (a.index < b.index) || (a.index == b.index && decide (a.anchor ≤ b.anchor))))

/-- A coordinate as a signed 12.4 number, saturating (R199). -/
def boxCoord (a : F32) : List Byte := leBytes 2 (wrap 16 (clampI (-32768) 32767 (fRoundScaled a 4)))

/-- The box list of a descriptor and its input tensor (R199): the header and the record of each box kept. (DESIGN CHOICE, assumption 65.) -/
def boxList (s : State) (b : List Byte) (t : Tensor) : List Byte :=
  let d := parseMe b
  let cfg := fieldLE b 0x2A 2
  let all := (pairsOf (pairsOf (List.range d.inH) (List.range d.inW)) (List.range (bits cfg 3 0))).filterMap (fun q =>
    if flt (boxVal s d t q.1.1 q.1.2 (5 * q.2)) (fieldLE b 0x2C 4) then none
    else some (boxAt s d t (fieldLE b 0x31 1) q.1.1 q.1.2 q.2))
  let kept := keepBoxes (bits cfg 10 4) (fieldLE b 0x30 1) [] (sortBy boxBefore (all.take 4096))
  leBytes 4 kept.length ++ leBytes 4 all.length ++ List.replicate 8 0
    ++ kept.flatMap (fun k => boxCoord k.x0 ++ boxCoord k.y0 ++ boxCoord k.x1 ++ boxCoord k.y1
      ++ leBytes 2 (fmtFP16.encode (ofF k.score)) ++ leBytes 1 k.anchor ++ [0] ++ leBytes 4 k.index)

/-- The BOX_DECODE job of an engine's built-in check on the output of its CONV job: the box list is stored at OUT_DATA of its
descriptor (R199, R205). The ROM's own data stands in memory for the job alone. (DESIGN CHOICE, assumption 65.) -/
def checkRun (s : State) (out : List Byte) : State :=
  let d := parseMe Config.checkDesc
  let l := boxList (((d.inBlock 0, out) :: Config.checkData).foldl (fun s x => devWrite s x.1 x.2) s) Config.checkDesc
    (parseTensor Config.checkTensor)
  devWrite s d.outData l

/-- The box list that the check finds at OUT_DATA: its header and COUNT records (R199). -/
def checkList (s : State) : List Byte :=
  let a := (parseMe Config.checkDesc).outData
  devRead s a (16 + 16 * devLE s a 4)

/-- An engine's built-in check: the state it leaves, the step at which it fails and the CRC of its box list, none for a check that
passes (R205, R528). -/
def engineChecked (s : State) : EngineCheck → State × Option (Nat × Nat)
  | .convBad => (s, some (1, 0))
  | .boxBad => (s, some (2, 0))
  | .output out =>
    let s1 := checkRun s out
    let c := crc32 (checkList s1)
    (s1, if c = Config.checkCrc then none else some (0, c))

end Sys2Proof.Machine
end

