-- ==== Sys2Proof/Machine/Camera.lean ====
section
/-! DEFINITION. Camera geometry: frame storage (R90, R93), the camera model (R247–R249), pose records as bytes (R113), and
the luma of a stored frame (R117). -/

namespace Sys2Proof.Machine

/-! ## Frame storage (R88, R90, R93) -/

/-- Bits per pixel and width multiple of a pixel data type; none for every other type. -/
def dtPack (dt : Nat) : Option (Nat × Nat) :=
  if dt = 0x2A then some (8, 1) else if dt = 0x2B then some (10, 4) else if dt = 0x2C then some (12, 2)
  else if dt = 0x1E then some (16, 2) else if dt = 0x24 then some (24, 1) else none

/-- Bytes of a line, and the line stride. -/
def lineBytes (dt w : Nat) : Nat := ceilDiv (w * ((dtPack dt).map (·.1)).getD 0) 8
def lineStride (dt w : Nat) : Nat := ceilDiv (lineBytes dt w) 64 * 64

/-- Bytes of a capture slot. -/
def captureSlot (dt w h : Nat) : Nat := ceilDiv (128 + h * lineStride dt w) 4096 * 4096

/-- The data type is a raw mosaic. -/
def isRaw (dt : Nat) : Bool := dt == 0x2A || dt == 0x2B || dt == 0x2C

/-- Bits of a raw code. -/
def rawBits (dt : Nat) : Nat := if dt = 0x2A then 8 else if dt = 0x2B then 10 else 12

/-- A byte that a unit without a job reads: zero from outside Court and LPDDR6 (R547). -/
def safeByte (s : State) (a : Nat) : Nat := if rangeOk s a 1 false then (devByte s a).toNat else 0

/-- The raw code of stream pixel (x, y), given the first pixel's address and the stride (the packings of CSI-2, R90). -/
def rawPixel (s : State) (a stride dt x y : Nat) : Nat :=
  let l := a + y * stride
  if dt = 0x2A then safeByte s (l + x)
  else if dt = 0x2B then
    safeByte s (l + x / 4 * 5 + x % 4) * 4 + (safeByte s (l + x / 4 * 5 + 4) >>> (2 * (x % 4))) % 4
  else safeByte s (l + x / 2 * 3 + x % 2) * 16 + (safeByte s (l + x / 2 * 3 + 2) >>> (4 * (x % 2))) % 16

/-- A coordinate brought into a frame: the nearest edge sample stands for those outside. -/
def edge (n : Nat) (i : Int) : Nat := (clampI 0 ((n : Int) - 1) i).toNat

/-- The 8-bit luma of stream pixel (x, y) of a stored frame (R117); a quotient that rounds to 256 stays within the 8 bits. -/
def luma0 (s : State) (f : Frame) (x y : Int) : Int :=
  let a := f.addr.getD 0 + 0x80
  let st := lineStride f.dt f.width
  let px := edge f.width x
  let py := edge f.height y
  if f.dt = 0x1E then (safeByte s (a + py * st + 2 * px + 1) : Nat)
  else if f.dt = 0x24 then
    let o := a + py * st + 3 * px
    rneDiv ((safeByte s o + 2 * safeByte s (o + 1) + safeByte s (o + 2) : Nat) : Int) 4
  else
    let k (i : Int) : Int := if i = 0 then 2 else 1
    let sum := sumI ((pairsOf [-1, 0, 1] [-1, 0, 1]).map (fun (p : Int × Int) =>
      k p.1 * k p.2 * ((rawPixel s a st f.dt (edge f.width (px + p.1)) (edge f.height (py + p.2)) : Nat) : Int)))
    min 255 (rneDiv sum (16 * 2 ^ (rawBits f.dt - 8)))

/-- Sample (x, y) of pyramid level k, edge samples repeated (R117, R118). A level that no PYR of the entry built reads as if it were
built: the spec states no other value. (DESIGN CHOICE, assumption 125.) -/
def lumaAt (s : State) (f : Frame) : Nat → Int → Int → Int
  | 0, x, y => luma0 s f x y
  | k + 1, x, y =>
    let cx : Int := (edge (f.width / 2 ^ (k + 1)) x : Nat)
    let cy : Int := (edge (f.height / 2 ^ (k + 1)) y : Nat)
    rneDiv (lumaAt s f k (2 * cx) (2 * cy) + lumaAt s f k (2 * cx + 1) (2 * cy)
      + lumaAt s f k (2 * cx) (2 * cy + 1) + lumaAt s f k (2 * cx + 1) (2 * cy + 1)) 4

/-! ## Pose records (R113) -/

/-- The 64 bytes of a record. -/
def poseBytes (p : Pose) : List Byte :=
  leBytes 8 p.whistle ++ leBytes 8 (wrap 64 p.x) ++ leBytes 8 (wrap 64 p.y) ++ leBytes 4 (wrap 32 p.z)
    ++ leBytes 4 p.heading ++ leBytes 4 (wrap 32 p.pitch) ++ leBytes 4 (wrap 32 p.roll) ++ leBytes 4 (wrap 32 p.speed)
    ++ leBytes 4 (wrap 32 p.yawRate) ++ leBytes 4 p.flags ++ leBytes 2 p.epoch ++ leBytes 2 p.lead
    ++ List.replicate 8 0

/-- A record read back from its bytes. -/
def poseOf (b : List Byte) : Pose :=
  { whistle := fieldLE b 0 8, x := fieldSLE b 8 8, y := fieldSLE b 0x10 8, z := fieldSLE b 0x18 4,
    heading := fieldLE b 0x1C 4, pitch := fieldSLE b 0x20 4, roll := fieldSLE b 0x24 4, speed := fieldSLE b 0x28 4,
    yawRate := fieldSLE b 0x2C 4, flags := fieldLE b 0x30 4, epoch := fieldLE b 0x34 2, lead := fieldLE b 0x36 2 }

/-! ## Camera model (R247–R249) -/

/-- A camera as a projection sees it: its record, the mount's yaw in 2^−32 turns, the lens, the window and binning of the
frame's kind, the frame, and the period in ns. -/
structure Optics where
  pose : Pose
  yaw : Int
  fx : F32
  fy : F32
  cx : F32
  cy : F32
  k1 : F32
  k2 : F32
  orgX : Nat
  orgY : Nat
  bin : Nat
  width : Nat
  height : Nat
  dt : Nat
  rowNs : Nat
  periodNs : F32
  deriving DecidableEq, Repr

/-- The period of a WHS_PERIOD word in ns (R35). -/
def periodF (w : Nat) : F32 := fScaled ((bits w 19 0 * 1024 + bits w 29 20 : Nat) : Int) (-10)

/-- The camera of a port for a frame kind under a register image. -/
def opticsOf (s : State) (img : Map Word) (port kind : Nat) (pose : Pose) (width height dt rowNs per : Nat) : Optics :=
  let r (a : Nat) : Nat := ireg s img a
  let org := if kind = 0 then r (Reg.SYN_CAM_FULL_ORG port) else r (Reg.SYN_CAM_BAND_ORG port)
  { pose := pose, yaw := sgn 16 (bits (r (Reg.CAM_MOUNT_YP port)) 15 0) * 65536,
    fx := fScaled (r (Reg.SYN_CAM_FX port) : Nat) (-8), fy := fScaled (r (Reg.SYN_CAM_FY port) : Nat) (-8),
    cx := fScaled (r (Reg.SYN_CAM_CX port) : Nat) (-8), cy := fScaled (r (Reg.SYN_CAM_CY port) : Nat) (-8),
    k1 := fScaled (sgn 32 (r (Reg.SYN_CAM_K1 port))) (-24), k2 := fScaled (sgn 32 (r (Reg.SYN_CAM_K2 port))) (-24),
    orgX := bits org 13 0, orgY := bits org 29 16, bin := 2 ^ bits org 31 30, width := width, height := height, dt := dt,
    rowNs := rowNs, periodNs := periodF per }

/-- A projected point. -/
structure Projected where
  u : F32
  v : F32
  xn : F32
  yn : F32
  /-- The heading of the final pass, in turns. -/
  heading : F32
  deriving DecidableEq, Repr

/-- World to camera axes: R0 · Rx(−ROLL) · Ry(−PITCH) · Rz(−H) · d (R248). -/
def toCamera (o : Optics) (h : F32) (d : Vec3) : Vec3 :=
  rot0 (rotX (fneg (fTurns o.pose.roll)) (rotY (fneg (fTurns o.pose.pitch)) (rotZ (fneg (fmul h fTwoPi)) d)))

/-- Camera to world axes: Rz(H) · Ry(PITCH) · Rx(ROLL) · R0 · d (R247). -/
def toWorld (o : Optics) (h : F32) (d : Vec3) : Vec3 :=
  rotZ (fmul h fTwoPi) (rotY (fTurns o.pose.pitch) (rotX (fTurns o.pose.roll) (rot0 d)))

/-- (BIN − 1) ÷ 2. -/
def Optics.half (o : Optics) : F32 := fdiv (fInt ((o.bin : Int) - 1)) (fInt 2)

/-- One pass of R248: image position of a camera-relative point under a heading. -/
def projectPass (o : Optics) (h : F32) (d : Vec3) : Option Projected :=
  let q := toCamera o h d
  if fle q.z 0 then none
  else
    let xn := fdiv q.x q.z
    let yn := fdiv q.y q.z
    let r2 := fadd (fmul xn xn) (fmul yn yn)
    let k := fadd (fadd (fInt 1) (fmul o.k1 r2)) (fmul (fmul o.k2 r2) r2)
    let us := fadd (fmul (fmul o.fx xn) k) o.cx
    let vs := fadd (fmul (fmul o.fy yn) k) o.cy
    let u := fdiv (fsub (fsub us (fInt o.orgX)) o.half) (fInt o.bin)
    let v := fdiv (fsub (fsub vs (fInt o.orgY)) o.half) (fInt o.bin)
    some { u := u, v := v, xn := xn, yn := yn, heading := h }

/-- The travel direction of a record in turns, `k` ticks on at half the turn (R248). -/
def travelDir (o : Optics) (t : F32) : F32 :=
  fadd (fScaled ((o.pose.heading : Int) - o.yaw) (-32)) (fdiv (fmul (fScaled o.pose.yawRate (-32)) t) (fInt 2))

/-- The ground covered in `t` ticks: SPEED × t along the travel direction (R248). -/
def travel (o : Optics) (t : F32) : Vec3 :=
  let a := fmul (travelDir o t) fTwoPi
  let n := fmul (fInt o.pose.speed) t
  { x := fmul n (fcos a), y := fmul n (fsin a), z := 0 }

/-- The heading `t` ticks on, in turns. -/
def headingAfter (o : Optics) (t : F32) : F32 :=
  fadd (fScaled (o.pose.heading : Int) (-32)) (fmul (fScaled o.pose.yawRate (-32)) t)

/-- covered(u, v) of R249. -/
def covered (o : Optics) (u v : F32) : Bool :=
  let inside (a : F32) (n : Nat) : Bool := fle 0 a && fle a (fInt ((n : Int) - 1))
  if isRaw o.dt then
    let q (a : F32) : F32 := fdiv (fsub a (fRat 1 2)) (fInt 2)
    inside (q u) (o.width / 2) && inside (q v) (o.height / 2)
  else inside u o.width && inside v o.height

/-- project of R248, given the camera-relative point G − (rec.X, rec.Y, rec.Z). -/
def project (o : Optics) (d : Vec3) : Option Projected :=
  match projectPass o (fScaled (o.pose.heading : Int) (-32)) d with
  | none => none
  | some p =>
    let t := fdiv (fmul (fclamp p.v 0 (fInt ((o.height : Int) - 1))) (fInt o.rowNs)) o.periodNs
    match projectPass o (headingAfter o t) (d.sub (travel o t)) with
    | none => none
    | some q => if covered o q.u q.v then some q else none

/-- Normalised image coordinates of a stream position. The spec gives no inverse of the lens distortion: where K1 or K2 is
not zero the coordinates are a value left open. (DESIGN CHOICE, assumption 17.) -/
def normalised (o : Optics) (u v : F32) : F32 × F32 :=
  let us := fadd (fadd (fmul u (fInt o.bin)) o.half) (fInt o.orgX)
  let vs := fadd (fadd (fmul v (fInt o.bin)) o.half) (fInt o.orgY)
  let xd := fdiv (fsub us o.cx) o.fx
  let yd := fdiv (fsub vs o.cy) o.fy
  if (ofF o.k1).isZero && (ofF o.k2).isZero then (xd, yd) else Config.undistort xd yd o.k1 o.k2

/-- The ground point of a stream position, relative to the camera's foot: where its ray meets Z = 0. -/
def groundPoint (o : Optics) (u v : F32) : F32 × F32 :=
  let n := normalised o u v
  let r := toWorld o (fScaled (o.pose.heading : Int) (-32)) { x := n.1, y := n.2, z := fInt 1 }
  let k := fdiv (fneg (fInt o.pose.z)) r.z
  (fmul k r.x, fmul k r.y)

end Sys2Proof.Machine
end

