-- ==== Sys2Proof/Machine/Vision.lean ====
section
/-! DEFINITION. The Vision engines and their sequencers (R115–R154): the instructions of a playbook entry, coarse and
refined passes, and the result slots. -/

namespace Sys2Proof.Machine

/-! ## Routes and playbooks (R71, R147–R153) -/

/-- The route whose SOURCE names a port. -/
def routeOfPort (s : State) (p : Nat) : Option Route :=
  if s.fab.inForce then s.fab.plan.routes.find? (fun r => (portsOf r.source).contains p) else none

/-- The sequencer of a route: its port, or port 2k of a pair. -/
def seqOf (r : Route) : Nat := ((portsOf r.source).head?).getD 0

/-- The route's SOURCE is a stereo pair. -/
def isPair (r : Route) : Bool := decide (0x80 ≤ r.source)

/-- The playbook of a route; PLAYBOOK 0xFF runs as one whose entries are all 0xFF (R153). -/
def playbookOf (s : State) (r : Route) : Playbook :=
  (s.fab.plan.playbooks[r.playbook]?).getD { full := 0xFF, band := 0xFF, sensor := 0xFF, insns := [] }

/-- The instructions of the entry for a frame kind, up to its END; none without an entry. -/
def entryOf (b : Playbook) (kind : Nat) : Option (List VInsn) :=
  let e := if kind = 0 then b.full else b.band
  if e = 0xFF then none else entryRun b.insns e

/-- The xorshift word of the built-in pattern table (R122). -/
def patternStep (x : Nat) : Nat :=
  let a := x ^^^ ((x * 2 ^ 13) % 2 ^ 32)
  let b := a ^^^ (a / 2 ^ 17)
  b ^^^ ((b * 2 ^ 5) % 2 ^ 32)

/-- `n` values of the built-in pattern table from an xorshift word. -/
def patternFrom : Nat → Nat → List Byte
  | 0, _ => []
  | n + 1, x => let y := patternStep x; BitVec.ofInt 8 (((y % 31 : Nat) : Int) - 15) :: patternFrom n y

/-- The built-in pattern table. -/
def builtinPattern : List Byte := patternFrom 1024 0x1D872B41

/-! ## Slot need (R143) -/

/-- MAX of a set that an entry writes: the greatest MAX of its CORNERs, or, written by FLOW alone, that of its source. -/
def setMax (l : List VInsn) : Nat → Nat → Nat
  | 0, _ => 0
  | k + 1, j =>
    let c := ((l.filter (fun x => x.op == 2 && x.c == j)).map (fun x => bits x.imm 27 16)).foldl max 0
    if c != 0 then c
    else match l.find? (fun x => x.op == 5 && x.b == j) with
      | some x => setMax l k (x.a - 8)
      | none => 0

/-- Bytes rounded up to 64. -/
def up64 (n : Nat) : Nat := ceilDiv n 64 * 64

/-- The slot size that an entry needs for a frame size, in 64 KiB: the header, and each array rounded up to 64 B (R143); matches and
coarse and refined flow records of an entry are one array each. -/
def slotNeed (l : List VInsn) (w h refineMax : Nat) : Nat :=
  let sets := (List.range 4).filter (fun j => l.any (fun x => (vWrites x).contains j))
  let m (j : Nat) : Nat := setMax l 5 j
  let total := 256
    + sumN (sets.map (fun j => up64 (16 * m j) + up64 (32 * m j)))
    + up64 (sumN ((l.filter (fun x => x.op == 4)).map (fun x => 8 * m x.a)))
    + 2 * up64 (sumN ((l.filter (fun x => x.op == 5)).map (fun x => 16 * m x.b)))
    + up64 (ceilDiv w 64 * ceilDiv h 64)
    + (if l.any (fun x => x.op == 7) then up64 (2 * (w / 2) * (h / 2)) + up64 ((w / 2) * (h / 2)) else 0)
    + 4096 * refineMax
  ceilDiv total 65536

/-! ## Runs -/

/-- The runs of a sequencer. -/
def runsOf (s : State) (n : Nat) : List VRun := Map.getD s.vsn.runs n []

/-- The state with a sequencer's runs replaced. -/
def setRuns (s : State) (n : Nat) (l : List VRun) : State := { s with vsn := { s.vsn with runs := Map.set s.vsn.runs n l } }

/-- An event of a sequencer and its VSN_IRQ_STATUS bit (R154). -/
def vsnEvent (s : State) (n k : Nat) : State := event (event s (Reg.VSN_SEQ_EVENTS n) k) Reg.VSN_IRQ_STATUS k

/-- FLAGS of a result (R144). -/
def vfLate : Nat := 1
def vfPartial : Nat := 2
def vfNoStereo : Nat := 4
def vfNoPrev : Nat := 8
def vfDiscarded : Nat := 16
def vfSkipped : Nat := 32
/-- The frame ran no engine work and writes no result (the model's own mark). -/
def vfNone : Nat := 64

/-- The run does no engine work and its results count as absent. -/
def VRun.idle (r : VRun) : Bool := (r.flags &&& (vfDiscarded ||| vfSkipped ||| vfNone)) != 0

/-- The coarse pass is complete (R137). -/
def VRun.complete (r : VRun) : Bool :=
  r.tick.isSome && (r.idle || (r.closed && (List.range r.issued).all (fun i => r.done.contains i)))

/-- The coarse pass still runs (R140). -/
def VRun.coarse (r : VRun) : Bool := !r.idle && !r.complete

/-- The latest result of instructions before `i` that passes a test. -/
def lastBefore {α : Type} (m : Map α) (i : Nat) (p : α → Bool) : Option α :=
  ((m.filter (fun e => decide (e.1 < i) && p e.2)).getLast?).map (·.2)

/-- An index above that of every instruction: the results of the whole entry. -/
def allInsns : Nat := 256

/-- A set, its descriptors, and the map of an entry, as the instructions before `i` leave them. -/
def VRun.setAt (r : VRun) (i j : Nat) : List Corner := ((lastBefore r.sets i (fun v => v.1 == j)).map (·.2)).getD []
def VRun.descAt (r : VRun) (i j : Nat) : List Nat := ((lastBefore r.descs i (fun v => v.1 == j)).map (·.2)).getD []
def VRun.dispAt (r : VRun) (i : Nat) : Option (List Nat × List Nat) := lastBefore r.disp i (fun _ => true)

/-- The tile confidences of an entry, and its match records in the order of their instructions. -/
def VRun.tileList (r : VRun) : List Nat := (lastBefore r.tiles allInsns (fun _ => true)).getD []
def VRun.matchList (r : VRun) : List (Nat × Nat × Nat × Nat) := r.matches_.flatMap (·.2)

/-- The flow records with those of one instruction among them, in the order of the instructions. -/
def putFlows (fl recs : List FlowRec) (i : Nat) : List FlowRec :=
  fl.filter (fun f => decide (f.insn < i)) ++ recs ++ fl.filter (fun f => decide (i < f.insn))

/-- A run's settings. -/
def VRun.reg (s : State) (r : VRun) (a : Nat) : Nat := ireg s r.image a

/-- A frame start on a sequencer: SKIPPED where a third frame would be in its coarse pass, or the slot is too small (R140,
R143). -/
def newRun (s : State) (r : Route) (f : Frame) : VRun :=
  let n := seqOf r
  let ents := entryOf (playbookOf s r) f.kind
  let on := fld s (Reg.VSN_SEQ_CTRL n) 0 0 == 1 && fld s (Reg.VSN_SEQ_RING n) 7 0 != 0 && f.addr.isSome
  let pat := (s.fab.plan.pattern).getD builtinPattern
  let base : VRun := { cur := f, image := s.regs, period := reg s Reg.WHS_PERIOD, pattern := pat }
  match ents with
  | none => { base with flags := vfNone }
  | some l =>
    if !on then { base with flags := vfNone }
    else
      let need := slotNeed l f.width f.height (fld s (Reg.VSN_SEQ_CTRL n) 27 16)
      let busy := ((runsOf s n).filter VRun.coarse).length
      let skip := decide (2 ≤ busy) || decide (fld s (Reg.VSN_SEQ_RING n) 23 8 < need)
      { base with insns := l, pair := isPair r, settled := !isPair r || f.fsyncSeq == 0xFFFFFFFF,
                  flags := if skip then vfSkipped else 0 }

/-- A frame start reaches its sequencer (R133, R140, R142, R153). (DESIGN CHOICE, assumption 73.) -/
def visStart (s : State) (f : Frame) : State :=
  match routeOfPort s f.port with
  | none => s
  | some r =>
    let n := seqOf r
    let l := runsOf s n
    let mate := l.any (fun x => x.pair && !x.settled && x.partner.isNone && x.cur.port != f.port
      && x.cur.fsyncSeq == f.fsyncSeq && x.cur.kind == f.kind)
    if isPair r && mate then
      setRuns s n (l.map (fun x =>
        if x.pair && !x.settled && x.partner.isNone && x.cur.port != f.port && x.cur.fsyncSeq == f.fsyncSeq
          && x.cur.kind == f.kind then { x with partner := some f } else x))
    else if isPair r && f.port != n && f.fsyncSeq == 0xFFFFFFFF then s
    else
      let x := newRun s r f
      let s1 := setRuns s n (l ++ [x])
      if x.flags = vfSkipped then vsnEvent s1 n 2 else s1

/-- The frames of an ended pulse settle which image is CUR and whether PARTNER exists (R105, R133, R141). -/
def settleRun (r : VRun) : VRun :=
  let fs := r.cur :: r.partner.toList
  let good := fs.filter (fun f => f.bad == 0)
  let left := good.find? (fun f => f.port % 2 == 0)
  let right := good.find? (fun f => f.port % 2 == 1)
  match left, right with
  | some a, some b =>
    let skew := decide (5000 < (max a.feTs b.feTs) - (min a.feTs b.feTs))
    if skew then { r with cur := a, partner := none, settled := true, tick := some a.tick }
    else { r with cur := a, partner := some b, settled := true, tick := some (max a.tick b.tick) }
  | some a, none => { r with cur := a, partner := none, settled := true, tick := some a.tick }
  | none, some b => { r with cur := b, partner := none, settled := true, tick := some b.tick }
  | none, none =>
    { r with settled := true, partner := none, tick := some ((fs.map (·.tick)).foldl max 0),
             flags := r.flags ||| vfDiscarded, units := [] }

/-- A run is DISCARDED, with its event (R141). -/
def discardEvent (s : State) (n : Nat) (old new : VRun) : State :=
  if (new.flags &&& vfDiscarded) != 0 && (old.flags &&& vfDiscarded) == 0 && new.flags < vfSkipped then vsnEvent s n 3 else s

/-- A run learns that a frame of it has ended. -/
def runFrameEnd (r : VRun) (f : Frame) : VRun :=
  let same (g : Frame) : Bool := g.port == f.port && g.seq == f.seq
  if !r.pair || r.settled then
    if same r.cur && !r.curDone then
      let r1 := { r with cur := f, curDone := true, settled := true, tick := some f.tick }
      if f.bad ≠ 0 then { r1 with flags := r1.flags ||| vfDiscarded, units := [] } else r1
    else r
  else
    let r1 := if same r.cur then { r with cur := f, curDone := true }
      else match r.partner with
        | some g => if same g then { r with partner := some f, partnerDone := true } else r
        | none => r
    if r1.curDone && r1.partnerDone then
      let r2 := settleRun r1
      { r2 with curDone := true }
    else r1

/-! ## Features: positions in 1/8 pixel (R119–R122) -/

/-- The Bresenham circle of radius 3. -/
def circle3 : List (Int × Int) :=
  [(0, -3), (1, -3), (2, -2), (3, -1), (3, 0), (3, 1), (2, 2), (1, 3), (0, 3), (-1, 3), (-2, 2), (-3, 1), (-3, 0), (-3, -1),
   (-2, -2), (-1, -3)]

/-- Nine contiguous flags of sixteen, cyclically. -/
def nineOf (l : List Bool) : Bool :=
  (List.range 16).any (fun i => (List.range 9).all (fun k => (l[(i + k) % 16]?).getD false))

/-- The score of a passing sample (R119). -/
def cornerScore (img : Int → Int → Int) (t x y : Int) : Option Nat :=
  let c := img x y
  let ring := circle3.map (fun o => img (x + o.1) (y + o.2))
  if nineOf (ring.map (fun v => decide (c + t < v))) || nineOf (ring.map (fun v => decide (v < c - t))) then
    some (sumI (ring.map (fun v => max 0 ((((v - c).natAbs : Nat) : Int) - t)))).toNat
  else none

/-- Samples within 18 positions of the border are not tested. -/
def tested (w h x y : Nat) : Bool :=
  decide (18 ≤ x) && decide (x + 18 < w) && decide (18 ≤ y) && decide (y + 18 < h)

/-- The corners of a level, in raster order: column, row, score. -/
def levelCorners (img : Int → Int → Int) (t : Int) (w h : Nat) : List (Nat × Nat × Nat) :=
  let score (x y : Nat) : Option Nat := if tested w h x y then cornerScore img t x y else none
  (pairsOf (List.range h) (List.range w)).filterMap (fun p =>
    let (y, x) := p
    match score x y with
    | none => none
    | some v =>
      let beaten := (pairsOf [0, 1, 2] [0, 1, 2]).any (fun (q : Nat × Nat) =>
        if q = (1, 1) then false
        else match score (x + q.2 - 1) (y + q.1 - 1) with
          | none => false
          | some u => decide (v < u) || (u == v && decide (q.1 * 3 + q.2 < 4)))
      if beaten then none else some (x, y, v))

/-- A level coordinate as a level-0 coordinate in 1/8 pixel (R121). -/
def upPos (l x : Nat) : Nat := 8 * x * 2 ^ l + 4 * (2 ^ l - 1)

/-- The squared distance of two features in 1/64 pixel². -/
def dist2 (ax ay bx by_ : Int) : Int := (ax - bx) * (ax - bx) + (ay - by_) * (ay - by_)

/-- The corners that a selection keeps, given a top-up set: quotas per cell, then MAX, best first; equal scores by cell, then
raster (R120). (DEDUCED, assumption 75.) -/
def selectCorners (l w cell k maxN : Nat) (top : List Corner) (cs : List (Nat × Nat × Nat)) : List (Nat × Nat × Nat) :=
  let size := 8 * 2 ^ (cell + 4)
  let perRow := ceilDiv (8 * w) size
  let cellAt (x y : Nat) : Nat := y / size * perRow + x / size
  let free := cs.filter (fun c => !(top.any (fun b => decide (dist2 (upPos l c.1) (upPos l c.2.1) b.x b.y ≤ 1024))))
  let idx := free.zip (List.range free.length)
  let order := sortBy (fun a b =>
    let ca := cellAt (upPos l a.1.1) (upPos l a.1.2.1)
    let cb := cellAt (upPos l b.1.1) (upPos l b.1.2.1)
    decide (b.1.2.2 < a.1.2.2) || (a.1.2.2 == b.1.2.2 && (decide (ca < cb) || (ca == cb && decide (a.2 ≤ b.2))))) idx
  let kept := order.foldl (fun (acc : Map Nat × List (Nat × Nat × Nat)) c =>
    let g := cellAt (upPos l c.1.1) (upPos l c.1.2.1)
    let quota := k - (top.filter (fun b => cellAt b.x b.y == g)).length
    let n := Map.getD acc.1 g 0
    if n < quota then (Map.set acc.1 g (n + 1), acc.2 ++ [c.1]) else acc) ([], [])
  kept.2.take (maxN - top.length)

/-- TRACK_IDs for new corners: the counter skips 0xFFFFFFFF (R120). -/
def nextId (i : Nat) : Nat := if (i + 1) % 2 ^ 32 = 0xFFFFFFFF then 0 else (i + 1) % 2 ^ 32

/-- New corners as records, with numbers of the model's own until their TRACK_IDs are drawn: by port, SEQ and instruction. -/
def newCorners (l port seq_ insn : Nat) (cs : List (Nat × Nat × Nat)) : List Corner :=
  (cs.zip (List.range cs.length)).map (fun (c : (Nat × Nat × Nat) × Nat) =>
    { x := upPos l c.1.1, y := upPos l c.1.2.1, score := c.1.2.2, level := l, origin := 0,
      id := 2 ^ 32 + (((port * 2 ^ 32 + seq_) * 256 + insn) * 4096 + c.2), age := 0 })

/-- `n` TRACK_IDs from a counter, and the counter after them. -/
def drawIds : Nat → Nat → List Nat × Nat
  | 0, i => ([], i)
  | n + 1, i => let t := drawIds n (nextId i); (i :: t.1, t.2)

/-- The position of a feature at its own level, to the nearest sample. -/
def downPos (l x : Nat) : Int := rneDiv ((x : Int) - 4 * (2 ^ l - 1 : Nat)) (8 * 2 ^ l)

/-- The 5 × 5 box sum (R122). -/
def boxSum (img : Int → Int → Int) (x y : Int) : Int :=
  sumI ((pairsOf [-2, -1, 0, 1, 2] [-2, -1, 0, 1, 2]).map (fun (o : Int × Int) => img (x + o.1) (y + o.2)))

/-- The descriptor of a corner: bit i compares the box sums of entry i of the pattern (R122). -/
def descriptor (img : Int → Int → Int) (pat : List Byte) (x y : Int) : Nat :=
  let p (i : Nat) : Int := ((pat[i]?).getD 0).toInt
  ofPositions ((List.range 256).filter (fun i =>
    decide (boxSum img (x + p (4 * i)) (y + p (4 * i + 1)) < boxSum img (x + p (4 * i + 2)) (y + p (4 * i + 3)))))

/-! ## Matching (R123, R124) -/

/-- The best and next best of distances by train index; 257 stands for none. -/
def bestTwo (l : List (Nat × Nat)) : Nat × Nat × Nat :=
  l.foldl (fun (a : Nat × Nat × Nat) (c : Nat × Nat) =>
    let (i, d) := c
    if d < a.2.1 then (i, d, a.2.1) else if d < a.2.2 then (a.1, a.2.1, d) else a) (0xFFFF, 257, 257)

/-- One match record: query, train, d1, d2. -/
def matchOne (q : Nat) (cand : List (Nat × Nat)) (maxDist ratio : Nat) : Nat × Nat × Nat × Nat :=
  let b := bestTwo cand
  if b.2.1 ≤ maxDist ∧ b.2.1 * 128 < ratio * b.2.2 ∧ b.2.1 < 257 then (q, b.1, b.2.1, b.2.2) else (q, 0xFFFF, b.2.1, b.2.2)

/-! ## Pyramidal tracking (R125–R128) -/

/-- Bilinear interpolation of a level at an FP32 position (R254's form). -/
def bilinear (img : Int → Int → Int) (x y : F32) : F32 :=
  let x0 := fFloor x
  let y0 := fFloor y
  let fx := fsub x (fInt x0)
  let fy := fsub y (fInt y0)
  let one := fInt 1
  let n (i j : Int) : F32 := fInt (img (x0 + i) (y0 + j))
  fadd (fmul (fadd (fmul (n 0 0) (fsub one fx)) (fmul (n 1 0) fx)) (fsub one fy))
    (fmul (fadd (fmul (n 0 1) (fsub one fx)) (fmul (n 1 1) fx)) fy)

/-- The offsets of a window of side n, row by row. -/
def windowOf (n : Nat) : List (F32 × F32) :=
  let h : Int := (n / 2 : Nat)
  (pairsOf (List.range n) (List.range n)).map (fun p => (fInt ((p.2 : Int) - h), fInt ((p.1 : Int) - h)))

/-- A sum of FP32 numbers, row by row. (DESIGN CHOICE, assumption 144.) -/
def fsum (l : List F32) : F32 := l.foldl fadd 0

/-- A displacement. -/
abbrev V2 := F32 × F32

/-- The gradients of PREV at a position, central differences. -/
def gradAt (img : Int → Int → Int) (x y : F32) : V2 :=
  let one := fInt 1
  (fdiv (fsub (bilinear img (fadd x one) y) (bilinear img (fsub x one) y)) (fInt 2),
   fdiv (fsub (bilinear img x (fadd y one)) (bilinear img x (fsub y one))) (fInt 2))

/-- The iterations of one level: v, and the iterations left when it stopped. The inverse of G is taken by its determinant.
(DESIGN CHOICE, assumption 144.) -/
def flowIter (ip ic : Int → Int → Int) (ws : List (F32 × F32)) (gs : List V2) (a b c : F32) (q : V2) : Nat → V2 → V2 × Nat
  | 0, v => (v, 0)
  | k + 1, v =>
    let es := ws.map (fun w => fsub (bilinear ip (fadd q.1 w.1) (fadd q.2 w.2))
      (bilinear ic (fadd (fadd q.1 v.1) w.1) (fadd (fadd q.2 v.2) w.2)))
    let bx := fsum ((es.zip gs).map (fun p => fmul p.1 p.2.1))
    let by_ := fsum ((es.zip gs).map (fun p => fmul p.1 p.2.2))
    let det := fsub (fmul a c) (fmul b b)
    let dx := fdiv (fsub (fmul c bx) (fmul b by_)) det
    let dy := fdiv (fsub (fmul a by_) (fmul b bx)) det
    let v1 := (fadd v.1 dx, fadd v.2 dy)
    if flt (fmax (fabs dx) (fabs dy)) (fRat 1 32) then (v1, k + 1) else flowIter ip ic ws gs a b c q k v1

/-- What tracking a feature needs of its FLOW instruction. -/
structure FlowParams where
  iter : Nat
  win : Nat
  eig : Nat
  res : Nat
  deriving DecidableEq, Repr

/-- The levels from `l` down to 0: v and the status so far (0 OK, 2 NO_CONVERGE, 3 LOW_TEXTURE).(DESIGN CHOICE, assumption 144.) -/
def flowLevels (ip ic : Nat → Int → Int → Int) (k : FlowParams) (px py : Nat) : Nat → V2 → V2 × Nat
  | 0, v => step 0 v
  | l + 1, v =>
    let r := step (l + 1) v
    if r.2 ≠ 0 then r else flowLevels ip ic k px py l (fmul (fInt 2) r.1.1, fmul (fInt 2) r.1.2)
where
  /-- One level of R125; the least eigenvalue of G by its trace and discriminant. (DESIGN CHOICE, assumption 144.) -/
  step (l : Nat) (v : V2) : V2 × Nat :=
    let q : V2 := (fScaled px (-3 - (l : Int)), fScaled py (-3 - (l : Int)))
    let ws := windowOf k.win
    let gs := ws.map (fun w => gradAt (ip l) (fadd q.1 w.1) (fadd q.2 w.2))
    let a := fsum (gs.map (fun g => fmul g.1 g.1))
    let b := fsum (gs.map (fun g => fmul g.1 g.2))
    let c := fsum (gs.map (fun g => fmul g.2 g.2))
    let d := fsub a c
    let root := fsqrt (fadd (fmul d d) (fmul (fInt 4) (fmul b b)))
    let lam := fdiv (fsub (fadd a c) root) (fInt 2)
    if flt (fdiv lam (fInt (k.win * k.win : Nat))) (fInt k.eig) then (v, 3)
    else
      let r := flowIter (ip l) (ic l) ws gs a b c q k.iter v
      (r.1, if l = 0 ∧ r.2 = 0 then 2 else 0)

/-- A coordinate in 1/8 pixel as an unsigned 13.3 word; what a point outside that range stores is not stated.
(DESIGN CHOICE, assumption 18.) -/
def posWord (i : Int) : Nat := if 0 ≤ i ∧ i < 65536 then i.toNat else Config.unstated 1 i % 65536

/-- One track (R125): position, status and confidence. -/
def flowTrack (ip ic : Nat → Int → Int → Int) (k : FlowParams) (levels w h px py : Nat) (guess : V2) : Int × Int × Nat × Nat :=
  let v0 : V2 := (fdiv guess.1 (fInt (2 ^ (levels - 1) : Nat)), fdiv guess.2 (fInt (2 ^ (levels - 1) : Nat)))
  let r := flowLevels ip ic k px py (levels - 1) v0
  let cx := fRoundScaled (fadd (fScaled px (-3)) r.1.1) 3
  let cy := fRoundScaled (fadd (fScaled py (-3)) r.1.2) 3
  let half : Int := 8 * (k.win / 2 : Nat)
  let leaves := decide (cx < half) || decide (cy < half) || decide (8 * ((w : Int) - 1) < cx + half)
    || decide (8 * ((h : Int) - 1) < cy + half)
  let st := if r.2 = 0 && leaves then 1 else r.2
  let q : V2 := (fScaled px (-3), fScaled py (-3))
  let es := (windowOf k.win).map (fun o => fabs (fsub (bilinear (ip 0) (fadd q.1 o.1) (fadd q.2 o.2))
    (bilinear (ic 0) (fadd (fadd q.1 r.1.1) o.1) (fadd (fadd q.2 r.1.2) o.2))))
  let res := fdiv (fsum es) (fInt (k.win * k.win : Nat))
  let conf := if st ≠ 0 ∨ fle (fInt k.res) res = true then 0
    else (fFloor (fdiv (fmul (fInt 255) (fsub (fInt k.res) res)) (fInt k.res))).toNat
  (cx, cy, st, conf)

/-- The camera of a run for a pose. -/
def VRun.optics (s : State) (r : VRun) (pose : Pose) : Optics :=
  opticsOf s r.image r.cur.port r.cur.kind pose r.cur.width r.cur.height r.cur.dt r.cur.rowNs r.period

/-- The camera record of the latest Whistle at or before a timestamp (R126). -/
def poseBefore (s : State) (cam : Nat) (t : Int) : Pose :=
  match (s.cam.hist.filter (fun e => decide ((e.2.ts : Int) ≤ t))).getLast? with
  | some e => (e.2.cams[cam]?).getD {}
  | none => {}

/-- Δt in ticks between the captures of two frames (R126). -/
def deltaT (r : VRun) (prev : Frame) : F32 :=
  fdiv (fmul (fInt (r.cur.captTs - prev.captTs)) (fInt 10)) (periodF r.period)

/-- The guess of R126: the image displacement of a feature's ground point under the record's SPEED and YAW_RATE over Δt; no
displacement where the point leaves the camera's view. -/
def guessOf (s : State) (r : VRun) (prev : Frame) (px py : Nat) : V2 :=
  let o := r.optics s (poseBefore s r.cur.port r.cur.captTs)
  let u := fScaled px (-3)
  let v := fScaled py (-3)
  let g := groundPoint o u v
  let t := deltaT r prev
  let d : Vec3 := { x := g.1, y := g.2, z := fneg (fInt o.pose.z) }
  match projectPass o (headingAfter o t) (d.sub (travel o t)) with
  | some p => (fsub p.u u, fsub p.v v)
  | none => (0, 0)

/-- The lower median of FP32 numbers. -/
def lowerMedianF (l : List F32) : F32 :=
  let q := sortBy (fun a b => fle a b) l
  (q[(q.length - 1) / 2]?).getD 0

/-- DVIS (R128): value and confidence; no track at all gives 0 and 0 also under MIN_TRACKS = 0. (DEDUCED, assumption 76; DESIGN CHOICE,
assumption 145.) -/
def dvisOf (s : State) (n : Nat) (r : VRun) (prev : Frame) (fl : List FlowRec) : Int × Nat :=
  let img := r.image
  let yp := ireg s img (Reg.CAM_MOUNT_YP r.cur.port)
  let z : Int := ((ifld s img (Reg.CAM_MOUNT_Z r.cur.port) 15 0 * 1000 : Nat) : Int)
  let roll := sgn 16 (ifld s img (Reg.CAM_MOUNT_ROLL r.cur.port) 15 0) * 65536
  let pose : Pose :=
    { z := z, heading := wrap 32 (sgn 16 (bits yp 15 0) * 65536), pitch := sgn 16 (bits yp 31 16) * 65536, roll := roll }
  let o := r.optics s pose
  let dt := deltaT r prev
  let a := (fl.filter (fun f => f.status == 0 && decide (1 ≤ f.conf))).map (fun f =>
    fdiv (fsub (groundPoint o (fScaled f.xp (-3)) (fScaled f.yp (-3))).1
      (groundPoint o (fScaled f.x (-3)) (fScaled f.y (-3))).1) dt)
  let m := lowerMedianF a
  let tol := fInt (ifld s img (Reg.VSN_SEQ_DVIS n) 15 0)
  let nIn := (a.filter (fun x => fle (fabs (fsub x m)) tol)).length
  if a.length < ifld s img (Reg.VSN_SEQ_DVIS n) 27 16 ∨ a.isEmpty = true then (0, 0)
  else (fRound m, 255 * nIn / a.length)

/-! ## Stereo (R129–R132) -/

/-- A stereo computation: reference and other image at one level, its operands, and the window of reference samples. -/
structure StereoJob where
  level : Nat
  dmax : Nat
  p1 : Nat
  p2 : Nat
  eight : Bool
  ref : Nat
  tex : Nat
  w : Nat
  h : Nat
  x0 : Nat
  y0 : Nat
  x1 : Nat
  y1 : Nat
  deriving DecidableEq, Repr

/-- The census word of a sample: the 48 neighbours of the 7 × 7 window below the centre (R129). -/
def census (img : Int → Int → Int) (x y : Int) : List Bool :=
  let d : List Int := [-3, -2, -1, 0, 1, 2, 3]
  ((pairsOf d d).filter (fun o => o != (0, 0))).map (fun o => decide (img (x + o.2) (y + o.1) < img x y))

/-- Positions in which two lists differ. -/
def hamming (a b : List Bool) : Nat := ((a.zip b).filter (fun p => p.1 != p.2)).length

/-- The costs of a reference sample by candidate; none where the candidate is not valid. -/
def stereoCost (j : StereoJob) (ir io : Int → Int → Int) (cand : Nat → Nat → Nat → Bool) (x y : Nat) : List (Option Nat) :=
  (List.range j.dmax).map (fun (d : Nat) =>
    let xs : Int := if j.ref = 0 then (x : Int) - (d : Int) else (x : Int) + (d : Int)
    if xs < 0 ∨ (j.w : Int) ≤ xs ∨ cand x y d = false then none
    else some (hamming (census ir x y) (census io xs y)))

/-- The least of optional numbers. -/
def minOpt (l : List (Option Nat)) : Option Nat :=
  l.foldl (fun a b => match a, b with
    | none, b => b
    | a, none => a
    | some x, some y => some (min x y)) none

/-- One step of a path: L_r of the next sample. -/
def pathStep (j : StereoJob) (prev cost : List (Option Nat)) : List (Option Nat) :=
  match minOpt prev with
  | none => cost
  | some m =>
    (List.range cost.length).map (fun d =>
      match (cost[d]?).getD none with
      | none => none
      | some v =>
        let at_ (i : Nat) (p : Nat) : Option Nat := ((prev[i]?).getD none).map (· + p)
        let low := if d = 0 then none else at_ (d - 1) j.p1
        match minOpt [at_ d 0, low, at_ (d + 1) j.p1, some (m + j.p2)] with
        | some b => some (v + b - m)
        | none => some v)

/-- The steps from a sample back to the window's border against a direction. -/
def stepsBack (lo hi x : Nat) (d : Int) : Option Nat :=
  if d = 0 then none else if d = 1 then some (x - lo) else some (hi - 1 - x)

/-- L_r along one path up to a sample. -/
def pathCost (j : StereoJob) (cost : Nat → Nat → List (Option Nat)) (x y : Nat) (d : Int × Int) : List (Option Nat) :=
  let n := match stepsBack j.x0 j.x1 x d.1, stepsBack j.y0 j.y1 y d.2 with
    | some a, some b => min a b
    | some a, none => a
    | none, some b => b
    | none, none => 0
  let at_ (k : Nat) : List (Option Nat) := cost ((x : Int) - d.1 * k).toNat ((y : Int) - d.2 * k).toNat
  ((List.range n).reverse).foldl (fun p k => pathStep j p (at_ k)) (at_ n)

/-- S(p, d), saturating at 16 bits. -/
def stereoSum (j : StereoJob) (cost : Nat → Nat → List (Option Nat)) (x y : Nat) : List (Option Nat) :=
  let dirs : List (Int × Int) := [(1, 0), (-1, 0), (0, 1), (0, -1)]
    ++ (if j.eight then [(1, 1), (-1, -1), (1, -1), (-1, 1)] else [])
  let ls := dirs.map (pathCost j cost x y)
  (List.range j.dmax).map (fun d =>
    match ((cost x y)[d]?).getD none with
    | none => none
    | some _ => some (min 65535 (sumN (ls.map (fun l => (((l[d]?).getD none)).getD 0)))))

/-- The candidate of least sum, the lower first. -/
def bestD (l : List (Option Nat)) : Option Nat :=
  match minOpt l with
  | none => none
  | some m => (List.range l.length).find? (fun d => (l[d]?).getD none == some m)

/-- The disparity word and confidence of one sample (R130–R132); the map of the other reference is read off the sums of this one.
(DESIGN CHOICE, assumption 146.) -/
def stereoWord (j : StereoJob) (ir : Int → Int → Int) (sums : Nat → Nat → List (Option Nat)) (x y : Nat) : Nat × Nat :=
  let d7 : List Int := [-3, -2, -1, 0, 1, 2, 3]
  let win := (pairsOf d7 d7).map (fun (o : Int × Int) => ir (x + o.2) (y + o.1))
  let hi := win.foldl max (win.headD 0)
  let lo := win.foldl min (win.headD 0)
  let l := sums x y
  let valid := (List.range l.length).filter (fun d => ((l[d]?).getD none).isSome)
  if hi - lo < (j.tex : Int) then (0xFFFF, 0)
  else
    match bestD l with
    | none => (0xFFFC, 0)
    | some d1 =>
      let at_ (d : Nat) : Option Nat := (l[d]?).getD none
      if valid.length < 2 ∨ valid.head? = some d1 ∨ valid.getLast? = some d1 then (0xFFFC, 0)
      else
        let xo : Int := if j.ref = 0 then (x : Int) - d1 else (x : Int) + d1
        let other := (List.range j.dmax).map (fun (d : Nat) =>
          let xr : Int := if j.ref = 0 then xo + (d : Int) else xo - (d : Int)
          if xr < j.x0 ∨ (j.x1 : Int) ≤ xr then none else ((sums xr.toNat y)[d]?).getD none)
        let bad := match bestD other with
          | none => true
          | some d2 => decide (1 < ((d1 : Int) - d2).natAbs)
        if bad then (if j.ref = 0 then 0xFFFD else 0xFFFE, 0)
        else
          let s1 : Int := (at_ d1).getD 0
          let conf := match minOpt (valid.map (fun d => if d + 1 < d1 ∨ d1 + 1 < d then at_ d else none)) with
            | none => 0
            | some s2 => if s2 = 0 then 0 else min 255 (256 * ((s2 : Int) - s1) / (s2 : Int)).toNat
          let word := match (if d1 = 0 then none else at_ (d1 - 1)), at_ (d1 + 1) with
            | some a, some b =>
              let den : Int := (a : Int) - 2 * s1 + b
              if den ≤ 0 then ((d1 * 2 ^ (j.level + 4) : Nat) : Int)
              else
                let num := clampI (-den) den ((a : Int) - b)
                rneDiv (((d1 : Int) * (2 * den) + num) * ((2 ^ (j.level + 4) : Nat) : Int)) (2 * den).toNat
            | _, _ => ((d1 * 2 ^ (j.level + 4) : Nat) : Int)
          ((clampI 0 0xFFFB word).toNat, conf)

/-- The coarse map at level-1 geometry: words, confidences; a word that no sample covers is not stated (R130). -/
def stereoMap (j : StereoJob) (ir io : Int → Int → Int) (w1 h1 : Nat) : List (Nat × Nat) :=
  let cost := stereoCost j ir io (fun _ _ _ => true)
  let sums := stereoSum j cost
  (pairsOf (List.range h1) (List.range w1)).map (fun p =>
    let x := p.2 / 2 ^ (j.level - 1)
    let y := p.1 / 2 ^ (j.level - 1)
    if x < j.w ∧ y < j.h then stereoWord j ir sums x y
    else (Config.unstated 2 ((p.1 * w1 + p.2 : Nat) : Int) % 65536, Config.unstated 3 ((p.1 * w1 + p.2 : Nat) : Int) % 256))

/-! ## Confidence and refinement (R134–R136) -/

/-- The tile grid of a frame. -/
def tilesX (f : Frame) : Nat := ceilDiv f.width 64
def tilesY (f : Frame) : Nat := ceilDiv f.height 64

/-- A position in 1/8 pixel lies in a tile. -/
def inTile (f : Frame) (t x y : Nat) : Bool := x / 512 == t % max 1 (tilesX f) && y / 512 == t / max 1 (tilesX f)

/-- The flow records with refined ones in place of those they supersede. -/
def mergeFlows (fl rf : List FlowRec) : List FlowRec :=
  fl.map (fun f => (rf.find? (fun g => g.id == f.id && g.insn == f.insn)).getD f)

/-- The confidence of a tile (R134) from the level-1 map, the members' TRACK_IDs of set A and its flow records; a member counts once. -/
def tileConf (f : Frame) (t : Nat) (conf1 : Option (List Nat)) (a : Option (List Nat)) (fl : List FlowRec) : Nat :=
  let w1 := f.width / 2
  let h1 := f.height / 2
  let tx := t % max 1 (tilesX f)
  let ty := t / max 1 (tilesX f)
  let mean := match conf1 with
    | none => none
    | some conf =>
      let v := (pairsOf (upTo (32 * ty) (min h1 (32 * ty + 32))) (upTo (32 * tx) (min w1 (32 * tx + 32)))).map
        (fun p => (conf[p.1 * w1 + p.2]?).getD 0)
      if v.isEmpty then none else some (sumN v / v.length)
  let cnt := a.map (fun ids => min 255 (32 * (ids.eraseDups.filter (fun d => fl.any (fun g => g.id == d && g.status == 0 && inTile f t g.x g.y))).length))
  match minOpt [mean, cnt] with
  | some v => min 255 v
  | none => 255

/-- A frame is the one of this port, kind and SEQ. -/
def isFrame (p k q : Nat) (f : Frame) : Bool := f.port == p && f.kind == k && f.seq == q

/-- The run on the port's previous frame of the same kind (R149), where one began and its CUR is that frame or is not settled yet. -/
def prevOf (s : State) (n : Nat) (r : VRun) : Option VRun :=
  match r.cur.prevSeq with
  | none => none
  | some q =>
    let is := isFrame r.cur.port r.cur.kind q
    match (runsOf s n).find? (fun x => if x.settled then is x.cur else is x.cur || x.partner.any is) with
    | some x => some x
    | none => (Map.getD s.vsn.prev (r.cur.port * 2 + r.cur.kind) []).find? (fun x => is x.cur)

/-- PREV's results, where it has any (R151). -/
def prevReady (s : State) (n : Nat) (r : VRun) : Option VRun := (prevOf s n r).filter (fun x => x.settled && !x.idle && x.complete)

/-- A frame's slot still holds it: no later frame of its port has begun to write there (R94). -/
def slotHeld (s : State) (f : Frame) : Bool :=
  match f.addr with
  | none => false
  | some a =>
    let same (g : Frame) : Bool := g.port == f.port && g.kind == f.kind && g.seq == f.seq
    let taken := ((Map.getD s.cam.ports f.port {}).frames.filter (fun g => g.lines != 0) ++ s.cam.ended).any (fun g =>
      g.addr == some a && !same g && f.seq < g.seq)
    if s.cam.ended.any same then !taken else !taken && unitLE s a 4 == f.seq

/-- PREV as an instruction reads its image: a frame whose slot no longer holds it is missing (R94, R151). -/
def prevImage (s : State) (n : Nat) (r : VRun) : Option VRun := (prevReady s n r).filter (fun p => slotHeld s p.cur)

/-- The FLOW whose records are those of set `a` as instruction `i` finds it: the one that wrote it, through CORNERs that topped it up, or
for a set of PREV the latest that tracked it (R120, R128, R134). -/
def carrier (r : VRun) : Nat → Nat → Nat → Option Nat
  | 0, _, _ => none
  | k + 1, i, a =>
    let op (j : Nat) : VInsn := (r.insns[j]?).getD { op := 0, a := 0, b := 0, c := 0, level := 0, imm := 0 }
    if 4 ≤ a then ((List.range i).filter (fun j => (op j).op == 5 && (op j).a == a)).getLast?
    else match ((List.range i).filter (fun j => (vWrites (op j)).contains a)).getLast? with
      | none => none
      | some j => if (op j).op = 5 then some j else if (op j).b = 15 then none else carrier r k j (op j).b

/-- The flow records of set `a` as instruction `i` finds it. -/
def flowsOf (r : VRun) (i a : Nat) (fl : List FlowRec) : List FlowRec :=
  match carrier r 256 i a with
  | some j => fl.filter (fun f => f.insn == j)
  | none => []

/-- The levels of an image. -/
def pyramid (s : State) (f : Frame) : Nat → Int → Int → Int := fun k => lumaAt s f k

/-- The operands of a FLOW instruction. -/
def flowParams (x : VInsn) : FlowParams :=
  { iter := bits x.imm 5 2, win := 5 + 2 * bits x.imm 7 6, eig := bits x.imm 15 8, res := bits x.imm 23 16 }

/-- The image that an instruction names: 0 CUR, 1 PREV, 2 PARTNER. -/
def imageOf (s : State) (n : Nat) (r : VRun) (a : Nat) : Option Frame :=
  if a = 0 then some r.cur else if a = 1 then (prevImage s n r).map (·.cur) else r.partner

/-- A set operand of instruction i: 0–3 of CUR, 8–11 of PREV. -/
def setOf (s : State) (n : Nat) (r : VRun) (i a : Nat) : List Corner :=
  if a < 4 then r.setAt i a
  else if 8 ≤ a ∧ a < 12 then ((prevReady s n r).map (fun p => p.setAt allInsns (a - 8))).getD [] else []

/-- A set's descriptors, as instruction i reads them. -/
def descOf (s : State) (n : Nat) (r : VRun) (i a : Nat) : List Nat :=
  if a < 4 then r.descAt i a
  else if 8 ≤ a ∧ a < 12 then ((prevReady s n r).map (fun p => p.descAt allInsns (a - 8))).getD [] else []

/-- The stereo operands of an instruction at a level, over the whole image. -/
def stereoJob (x : VInsn) (f : Frame) : StereoJob :=
  let w := f.width / 2 ^ x.level
  let h := f.height / 2 ^ x.level
  { level := x.level, dmax := bits x.imm 7 0, p1 := bits x.imm 13 8, p2 := bits x.imm 21 14, eight := bit x.imm 22,
    ref := bits x.imm 23 23, tex := bits x.imm 31 24, w := w, h := h, x0 := 0, y0 := 0, x1 := w, y1 := h }

/-- Reference and other image of a STEREO: the left image is the reference for REF = 0. -/
def stereoImages (r : VRun) (p : Frame) (ref : Nat) : Frame × Frame :=
  let l := if r.cur.port % 2 = 0 then r.cur else p
  let g := if r.cur.port % 2 = 0 then p else r.cur
  if ref = 0 then (l, g) else (g, l)

/-- One track of a FLOW as its flow record. -/
def flowRecord (s : State) (r : VRun) (prev : Frame) (k : FlowParams) (levels insn : Nat) (c : Corner) : FlowRec :=
  let t := flowTrack (pyramid s prev) (pyramid s r.cur) k levels r.cur.width r.cur.height c.x c.y (guessOf s r prev c.x c.y)
  { id := c.id, xp := c.x, yp := c.y, x := posWord t.1, y := posWord t.2.1, conf := t.2.2.2, status := t.2.2.1,
    age := min 65535 (c.age + 1), insn := insn }

/-- The result of instruction `i` on its run, from what the instructions before it left; counts of zero give nothing (R46). DESC reads
the CUR image for every set, MATCH shifts no member of a train set of CUR, and a PYR of an absent PREV sets NO_PREV too. (DESIGN CHOICE,
assumptions 126, 147.) -/
def execInsn (s : State) (n : Nat) (r : VRun) (i : Nat) (x : VInsn) : VRun :=
  let absent : VRun := { r with flags := r.flags ||| (if x.a = 1 then vfNoPrev else vfNoStereo) }
  if x.op = 1 then
    if (imageOf s n r x.a).isSome then r else absent
  else if x.op = 2 then
    match imageOf s n r x.a with
    | none => absent
    | some f =>
      let top := if x.b = 15 then [] else setOf s n r i x.b
      let k := bits x.imm 14 10
      let m := bits x.imm 27 16
      let new := selectCorners x.level f.width (bits x.imm 9 8) k m top
        (levelCorners (lumaAt s f x.level) (bits x.imm 7 0) (f.width / 2 ^ x.level) (f.height / 2 ^ x.level))
      { r with sets := Map.set r.sets i (x.c, if k = 0 ∨ m = 0 then [] else top ++ newCorners x.level r.cur.port r.cur.seq i new) }
  else if x.op = 3 then
    { r with descs := Map.set r.descs i (x.a, (setOf s n r i x.a).map (fun c =>
        descriptor (lumaAt s r.cur c.level) r.pattern (downPos c.level c.x) (downPos c.level c.y))) }
  else if x.op = 4 then
    if 8 ≤ x.b ∧ (prevReady s n r).isNone = true then { r with flags := r.flags ||| vfNoPrev }
    else
      let qs := setOf s n r i x.a
      let ts := setOf s n r i x.b
      let qd := descOf s n r i x.a
      let td := descOf s n r i x.b
      let rad : F32 := fInt ((bits x.imm 31 16 : Nat) : Int)
      let prev := (prevReady s n r).map (·.cur)
      let recs := (qs.zip (List.range qs.length)).map (fun q =>
        let cand := (ts.zip (List.range ts.length)).filterMap (fun t =>
          let g : V2 := match prev with
            | some p => if x.b < 8 then (0, 0) else guessOf s r p t.1.x t.1.y
            | none => (0, 0)
          let dx := fsub (fadd (fScaled t.1.x (-3)) g.1) (fScaled q.1.x (-3))
          let dy := fsub (fadd (fScaled t.1.y (-3)) g.2) (fScaled q.1.y (-3))
          match qd[q.2]?, td[t.2]? with
          | some a, some b =>
            if bits x.imm 31 16 ≠ 0 ∧ fle (fadd (fmul dx dx) (fmul dy dy)) (fmul rad rad) = true then
              some (t.2, popcount 256 (a ^^^ b)) else none
          | _, _ => none)
        matchOne q.2 cand (bits x.imm 8 0) (bits x.imm 15 9))
      { r with matches_ := Map.set r.matches_ i recs }
  else if x.op = 5 then
    match prevImage s n r with
    | none => { r with flags := r.flags ||| vfNoPrev }
    | some p =>
      let k := flowParams x
      let src := setOf s n r i x.a
      let recs := if k.iter = 0 then [] else src.map (flowRecord s r p.cur k (bits x.imm 1 0 + 1) i)
      let kept := (src.zip recs).filterMap (fun (c : Corner × FlowRec) =>
        if c.2.status = 0 then some { c.1 with x := c.2.x, y := c.2.y, score := 0, origin := 1, age := c.2.age } else none)
      { r with flows := putFlows r.flows recs i, sets := Map.set r.sets i (x.b, kept) }
  else if x.op = 6 then
    match prevOf s n r with
    | none => { r with dvis := Map.set r.dvis i (0, 0) }
    | some p =>
      let ids := (setOf s n r i x.a).map (·.id)
      { r with dvis := Map.set r.dvis i (dvisOf s n r p.cur ((flowsOf r i x.a r.flows).filter (fun f => ids.contains f.id))) }
  else if x.op = 7 then
    match r.partner with
    | none => { r with flags := r.flags ||| vfNoStereo }
    | some p =>
      let j := stereoJob x r.cur
      if j.dmax = 0 ∨ x.level = 0 then r
      else
        let im := stereoImages r p j.ref
        let m := stereoMap j (lumaAt s im.1 x.level) (lumaAt s im.2 x.level) (r.cur.width / 2) (r.cur.height / 2)
        { r with disp := Map.set r.disp i (m.map (·.1), m.map (·.2)) }
  else if x.op = 8 then
    let a := if x.a = 15 then none else some ((setOf s n r i x.a).map (·.id))
    { r with tiles := Map.set r.tiles i ((List.range (tilesX r.cur * tilesY r.cur)).map (fun t =>
        tileConf r.cur t ((r.dispAt i).map (·.2)) a (flowsOf r i x.a r.flows))) }
  else r

/-! ## TRACK_IDs (R120) -/

/-- TRACK_IDs in place of numbers of the model's own, wherever a run holds them. -/
def VRun.renumber (g : Nat → Nat) (r : VRun) : VRun :=
  { r with sets := r.sets.map (fun e => (e.1, e.2.1, e.2.2.map (fun c => { c with id := g c.id }))),
           flows := r.flows.map (fun f => { f with id := g f.id }), rflows := r.rflows.map (fun f => { f with id := g f.id }) }

/-- The numbers of a run's own new corners, in the order of its CORNERs and of their output. -/
def VRun.newIds (r : VRun) : List Nat :=
  (r.sets.flatMap (fun e => (e.2.2.map (·.id)).filter (fun d =>
    (d - 2 ^ 32) / 4096 == (r.cur.port * 2 ^ 32 + r.cur.seq) * 256 + e.1 && decide (2 ^ 32 ≤ d)))).eraseDups

/-- The new corners of a run receive their TRACK_IDs from its port's counter. -/
def numberRun (s : State) (n k : Nat) : State :=
  match (runsOf s n)[k]? with
  | none => s
  | some r =>
    if r.numbered then s
    else
      let old := r.newIds
      let t := drawIds old.length (r.idBase.getD (Map.getD s.vsn.ids r.cur.port 0))
      let pairs := old.zip t.1
      let g (d : Nat) : Nat := ((pairs.find? (fun p => p.1 == d)).map (·.2)).getD d
      let s1 := setRuns s n (setNth (runsOf s n) k { r with numbered := true })
      { s1 with vsn := { s1.vsn with
          ids := if old.isEmpty || r.idBase.isSome then s1.vsn.ids else Map.set s1.vsn.ids r.cur.port t.2,
          runs := s1.vsn.runs.map (fun e => (e.1, e.2.map (VRun.renumber g))),
          prev := s1.vsn.prev.map (fun e => (e.1, e.2.map (VRun.renumber g))) } }

/-- Every CORNER of a run has ended. -/
def VRun.cornersDone (r : VRun) : Bool :=
  (List.range r.insns.length).all (fun i => ((r.insns[i]?).map (·.op)) != some 2 || r.done.contains i)

/-- The run as the CORNERs and FLOWs that still run will leave it: what they give follows from inputs that are in place. -/
def foresee (s : State) (n : Nat) (r : VRun) : VRun :=
  (List.range r.insns.length).foldl (fun r i =>
    if r.done.contains i then r
    else match r.insns[i]? with
      | some x => if x.op = 2 ∨ x.op = 5 then let t := execInsn s n r i x; { t with done := t.done ++ [i] } else r
      | none => r) r

/-- A run's TRACK_IDs are kept for it, before a later run of its port draws its own: as many as its CORNERs give, whichever of their
units still run (R116, R120). -/
def reserveIds (s : State) (n k : Nat) : State :=
  match (runsOf s n)[k]? with
  | none => s
  | some r =>
    if r.numbered || r.idle || r.idBase.isSome || !(r.settled && r.curDone) then s
    else
      let base := Map.getD s.vsn.ids r.cur.port 0
      let t := drawIds (foresee s n r).newIds.length base
      let s1 := setRuns s n (setNth (runsOf s n) k { r with idBase := some base })
      { s1 with vsn := { s1.vsn with ids := Map.set s1.vsn.ids r.cur.port t.2 } }

/-- Runs are numbered in the order of their frames, each once all its CORNERs have ended: the order in which units end counts for
nothing (R116). (DEDUCED, assumption 127.) -/
def numberRuns (s : State) (n : Nat) : State :=
  ((List.range (runsOf s n).length).foldl (fun (acc : State × List Nat) k =>
    match (runsOf acc.1 n)[k]? with
    | none => acc
    | some r =>
      if r.numbered || r.idle then acc
      else if r.cornersDone && !acc.2.contains r.cur.port then (numberRun acc.1 n k, acc.2)
      else (acc.1, r.cur.port :: acc.2)) (s, [])).1

/-! ## Issue, units and completion (R139, R151) -/

/-- The units of an instruction's class: FE0–3, MA0–1, FL0–3, ST0–1 as bits of VSN_ENG_BUSY; CONF runs in the sequencer. -/
def unitsFor (op : Nat) : List Nat :=
  if op ≤ 3 then [0, 1, 2, 3] else if op = 4 then [4, 5] else if op ≤ 6 then [6, 7, 8, 9] else if op = 7 then [10, 11] else [12]

/-- The pose record of the latest Whistle at or before an instant is published (R126). -/
def poseOut (s : State) (t : Int) : Bool :=
  s.cam.hist.any (fun e => decide (t < (e.2.ts : Int)))
    || (decide (t < ((nextInst s / tuStep : Nat) : Int)) && Map.has s.cam.hist (tickNow s))

/-- The image operands of an instruction (R150): 0 CUR, 1 PREV, 2 PARTNER. -/
def imageArgs (x : VInsn) : List Nat :=
  if x.op ≤ 2 then [x.a] else if x.op = 3 then [0] else if x.op = 5 then [0, 1] else if x.op = 7 then [0, 2] else []

/-- An instruction reads levels above 0 of its images; DESC reads those of its corners. -/
def readsLevels (r : VRun) (i : Nat) (x : VInsn) : Bool :=
  if x.op = 2 ∨ x.op = 7 then x.level != 0
  else if x.op = 3 then (r.setAt i x.a).any (fun c => c.level != 0)
  else if x.op = 5 then bits x.imm 1 0 != 0
  else false

/-- The inputs that an instruction names are complete (R126, R151): its images, the levels of them that a PYR builds, its sets and their
descriptors, the flow records and the map that it reads, and the pose record of its guess. -/
def inputsReady (s : State) (n : Nat) (r : VRun) (i : Nat) (x : VInsn) : Bool :=
  let before := (List.range i).filter (fun k => !r.done.contains k)
  let op (k : Nat) : VInsn := (r.insns[k]?).getD { op := 0, a := 0, b := 0, c := 0, level := 0, imm := 0 }
  let none_ (p : VInsn → Bool) : Bool := !(before.any (fun k => p (op k)))
  let needPrev := (imageArgs x).contains 1 || (x.op == 4 && decide (8 ≤ x.b)) || (x.op == 8 && decide (8 ≤ x.a) && x.a != 15)
  let prevOk := match prevOf s n r with | some p => p.settled && (p.idle || p.complete) | none => true
  (!needPrev || (r.settled && prevOk))
    && (!((imageArgs x).any (· != 1)) || (r.settled && r.curDone))
    && (!readsLevels r i x || none_ (fun y => y.op == 1 && (imageArgs x).contains y.a))
    && (vReads x).all (fun j => none_ (fun y => (vWrites y).contains j))
    && (x.op != 4 || none_ (fun y => y.op == 3 && (y.a == x.a || y.a == x.b)))
    && ((x.op != 4 && x.op != 5) || poseOut s r.cur.captTs)
    && (x.op != 8 || none_ (fun y => y.op == 7 || (y.op == 5 && y.a == x.a)))

/-- PYR and CORNER on CUR or PARTNER run as the lines arrive (R118). -/
def streams (x : VInsn) : Bool := x.op ≤ 2 && x.a != 1

/-- Units in use across the block, by coarse work and by refine work. -/
def busyUnits (s : State) : List Nat := s.vsn.runs.flatMap (fun e => e.2.flatMap (fun r => r.units.map (·.2) ++ r.refUnits))

/-- One instruction of a run takes the lowest free unit of its kind, where it may start. -/
def tryStart (s : State) (n k i : Nat) : State :=
  match (runsOf s n)[k]? with
  | none => s
  | some r =>
    match r.insns[i]? with
    | none => s
    | some x =>
      if orderlyStop s || r.idle || r.done.contains i || r.units.any (fun u => u.1 == i) || !(streams x || inputsReady s n r i x) then s
      else if x.op = 8 then setRuns s n (setNth (runsOf s n) k { r with units := r.units ++ [(i, 12)] })
      else match (unitsFor x.op).find? (fun u => !(busyUnits s).contains u) with
        | some u => setRuns s n (setNth (runsOf s n) k { r with units := r.units ++ [(i, u)] })
        | none => s

/-- A run's refine work is under way: its coarse results are published and a chosen tile is left. -/
def VRun.refining (r : VRun) : Bool := r.published.isSome && !r.finished && !r.chosen.isEmpty

/-- The lowest operation of each unit kind that refine work needs: FLOW where a track may be tracked anew, STEREO for a map. -/
def VRun.refineOps (r : VRun) : List Nat :=
  (if r.flows.isEmpty then [] else [5]) ++ (if r.disp.isEmpty || r.partner.isNone then [] else [7])

/-- The refine work of a run takes the lowest free unit of each kind that it needs, where all of them are free (R139).
(DESIGN CHOICE, assumption 73.) -/
def tryRefine (s : State) (n k : Nat) : State :=
  match (runsOf s n)[k]? with
  | none => s
  | some r =>
    if orderlyStop s || !r.refining || !r.refUnits.isEmpty then s
    else
      let us := r.refineOps.map (fun op => (unitsFor op).find? (fun u => !(busyUnits s).contains u))
      if us.all (·.isSome) then setRuns s n (setNth (runsOf s n) k { r with refUnits := us.filterMap id }) else s

/-- Every run of every sequencer, lower ports first. -/
def eachRun (s : State) (f : State → Nat → Nat → State) : State :=
  s.vsn.runs.foldl (fun s e => (List.range e.2.length).foldl (fun s k => f s e.1 k) s) s

/-- Every instruction that may start does, lower ports first, and refine work takes what is left (R139). -/
def startUnits (s : State) : State :=
  let s1 := eachRun s (fun s n k =>
    match (runsOf s n)[k]? with
    | some r => (List.range r.issued).foldl (fun s i => tryStart s n k i) s
    | none => s)
  eachRun s1 tryRefine

/-- The sequencer issues the next instruction of its oldest open run, where it is one of this operation (R151). -/
def issueInsn (s : State) (n op : Nat) : State :=
  let l := runsOf s n
  match l.findIdx? (fun r => !r.idle && !r.closed) with
  | none => s
  | some k =>
    match l[k]? with
    | none => s
    | some r =>
      match r.insns[r.issued]? with
      | none => s
      | some x => if x.op = op then startUnits (setRuns s n (setNth l k { r with issued := r.issued + 1 })) else s

/-- PYR. -/
def execPyr (seq : Fin 16) (s : State) : Out := .next (issueInsn s seq.val 1)
/-- CORNER. -/
def execCorner (seq : Fin 16) (s : State) : Out := .next (issueInsn s seq.val 2)
/-- DESC. -/
def execDesc (seq : Fin 16) (s : State) : Out := .next (issueInsn s seq.val 3)
/-- MATCH. -/
def execMatch (seq : Fin 16) (s : State) : Out := .next (issueInsn s seq.val 4)
/-- FLOW. -/
def execFlow (seq : Fin 16) (s : State) : Out := .next (issueInsn s seq.val 5)
/-- DVIS. -/
def execDvis (seq : Fin 16) (s : State) : Out := .next (issueInsn s seq.val 6)
/-- STEREO. -/
def execStereo (seq : Fin 16) (s : State) : Out := .next (issueInsn s seq.val 7)
/-- CONF. -/
def execConf (seq : Fin 16) (s : State) : Out := .next (issueInsn s seq.val 8)

/-- PLAYBOOK_END: the sequencer reaches the entry's END (R148). -/
def playbookEnd (s : State) (n : Nat) : State :=
  let l := runsOf s n
  match l.findIdx? (fun r => !r.idle && !r.closed && r.issued == r.insns.length) with
  | none => s
  | some k => match l[k]? with
    | some r => setRuns s n (setNth l k { r with closed := true })
    | none => s

/-- PLAYBOOK_END. -/
def execPlaybookEnd (seq : Fin 16) (s : State) : Out := .next (playbookEnd s seq.val)

/-- A poisoned line of an image that an instruction reads (R405). -/
def poisonIn (s : State) (f : Frame) : Option Nat :=
  match f.addr with
  | none => none
  | some a => (linesOf a (captureSlot f.dt f.width f.height)).find? (fun l => s.mem.poison.contains l)

/-- A unit reads an image outside Court and LPDDR6 (R547). -/
def imageOutside (s : State) (f : Frame) : Bool :=
  match f.addr with
  | none => false
  | some a => !rangeOk s a (captureSlot f.dt f.width f.height) false

/-- New NO_PREV and NO_STEREO marks are events. -/
def markEvents (s : State) (n old new : Nat) : State :=
  let s1 := if bit new 2 && !bit old 2 then vsnEvent s n 4 else s
  if bit new 3 && !bit old 3 then vsnEvent s1 n 5 else s1

/-- An instruction of the coarse pass ends on its unit (R151). -/
def insnEnd (s : State) (n i : Nat) : State :=
  let l := runsOf s n
  match l.findIdx? (fun r => r.units.any (fun u => u.1 == i)) with
  | none => s
  | some k =>
    match l[k]? with
    | none => s
    | some r =>
      match r.insns[i]? with
      | none => s
      | some x =>
        if !inputsReady s n r i x then s
        else
          let fs := (imageArgs x).filterMap (imageOf s n r)
          match fs.findSome? (poisonIn s) with
          | some line =>
            let s1 := setRuns s n (setNth l k { r with flags := r.flags ||| vfDiscarded, units := [] })
            startUnits (vsnEvent (memUncorr s1 line 60) n 3)
          | none =>
            let t := execInsn s n r i x
            let r1 := { t with units := t.units.filter (fun u => u.1 != i), done := t.done ++ [i] }
            let s2 := numberRuns (setRuns s n (setNth l k r1)) n
            let s3 := if fs.any (imageOutside s) then protect s2 else s2
            startUnits (markEvents s3 n r.flags r1.flags)

/-- The next larger window, capped at 11 (R136). -/
def nextWin (w : Nat) : Nat := min 11 (w + 2)

/-- The level-1 stereo of a refined tile: words and confidences of its 32 × 32 words (R136). -/
def refineStereo (s : State) (r : VRun) (x : VInsn) (p : Frame) (t : Nat) (words confs : List Nat) : List Nat × List Nat :=
  let f := r.cur
  let w1 := f.width / 2
  let h1 := f.height / 2
  let tx := 32 * (t % max 1 (tilesX f))
  let ty := 32 * (t / max 1 (tilesX f))
  let j0 := stereoJob { x with level := 1 } f
  -- A coarse disparity of LEVEL 2 or 3 may lie beyond 2 × DMAX − 1, which bounds the search of a reserved word alone.
  let j := { j0 with dmax := 2 ^ x.level * j0.dmax + 16, eight := true,
                     x0 := tx - 16, y0 := ty - 16, x1 := min w1 (tx + 48), y1 := min h1 (ty + 48) }
  let im := stereoImages r p j.ref
  let word (x y : Nat) : Nat := (words[y * w1 + x]?).getD 0xFFFF
  let cand (x y d : Nat) : Bool :=
    let c := word x y
    if 0xFFFC ≤ c then decide (d < 2 * j0.dmax) else decide (((d : Int) - rneDiv (c : Int) 32).natAbs ≤ 8)
  let ir := lumaAt s im.1 1
  let sums := stereoSum j (stereoCost j ir (lumaAt s im.2 1) cand)
  let cells := (pairsOf (List.range 32) (List.range 32)).map (fun q =>
    let x := tx + q.2
    let y := ty + q.1
    if w1 ≤ x ∨ h1 ≤ y then (0, 0)
    else
      let n := stereoWord j ir sums x y
      let c := (confs[y * w1 + x]?).getD 0
      if c < n.2 then n else (word x y, c))
  (cells.map (·.1), cells.map (·.2))

/-- A level-1 map with a tile's words replaced. -/
def withPatch (f : Frame) (t : Nat) (m patch : List Nat) : List Nat :=
  let w1 := max 1 (f.width / 2)
  let tx := 32 * (t % max 1 (tilesX f))
  let ty := 32 * (t / max 1 (tilesX f))
  (m.zip (List.range m.length)).map (fun p =>
    let x := p.2 % w1
    let y := p.2 / w1
    if tx ≤ x ∧ x < tx + 32 ∧ ty ≤ y ∧ y < ty + 32 then (patch[(y - ty) * 32 + (x - tx)]?).getD p.1 else p.1)

/-- The members of the set that an instruction names, by TRACK_ID, with the tracks that refinement carried into it (R121, R134). -/
def refinedSet (r : VRun) (i a : Nat) (rf : List FlowRec) : List Nat := (r.setAt i a).map (·.id) ++ (flowsOf r i a rf).map (·.id)

/-- The images that the refine work of a run reads, as far as their slots still hold them (R94, R136). -/
def refineImages (s : State) (n : Nat) (r : VRun) : List Frame :=
  ([r.cur] ++ r.partner.toList ++ ((prevOf s n r).map (·.cur)).toList).filter (slotHeld s)

/-- The next chosen tile is refined (R136). An image whose slot a later frame has taken is missing (R94). -/
def refineTile (s : State) (n : Nat) (r : VRun) : VRun :=
  match r.chosen with
  | [] => r
  | t :: rest =>
    let thr := ifld s r.image (Reg.VSN_SEQ_CTRL n) 15 8
    let stereo := r.insns.findIdx? (fun x => x.op == 7)
    let map := r.dispAt allInsns
    let held := slotHeld s
    let disp := match map, stereo.bind (fun i => r.insns[i]?), r.partner with
      | some m, some x, some p => if held r.cur && held p then some (refineStereo s r x p t m.1 m.2) else none
      | _, _, _ => none
    let src := (prevImage s n r).filter (fun _ => held r.cur)
    let again := r.flows.filterMap (fun f =>
      if inTile r.cur t f.x f.y && (f.status != 0 || decide (f.conf < thr)) then
        match r.insns[f.insn]?, src with
        | some x, some p =>
          let k0 := flowParams x
          let k := { k0 with iter := min 15 (2 * k0.iter), win := nextWin k0.win }
          let c : Corner := { x := f.xp, y := f.yp, score := 0, level := 0, origin := 0, id := f.id, age := f.age - 1 }
          let g := flowRecord s r p.cur k (bits x.imm 1 0 + 1) f.insn c
          if f.conf < g.conf then some { g with age := f.age } else none
        | _, _ => none
      else none)
    let rf := r.rflows ++ again
    let conf := r.insns.findIdx? (fun x => x.op == 8)
    let a := match conf, conf.bind (fun i => r.insns[i]?) with
      | some i, some x =>
        if x.a = 15 then none
        else if x.a < 4 then some (refinedSet r i x.a rf)
        else some ((setOf s n r i x.a).map (·.id))
      | _, _ => none
    let conf1 := match map, disp with
      | some m, some d => some (withPatch r.cur t m.2 d.2)
      | some m, none => some m.2
      | none, _ => none
    let fl := match conf, conf.bind (fun i => r.insns[i]?) with
      | some i, some x => flowsOf r i x.a (mergeFlows r.flows rf)
      | _, _ => []
    let c := tileConf r.cur t conf1 a fl
    let z := List.replicate 1024 0
    { r with chosen := rest, refUnits := [], rflows := rf,
             patches := r.patches ++ [(t, (disp.map (·.1)).getD z, (disp.map (·.2)).getD z, c)] }

/-- The refine work on the next chosen tile ends. A poisoned line in its images gives the tile up, which keeps its coarse values; an image
outside Court and LPDDR6 reads zero and is reported (R405, R547). (DESIGN CHOICE, assumption 149.) -/
def refineEnd (s : State) (n : Nat) (r : VRun) : State × VRun :=
  let fs := refineImages s n r
  match fs.findSome? (poisonIn s) with
  | some line => (memUncorr s line 60, { r with chosen := r.chosen.drop 1, refUnits := [], spoiled := true })
  | none => (if fs.any (imageOutside s) then protect s else s, refineTile s n r)

/-- VISION_INSTRUCTION_END: an instruction of the coarse pass, or the next chosen tile of a refined pass, is complete. -/
def execVisionInstructionEnd (seq : Fin 16) (refine : Bool) (insn : Byte) (s : State) : Out :=
  let n := seq.val
  .next (if refine then
      match (runsOf s n).findIdx? VRun.refining with
      | none => s
      | some k => match (runsOf s n)[k]? with
        | some r =>
          if r.refUnits.length = r.refineOps.length then
            let t := refineEnd s n r
            startUnits (setRuns t.1 n (setNth (runsOf t.1 n) k t.2))
          else s
        | none => s
    else insnEnd s n insn.toNat)

/-- The runs of every sequencer after a change to each, with the DISCARDED events that it makes. A run stays with the
sequencer it began on, whatever plan is in force since (R142). -/
def mapRuns (s : State) (f : VRun → VRun) : State :=
  startUnits (s.vsn.runs.foldl (fun s e =>
    (e.2.zip (e.2.map f)).foldl (fun s p => discardEvent s e.1 p.1 p.2) (setRuns s e.1 (e.2.map f))) s)

/-- A pulse that has passed with one frame only runs as a single view once that frame has ended (R105, R133). -/
def visSettle (s : State) : State :=
  mapRuns s (fun x =>
    if x.pair && !x.settled && x.partner.isNone && x.curDone
      && (Map.getD s.cam.ports x.cur.port {}).pulses != x.cur.fsyncSeq then settleRun x else x)

/-- A frame end reaches its sequencer (R137, R141). -/
def visEnd (s : State) (f : Frame) : State := visSettle (mapRuns s (fun x => runFrameEnd x f))

/-! ## Publication (R137–R139, R143–R146) -/

/-- A corner record's bytes (R121). -/
def cornerBytes (c : Corner) : List Byte :=
  leBytes 2 c.x ++ leBytes 2 c.y ++ leBytes 2 c.score ++ leBytes 1 c.level ++ leBytes 1 c.origin ++ leBytes 4 c.id
    ++ leBytes 2 c.age ++ [0, 0]

/-- A flow record's bytes (R127). -/
def flowBytes (f : FlowRec) : List Byte :=
  leBytes 4 f.id ++ leBytes 2 f.xp ++ leBytes 2 f.yp ++ leBytes 2 f.x ++ leBytes 2 f.y ++ leBytes 1 f.conf
    ++ leBytes 1 f.status ++ leBytes 2 f.age

/-- A match record's bytes (R124). -/
def matchBytes (m : Nat × Nat × Nat × Nat) : List Byte :=
  leBytes 8 (m.1 + m.2.1 * 2 ^ 16 + m.2.2.1 * 2 ^ 32 + m.2.2.2 * 2 ^ 41)

/-- The arrays of a coarse result in the order of OFFSETS; none for an absent array. (DEDUCED, assumption 74.) -/
def coarseArrays (r : VRun) : List (Option (List Byte)) :=
  let d := r.dispAt allInsns
  (List.range 4).map (fun j => (lastBefore r.sets allInsns (fun v => v.1 == j)).map (fun l => l.2.flatMap cornerBytes))
    ++ (List.range 4).map (fun j => (lastBefore r.descs allInsns (fun v => v.1 == j)).map (fun l => l.2.flatMap (leBytes 32)))
    ++ [if r.matchList.isEmpty then none else some (r.matchList.flatMap matchBytes),
        if r.flows.isEmpty then none else some (r.flows.flatMap flowBytes),
        if r.tileList.isEmpty then none else some (r.tileList.flatMap (leBytes 1)),
        d.map (fun d => d.1.flatMap (leBytes 2)), d.map (fun d => d.2.flatMap (leBytes 1))]

/-- DVIS of an entry. -/
def VRun.dvisLast (r : VRun) : Option (Int × Nat) := lastBefore r.dvis allInsns (fun _ => true)

/-- Arrays placed one after another from an offset, each rounded up to 64 B. -/
def placeArrays : Nat → List (Option (List Byte)) → List Nat × Nat
  | o, [] => ([], o)
  | o, none :: r => let t := placeArrays o r; (0 :: t.1, t.2)
  | o, some b :: r => let t := placeArrays (o + up64 b.length) r; (o :: t.1, t.2)

/-- The address of a run's result slot; none where the ring holds no slot (R143). -/
def slotAddr (s : State) (n : Nat) (r : VRun) : Option Nat :=
  let slots := ifld s r.image (Reg.VSN_SEQ_RING n) 7 0
  let size := ifld s r.image (Reg.VSN_SEQ_RING n) 23 8 * 65536
  if slots = 0 ∨ size = 0 then none
  else some (addr40 s r.image (Reg.VSN_SEQ_RING_LO n) (Reg.VSN_SEQ_RING_HI n) / 65536 * 65536 + (r.cur.seq % slots) * size)

/-- The header of a coarse result (R144). -/
def resultHeader (r : VRun) (w : Nat) (offs : List Nat) : List Byte :=
  let z := r.idle
  let cnt (j : Nat) : Nat := if z then 0 else (r.setAt allInsns j).length
  let d := if z then (0, 0) else r.dvisLast.getD (0, 0)
  leBytes 4 r.cur.seq ++ leBytes 1 r.cur.port ++ leBytes 1 r.cur.kind ++ leBytes 1 r.flags ++ [0]
    ++ leBytes 8 (r.tick.getD 0) ++ leBytes 8 w ++ leBytes 2 r.cur.epoch
    ++ leBytes 1 (if z then 0 else tilesX r.cur) ++ leBytes 1 (if z then 0 else tilesY r.cur) ++ leBytes 2 0 ++ leBytes 2 0
    ++ (List.range 4).flatMap (fun j => leBytes 2 (cnt j))
    ++ leBytes 2 (if z then 0 else r.matchList.length) ++ leBytes 2 (if z then 0 else r.flows.length)
    ++ leBytes 4 (wrap 32 d.1) ++ leBytes 1 d.2 ++ [0, 0, 0]
    ++ (if z then List.replicate 52 0 else offs.flatMap (leBytes 4))
    ++ List.replicate (0xFC - 0x68) 0 ++ leBytes 4 0xFFFFFFFF

/-- Tiles that a refined pass takes: below the threshold, the least confident first (R135). -/
def chooseTiles (s : State) (n : Nat) (r : VRun) : List Nat :=
  let c := ireg s r.image (Reg.VSN_SEQ_CTRL n)
  if bit c 1 = false ∨ shedStep s 5 = true then []
  else
    let l := (r.tileList.zip (List.range r.tileList.length)).filter (fun p => decide (p.1 < bits c 15 8))
    ((sortBy (fun a b => decide (a.1 < b.1) || (a.1 == b.1 && decide (a.2 ≤ b.2))) l).map (·.2)).take (bits c 27 16)

/-- The coarse results of a run are published at Whistle w (R137, R138). -/
def publishCoarse (s : State) (n w : Nat) (r : VRun) : State × VRun :=
  let late := decide ((r.tick.getD 0) + 1 < w)
  let r1 := if late && !r.idle then { r with flags := r.flags ||| vfLate } else r
  let arrays := coarseArrays r1
  let place := placeArrays 256 arrays
  let s1 := match slotAddr s n r1 with
    | none => s
    | some a =>
      let s1 := if r1.idle then s else
        (arrays.zip place.1).foldl (fun s p => match p.1 with
          | some b => if b.isEmpty then s else unitWrite s (a + p.2) b
          | none => s) s
      unitWrite s1 a (resultHeader r1 w place.1)
  let s2 := if late && !r.idle then vsnEvent s1 n 0 else s1
  let s3 := pokeF s2 (Reg.VSN_SEQ_STATUS n) 31 16 r.cur.seq
  let s4 := if r.idle then s3 else countField s3 (Reg.VSN_SEQ_COUNT n) 15 0 1
  let s5 := match r.dvisLast with
    | some d => if !r.idle && !late then { s4 with vsn := { s4.vsn with handed := s4.vsn.handed ++ [(r.cur.port, d.1, d.2)] } } else s4
    | none => s4
  (s5, { r1 with published := some w, top := place.2, chosen := if r.idle then [] else chooseTiles s n r1, finished := r.idle })

/-- A patch's 4 KiB (R146). -/
def patchBytes (p : Nat × List Nat × List Nat × Nat) : List Byte :=
  let b := leBytes 2 p.1 ++ List.replicate 62 0 ++ p.2.1.flatMap (leBytes 2) ++ p.2.2.1.flatMap (leBytes 1) ++ leBytes 1 p.2.2.2
  b ++ List.replicate (4096 - b.length) 0

/-- Whatever the refined pass completed is published one Whistle after the coarse results (R139, R145). -/
def publishRefined (s : State) (n : Nat) (r : VRun) : State :=
  let part := !r.chosen.isEmpty || r.spoiled
  let s1 := match slotAddr s n r with
    | none => s
    | some a =>
      let fb := r.rflows.flatMap flowBytes
      let of := if fb.isEmpty then 0 else r.top
      let op := if r.patches.isEmpty then 0 else r.top + up64 fb.length
      let s1 := if fb.isEmpty then s else unitWrite s (a + of) fb
      let s2 := if r.patches.isEmpty then s1 else unitWrite s1 (a + op) (r.patches.flatMap patchBytes)
      let s3 := unitWrite s2 (a + 0x68) (leBytes 4 of ++ leBytes 4 op)
      let s4 := unitWrite s3 (a + 0x1C) (leBytes 2 r.patches.length ++ leBytes 2 r.rflows.length)
      let s5 := unitWrite s4 (a + 6) (leBytes 1 (r.flags ||| (if part then vfPartial else 0)))
      unitWrite s5 (a + 0xFC) (leBytes 4 r.cur.seq)
  let s2 := pokeF s1 (Reg.VSN_SEQ_COUNT n) 31 16 r.patches.length
  if part then vsnEvent s2 n 1 else s2

/-- A published run may still be named as PREV: its frame is the port's latest of its kind, or the one before a frame whose run goes on. -/
def prevWanted (s : State) (x : VRun) : Bool :=
  Map.get (Map.getD s.cam.ports x.cur.port {}).lastSeq x.cur.kind == some x.cur.seq
    || s.vsn.runs.any (fun e => e.2.any (fun r =>
      (r.cur :: r.partner.toList).any (fun f => f.port == x.cur.port && f.kind == x.cur.kind && f.prevSeq == some x.cur.seq)))

/-- A run's publication at Whistle w, and whether it stays with its sequencer. -/
def publishRun (s : State) (n w : Nat) (r : VRun) : State × Option VRun :=
  match r.published with
  | some u => if r.finished then (s, none) else if u < w then (publishRefined s n r, none) else (s, some r)
  | none =>
    if r.complete && decide (r.tick.getD 0 < w) then
      let keep (s : State) (x : VRun) : State :=
        let key := x.cur.port * 2 + x.cur.kind
        { s with vsn := { s.vsn with prev := Map.set s.vsn.prev key (x :: (Map.getD s.vsn.prev key []).filter (prevWanted s)) } }
      if (r.flags &&& vfNone) != 0 then (keep s r, none)
      else
        let t := publishCoarse s n w r
        (keep t.1 t.2, if t.2.finished then none else some t.2)
    else (s, some r)

/-- The publications of every sequencer at Whistle w; d_vis is handed over anew. A run whose CORNERs waited for their turn draws its
TRACK_IDs now. -/
def visPublish (s : State) (w : Nat) : State :=
  let due (r : VRun) : Bool := r.published.isNone && !r.idle && r.complete && decide (r.tick.getD 0 < w)
  let s0 := eachRun { s with vsn := { s.vsn with handed := [] } } (fun s n k =>
    match (runsOf s n)[k]? with
    | some r =>
      if due r then
        let older := (List.range k).filter (fun j => ((runsOf s n)[j]?).map (·.cur.port) == some r.cur.port)
        numberRun (older.foldl (fun s j => reserveIds s n j) s) n k
      else s
    | none => s)
  s0.vsn.runs.foldl (fun s e =>
    let t := e.2.foldl (fun (acc : State × List VRun) r =>
      let p := publishRun acc.1 e.1 w r
      (p.1, acc.2 ++ p.2.toList)) (s, [])
    setRuns t.1 e.1 t.2) s0

/-- VSN_SEQ_NEED and the other views of a sequencer under the values in force (R154). -/
def visNeed (s : State) (n kind : Nat) : Nat :=
  match routeOfPort s n with
  | none => 0
  | some r =>
    if seqOf r ≠ n then 0
    else match entryOf (playbookOf s r) kind with
      | none => 0
      | some l =>
        let sz := reg s (if kind = 0 then Reg.CAM_PORT_FULL_SIZE n else Reg.CAM_PORT_BAND_SIZE n)
        min 65535 (slotNeed l (bits sz 13 0) (bits sz 29 16) (fld s (Reg.VSN_SEQ_CTRL n) 27 16))

/-- VSN_SEQ_STATUS: coarse passes running and a refined pass running. -/
def visStatus (s : State) (n : Nat) : Nat :=
  let l := runsOf s n
  setBits (reg s (Reg.VSN_SEQ_STATUS n)) 2 0
    ((l.filter VRun.coarse).length % 4 + 4 * b2n (l.any VRun.refining))

/-- VSN_ENG_BUSY. -/
def visBusy (s : State) : Nat := ofPositions ((busyUnits s).filter (· < 12)).eraseDups

end Sys2Proof.Machine
end

