-- ==== Sys2Proof/Machine/Intake.lean ====
section
/-! DEFINITION. Camera intake (R88–R106): packets, frames and capture slots, FSYNC and the capture schedule, the I3C/I2C
masters, and the green rule's intake under the Kickoff plan (R86, R87). -/

namespace Sys2Proof.Machine

/-! ## Ports -/

/-- A port's state. -/
def camPort (s : State) (p : Nat) : CamPort := Map.getD s.cam.ports p {}

/-- The state with a port's state replaced. -/
def setPort (s : State) (p : Nat) (x : CamPort) : State := { s with cam := { s.cam with ports := Map.set s.cam.ports p x } }

/-- A bit of CAM_PORT_EVENTS. -/
def portEvent (s : State) (p k : Nat) : State := event s (Reg.CAM_PORT_EVENTS p) k

/-- A bit of CAM_IRQ_STATUS. -/
def camIrq (s : State) (k : Nat) : State := event s Reg.CAM_IRQ_STATUS k

/-- The port receives (R114). -/
def portOn (s : State) (p : Nat) : Bool := fld s (Reg.CAM_PORT_CTRL p) 0 0 == 1

/-- FSYNC of a port is on (R98). -/
def fsyncOn (s : State) (p : Nat) : Bool :=
  fld s (Reg.CAM_PORT_FSYNC p) 7 0 != 0 && fld s (Reg.CAM_PORT_FSYNC p) 23 16 != 0

/-- The level of a port's FSYNC pin: its active level while a pulse lasts (R98, R114). -/
def fsyncPin (s : State) (p : Nat) : Bool := (Map.getD s.cam.ports p {}).high != (fld s (Reg.CAM_PORT_FSYNC p) 24 24 == 1)

/-- The Kickoff plan is in force (R86). -/
def kickoff (s : State) : Bool := s.fab.inForce && s.fab.src == 2

/-- The descriptor of a stream: virtual channel, data type, width, height (R91). -/
def streamOf (s : State) (p kind : Nat) : Nat × Nat × Nat × Nat :=
  let f := reg s (if kind = 0 then Reg.CAM_PORT_FULL_FMT p else Reg.CAM_PORT_BAND_FMT p)
  let z := reg s (if kind = 0 then Reg.CAM_PORT_FULL_SIZE p else Reg.CAM_PORT_BAND_SIZE p)
  (bits f 3 0, bits f 9 4, bits z 13 0, bits z 29 16)

/-- A stream's descriptor matches a frame. -/
def streamMatches (s : State) (p kind vc dt : Nat) : Bool :=
  let d := streamOf s p kind
  d.1 == vc && d.2.1 == dt && d.2.2.1 != 0 && d.2.2.2 != 0

/-- COUNT of the capture schedule (R99). -/
def schedCount (s : State) (p : Nat) : Nat := fld s (Reg.CAM_PORT_SCHED p) 20 16

/-- The kind of a schedule slot. -/
def slotKind (s : State) (p slot : Nat) : Nat := bits (fld s (Reg.CAM_PORT_SCHED p) 15 0) slot slot

/-- The next schedule slot begins (R99). -/
def nextSlot (s : State) (p : Nat) : Option Nat :=
  let n := schedCount s p
  if n = 0 then none
  else match (camPort s p).slot with
    | none => some 0
    | some k => some ((k + 1) % n)

/-- The write list that a slot names, none for 0xFF (R114). -/
def listOf (s : State) (p slot : Nat) : Option Nat :=
  let v := bits (reg s (Reg.CAM_PORT_LIST0 p + 4 * (slot / 4))) (8 * (slot % 4) + 7) (8 * (slot % 4))
  if v < 128 then some v else none

/-- The capture ring's slot of a kind: the address of the next one (R93). -/
def ringSlot (s : State) (p kind : Nat) : Option Nat :=
  let x := camPort s p
  let f := streamOf s p 0
  let b := streamOf s p 1
  let base := addr40 s s.regs (Reg.CAM_PORT_RING_LO p) (Reg.CAM_PORT_RING_HI p) / 4096 * 4096
  let nf := fld s (Reg.CAM_PORT_RING p) 7 0
  let nb := fld s (Reg.CAM_PORT_RING p) 15 8
  let zf := captureSlot f.2.1 f.2.2.1 f.2.2.2
  let zb := captureSlot b.2.1 b.2.2.1 b.2.2.2
  if kind = 0 then (if nf = 0 then none else some (base + (x.fullN % nf) * zf))
  else if nb = 0 then none else some (base + nf * zf + (x.bandN % nb) * zb)

/-! ## Packet headers (R89) -/

/-- A corrected header is counted; an uncorrectable one marks the frames being received ECC_FAIL. -/
def headerChecked (s : State) (p : Nat) (h : HeaderCheck) : State :=
  match h with
  | .good => s
  | .corrected => portEvent (countFieldSat s (Reg.CAM_PORT_ERRCNT p) 31 16 1) p 0
  | .bad =>
    let x := camPort s p
    let s1 := setPort s p { x with frames := x.frames.map (fun f => { f with bad := f.bad ||| 1 }) }
    if x.frames.isEmpty then s1 else portEvent s1 p 1

/-- A packet arrives: time, and high-speed data seen in this tick. -/
def packetSeen (s : State) (p ts : Nat) : State :=
  let s1 := advanceTs s ts
  setPort s1 p { camPort s1 p with hsTick := true }

/-! ## The end of a frame (R17, R91–R95, R105) -/

/-- The other frame of a pair's pulse among frames that have ended; ports that no pair route names are no pair. (DESIGN CHOICE,
assumption 138.) -/
def pairMate (s : State) (l : List Frame) (f : Frame) : Option Frame :=
  match routeOfPort s f.port with
  | some r =>
    if isPair r && f.fsyncSeq != 0xFFFFFFFF then
      l.find? (fun g => g.port != f.port && g.port / 2 == f.port / 2 && g.fsyncSeq == f.fsyncSeq && g.kind == f.kind)
    else none
  | none => none

/-- PAIR_SKEW: frame ends more than 50 µs apart (R105). -/
def pairSkewed (f g : Frame) : Bool := decide (5000 < (max f.feTs g.feTs) - (min f.feTs g.feTs))

/-- A frame whose header is in memory is marked there, while its slot holds it: 8 for PAIR_SKEW, 4 for LIST_FAIL (R103, R105).
(DEDUCED, assumption 121.) -/
def markPublished (s : State) (g : Frame) (m : Nat) : State :=
  match g.addr with
  | some a => if unitLE s a 4 = g.seq then unitWrite s (a + 0x39) [BitVec.ofNat 8 (unitLE s (a + 0x39) 1 ||| m)] else s
  | none => s

/-- A frame joins those that wait for their header. More than 50 µs between its end and that of the other frame of its pulse marks
both PAIR_SKEW (R105). -/
def addEnded (s : State) (f : Frame) : State :=
  let push (l : List Frame) (g : Frame) (s : State) : State := { s with cam := { s.cam with ended := l ++ [g] } }
  match pairMate s s.cam.ended f, pairMate s s.cam.recent f with
  | some g, _ =>
    if pairSkewed f g then
      push (s.cam.ended.map (fun h => if h = g then { g with note := g.note ||| 8 } else h)) { f with note := f.note ||| 8 } s
    else push s.cam.ended f s
  | none, some g => if pairSkewed f g then push s.cam.ended { f with note := f.note ||| 8 } (markPublished s g 8) else push s.cam.ended f s
  | none, none => push s.cam.ended f s

/-- The tick that a frame end belongs to: one stamped at or after the timestamp of Whistle W belongs to tick W, whichever of the two
the queue holds first (R17). -/
def stampTick (s : State) : Nat :=
  if s.clk.started = true ∧ nextInst s / tuStep ≤ tsNow s then s.clk.next else tickNow s

/-- A frame ends with what it has: its tick, its counts and events, and its sequencer learns of it. -/
def closeFrame (s : State) (p : Nat) (f0 : Frame) : State :=
  let x := camPort s p
  let f := { f0 with feTs := tsNow s, tick := stampTick s }
  let s1 := setPort s p { x with frames := x.frames.filter (fun g => g.vc != f.vc) }
  if f.discarded then s1
  else
    let s2 := if f.bad = 0 then s1 else camIrq (countFieldSat s1 (Reg.CAM_PORT_ERRCNT p) 15 0 1) 0
    visEnd (addEnded s2 f) f

/-- A frame is marked TRUNCATED and ends (R92). -/
def truncateFrame (s : State) (p : Nat) (f : Frame) : State :=
  closeFrame (if f.discarded then s else portEvent s p 3) p { f with bad := f.bad ||| 4 }

/-! ## The Kickoff plan's intake (R86, R87) -/

/-- The Kickoff plan takes YUV422 8-bit, RGB888, RAW8 and RAW10. -/
def kickType (dt : Nat) : Bool := dt == 0x1E || dt == 0x24 || dt == 0x2A || dt == 0x2B

/-- The width in pixels of a frame held as lines. -/
def kickWidth (l : List (List Byte)) (dt : Nat) : Nat := ((l.head?).getD []).length * 8 / (((dtPack dt).map (·.1)).getD 8)

/-- The strips that count green over the lowest ⌊H/8⌋ rows, by strip bit (R87). -/
def greenStrips (l : List (List Byte)) (dt : Nat) : Nat :=
  let h := l.length
  let w := kickWidth l dt
  let rows := upTo (h - h / 8) h
  ofPositions ((List.range 64).filter (fun k =>
    let cols := upTo (k * w / 64) ((k + 1) * w / 64)
    let px := pairsOf rows cols
    let g := (px.filter (fun p => let c := kickRgb l dt p.1 p.2; decide (24 ≤ 2 * c.2.1 - c.1 - c.2.2))).length
    !px.isEmpty && decide (px.length ≤ 32 * g)))

/-- A frame start under the Kickoff plan: the first virtual channel seen on the port stands. -/
def kickStart (s : State) (p vc dt : Nat) : State :=
  if !kickType dt then s
  else match Map.get s.cam.kick p with
    | none => { s with cam := { s.cam with kick := Map.set s.cam.kick p { vc := vc, dt := dt, receiving := true } } }
    | some k => if k.vc = vc then
        { s with cam := { s.cam with kick := Map.set s.cam.kick p { k with dt := dt, lines := [], receiving := true } } }
      else s

/-- A line under the Kickoff plan. -/
def kickLine (s : State) (p vc dt : Nat) (d : List Byte) : State :=
  match Map.get s.cam.kick p with
  | some k => if k.vc = vc ∧ k.dt = dt ∧ k.receiving = true then
      { s with cam := { s.cam with kick := Map.set s.cam.kick p { k with lines := k.lines ++ [d] } } } else s
  | none => s

/-- A frame end has been received on a port (R92). -/
def endSeen (s : State) (p : Nat) : State := setPort s p { camPort s p with lastEnd := stampTick s, noSignal := false }

/-- A frame end under the Kickoff plan: the decision of its strips, for its tick, and the frame that its tile shows. Its frame rate is
that of the interval from the frame before. (DESIGN CHOICE, assumption 120.) -/
def kickEnd (s : State) (p vc : Nat) : State :=
  match Map.get s.cam.kick p with
  | some k => if k.vc = vc ∧ k.receiving = true then
      let g := (stampTick s, greenStrips k.lines k.dt)
      let s := endSeen s p
      let rate := match k.last with | some l => (rneDiv 100000000 (tsNow s - l.ts)).toNat | none => 0
      let pic : KickPic := { width := kickWidth k.lines k.dt, height := k.lines.length, dt := k.dt, lines := k.lines, ts := tsNow s, rate := rate }
      { s with cam := { s.cam with
          kick := Map.set s.cam.kick p { k with lines := [], receiving := false, last := some pic, green := (g :: k.green).take 2 } } }
    else s
  | none => s

/-! ## Packets (R89–R93) -/

/-- A frame start on an enabled port: its stream, slot and marks (R91, R94, R97, R99). -/
def frameStart (s : State) (p vc dt num : Nat) : State :=
  -- A frame of the same virtual channel that has no frame end is TRUNCATED (R92).
  let s := match (camPort s p).frames.find? (fun f => f.vc == vc) with
    | some f => truncateFrame s p f
    | none => s
  let on := fsyncOn s p
  let s := if on then s else setPort s p { camPort s p with slot := nextSlot s p, late := [] }
  let x := camPort s p
  let expect := x.slot.map (slotKind s p)
  let mf := streamMatches s p 0 vc dt
  let mb := streamMatches s p 1 vc dt
  let kind := if mf && mb then some (expect.getD 0) else if mf then some 0 else if mb then some 1 else none
  match kind with
  | none =>
    let f : Frame := { port := p, vc := vc, dt := dt, discarded := true, lastPkt := tickNow s }
    portEvent (setPort s p { x with frames := x.frames ++ [f] }) p 5
  | some k =>
    let d := streamOf s p k
    let slip := match expect with | some e => e != k | none => false
    let late := match x.slot with | some c => x.late.contains c | none => false
    let note := b2n slip + 2 * b2n late + 4 * b2n (on && x.failed.contains x.pulses)
    let expo := fld s (if k = 0 then Reg.CAM_PORT_FULL_EXPO p else Reg.CAM_PORT_BAND_EXPO p) 23 0
    -- EXPO_NS in steps of 10 ns is rounded to the nearest (R161). (DEDUCED, assumption 123.)
    let capt : Int := if on then (x.pulseTs : Int) + rneDiv (expo : Int) 10 else (tsNow s : Int) + rneDiv (sgn 24 expo) 10
    let row := reg s (Reg.CAM_PORT_ROWTIME p)
    let f : Frame :=
      { port := p, kind := k, vc := vc, dt := dt, num := num, seq := x.count % 2 ^ 32, slot := x.slot.getD 0xFF,
        width := d.2.2.1, height := d.2.2.2, addr := ringSlot s p k, fsTs := tsNow s, captTs := capt,
        fsyncSeq := if on then x.pulses % 2 ^ 32 else 0xFFFFFFFF,
        rowNs := if k = 0 then bits row 15 0 else bits row 31 16, epoch := s.com.epoch % 65536, note := note,
        lastPkt := tickNow s, prevSeq := Map.get x.lastSeq k }
    let taken := f.addr.isSome
    let s1 := setPort s p { x with
      frames := x.frames ++ [f], count := x.count + 1, lastSeq := Map.set x.lastSeq k f.seq,
      fullN := x.fullN + b2n (taken && k == 0), bandN := x.bandN + b2n (taken && k == 1) }
    let s2 := if slip then camIrq (portEvent s1 p 6) 2 else s1
    visStart s2 f

/-- FRAME_START. -/
def execFrameStart (port : Fin 16) (at_ : BitVec 64) (vc : Fin 16) (dt : BitVec 6) (num : BitVec 16) (header : HeaderCheck)
    (s : State) : Out :=
  let p := port.val
  .next (if orderlyStop s then s
    else if kickoff s then (if header = .bad then s else kickStart (packetSeen s p at_.toNat) p vc.val dt.toNat)
    else if !portOn s p then s
    else
      let s1 := headerChecked (packetSeen s p at_.toNat) p header
      if header = .bad then s1 else tolChanged (frameStart s1 p vc.val dt.toNat num.toNat))

/-- A line is stored at the frame's stride; the first one marks the slot rewritten (R90, R93, R94). -/
def storeLine (s : State) (f : Frame) (d : List Byte) : State :=
  match f.addr with
  | none => s
  | some a =>
    let mark := b2n (f.lines = 0) * 4
    let s1 := if f.lines = 0 then unitWrite s a (leBytes 4 0xFFFFFFFF) else s
    let n := lineBytes f.dt f.width
    let part := d.take n
    let s2 := unitWrite s1 (a + 0x80 + f.lines * lineStride f.dt f.width) part
    { s2 with cam := { s2.cam with bytes := s2.cam.bytes + part.length + mark } }

/-- A long packet of a frame (R89–R91, R106). -/
def longPacket (s : State) (p vc dt : Nat) (crcOk overflow : Bool) (d : List Byte) : State :=
  let x := camPort s p
  match x.frames.find? (fun f => f.vc == vc) with
  | none => s
  | some f =>
    let put (s : State) (g : Frame) : State :=
      let y := camPort s p
      setPort s p { y with frames := y.frames.map (fun h => if h.vc = vc then g else h) }
    let f1 := { f with lastPkt := tickNow s, bad := if crcOk then f.bad else f.bad ||| 2 }
    let s1 := if crcOk || f.discarded then s else portEvent s p 2
    if f.discarded ∨ dt ≠ f.dt then put s1 f1
    else if f.overflow ∨ overflow = true then
      let s2 := if f.overflow then s1 else portEvent s1 p 9
      put s2 { f1 with overflow := true, cut := if f.overflow then f.cut else f.lines, bad := f1.bad ||| 16, lines := f.lines + 1,
                       odd := f.odd || d.length != lineBytes f.dt f.width }
    else
      let s2 := if f.lines < f.height then storeLine s1 f d else s1
      put s2 { f1 with lines := f.lines + 1, odd := f.odd || d.length != lineBytes f.dt f.width }

/-- LONG_PACKET. -/
def execLongPacket (port : Fin 16) (at_ : BitVec 64) (vc : Fin 16) (dt : BitVec 6) (header : HeaderCheck) (crcOk : Bool)
    (overflow : Bool) (data : List Byte) (s : State) : Out :=
  let p := port.val
  .next (if orderlyStop s then s
    else if kickoff s then (if header = .bad then s else kickLine (packetSeen s p at_.toNat) p vc.val dt.toNat data)
    else if !portOn s p then s
    else
      let s1 := headerChecked (packetSeen s p at_.toNat) p header
      if header = .bad then s1 else longPacket s1 p vc.val dt.toNat crcOk overflow data)

/-- A frame end; one without a frame start is counted and otherwise ignored (R17, R89, R91, R92). (DEDUCED, assumption 70.) -/
def frameEnd (s0 : State) (p vc : Nat) : State :=
  match (camPort s0 p).frames.find? (fun f => f.vc == vc) with
  | none => portEvent s0 p 5
  | some f =>
    let s := endSeen s0 p
    let size := !f.discarded && (f.odd || f.lines != f.height)
    closeFrame (if size then portEvent s p 4 else s) p (if size then { f with bad := f.bad ||| 8 } else f)

/-- FRAME_END. -/
def execFrameEnd (port : Fin 16) (at_ : BitVec 64) (vc : Fin 16) (header : HeaderCheck) (s : State) : Out :=
  let p := port.val
  .next (if orderlyStop s then s
    else if kickoff s then (if header = .bad then s else kickEnd (packetSeen s p at_.toNat) p vc.val)
    else if !portOn s p then s
    else
      let s1 := headerChecked (packetSeen s p at_.toNat) p header
      if header = .bad then s1 else frameEnd s1 p vc.val)

/-- TRUNCATED: a frame of the port that received no packet for 8 ticks (R92). -/
def execTruncated (port : Fin 16) (s : State) : Out :=
  let p := port.val
  .next (match (camPort s p).frames.find? (fun f => decide (f.lastPkt + 8 ≤ tickNow s)) with
    | some f => truncateFrame s p f
    | none => s)

/-- NO_SIGNAL: a port that receives, without a frame end for 240 ticks (R86, R92). -/
def execNoSignal (port : Fin 16) (s : State) : Out :=
  let p := port.val
  let x := camPort s p
  .next (if (portOn s p || kickoff s) && !x.noSignal && decide (x.lastEnd + 240 ≤ tickNow s) then
      logEvent (camIrq (portEvent (setPort s p { x with noSignal := true }) p 8) 1) 0x30 3 WARN (arg1 p)
    else s)

/-- DESKEW (R88): a periodic sequence leaves DESKEW_DONE as it is. -/
def execDeskew (port : Fin 16) (initial ok : Bool) (s : State) : Out :=
  let p := port.val
  .next (if !ok then portEvent s p 10
    else if initial then setPort s p { camPort s p with deskewed := true } else s)

/-! ## The header (R94, R96, R97) -/

/-- A signed interpolation a + (b − a) · n ÷ d, rounded once. -/
def lerp (a b n : Int) (d : Nat) : Int := a + rneDiv ((b - a) * n) d

/-- The camera pose at a capture instant (R97), with whether the oldest record had to serve. FLAGS, EPOCH and the other words that are
no numbers of motion come from the earlier of the two records. (DEDUCED, assumption 72; DESIGN CHOICE, assumption 124.) -/
def poseAt (s : State) (cam : Nat) (t : Int) : Pose × Bool :=
  let h := s.cam.hist
  let get (e : PoseEntry) : Pose := (e.cams[cam]?).getD {}
  match (h.filter (fun e => decide ((e.2.ts : Int) ≤ t))).getLast?, h.find? (fun e => decide (t < (e.2.ts : Int))) with
  | none, some b => ({ get b.2 with flags := (get b.2).flags ||| 0x40 }, true)
  | none, none => ({}, true)
  | some a, none => (get a.2, false)
  | some a, some b =>
    if b.2.origin then (get b.2, false)
    else
      let p := get a.2
      let q := get b.2
      let n := t - a.2.ts
      let d := b.2.ts - a.2.ts
      let turn := sgn 32 (wrap 32 ((q.heading : Int) - p.heading))
      let turn32 (x y : Int) : Int := x + rneDiv (sgn 32 (wrap 32 (y - x)) * n) d
      ({ p with x := lerp p.x q.x n d, y := lerp p.y q.y n d, z := lerp p.z q.z n d,
                heading := wrap 32 ((p.heading : Int) + rneDiv (turn * n) d), pitch := turn32 p.pitch q.pitch,
                roll := turn32 p.roll q.roll, speed := lerp p.speed q.speed n d,
                yawRate := lerp p.yawRate q.yawRate n d }, false)

/-- The frame header's 128 bytes (R96). -/
def frameHeader (s : State) (f : Frame) : List Byte :=
  let p := poseAt s f.port f.captTs
  let note := f.note ||| (if p.2 then 16 else 0)
  leBytes 4 f.seq ++ leBytes 1 f.port ++ leBytes 1 f.kind ++ leBytes 1 f.slot ++ leBytes 1 f.vc ++ leBytes 1 f.dt ++ [0]
    ++ leBytes 2 f.num ++ leBytes 2 f.width ++ leBytes 2 (min (if f.overflow then f.cut else f.lines) f.height) ++ leBytes 8 f.fsTs ++ leBytes 8 f.feTs
    ++ leBytes 8 f.tick ++ leBytes 8 (wrap 64 f.captTs) ++ leBytes 4 f.fsyncSeq ++ leBytes 2 f.rowNs ++ leBytes 2 f.epoch
    ++ leBytes 1 f.bad ++ leBytes 1 note ++ leBytes 2 (lineStride f.dt f.width) ++ List.replicate 4 0 ++ poseBytes p.1

/-- In the publication phase the headers of frames of earlier ticks are written, SEQ last (R94); their bytes count in CAM_INTAKE. -/
def publishFrames (s : State) (w : Nat) : State :=
  let due := s.cam.ended.filter (fun f => decide (f.tick < w))
  let s1 := due.foldl (fun s f => match f.addr with
    | some a => let s1 := unitWrite s a (frameHeader s f)
                { s1 with cam := { s1.cam with bytes := s1.cam.bytes + 128 } }
    | none => s) s
  let recent := due.foldl (fun l f => f :: l.filter (fun g => g.port != f.port || g.kind != f.kind || g.addr != f.addr)) s1.cam.recent
  { s1 with cam := { s1.cam with ended := s1.cam.ended.filter (fun f => !decide (f.tick < w)), recent := recent } }

/-! ## FSYNC and write lists (R98–R103) -/

/-- A master's state. -/
def busOf (s : State) (m : Nat) : CamBus := Map.getD s.cam.buses m {}

/-- The state with a master's state replaced. -/
def setBus (s : State) (m : Nat) (b : CamBus) : State := { s with cam := { s.cam with buses := Map.set s.cam.buses m b } }

/-- A bus event and its CAM_IRQ_STATUS bit. -/
def busEvent (s : State) (m k : Nat) : State := camIrq (event s (Reg.CAM_BUS_EVENTS m) k) 4

/-- The entries of a list up to its first END, as 64-bit numbers (R101). -/
def listEntries (s : State) (k : Nat) : List Nat :=
  ((List.range 16).map (fun e => reg s (Reg.CAM_LIST (32 * k + 2 * e)) + reg s (Reg.CAM_LIST (32 * k + 2 * e + 1)) * 2 ^ 32)).takeWhile
    (fun v => bits v 33 32 != 0)

/-- Lists at the head of a queue that have no entry left are gone; the next one begins now. -/
def CamBus.trim (b : CamBus) (now : Nat) : CamBus :=
  match b.queue with
  | [] => b
  | _ => let q := b.queue.dropWhile (fun l => l.entries.isEmpty)
         if q.length < b.queue.length then { b with queue := q, since := now } else b

/-- A list takes its place in a queue: in order of issue, and among lists issued at one edge in ascending port number (R103). -/
def queueList (l : BusList) (q : List BusList) : List BusList :=
  let early (x : BusList) : Bool := decide (x.at_ < l.at_) || (x.at_ == l.at_ && decide (x.port ≤ l.port))
  q.takeWhile early ++ [l] ++ q.dropWhile early

/-- The list for a port's slot is placed in its master's queue, which holds 16 lists, the running one among them; a list beyond them is
dropped (R100, R103). (DEDUCED, assumption 71; DESIGN CHOICE, assumption 122.) -/
def issueList (s : State) (p slot : Nat) : State :=
  let m := fld s (Reg.CAM_PORT_CTRL p) 4 3
  match listOf s p slot with
  | none => s
  | some k =>
    if m = 3 then s
    else
      let b := busOf s m
      let l : BusList := { port := p, slot := slot, pulse := (camPort s p).pulses + 1, at_ := s.clk.now, entries := listEntries s k }
      let q := queueList l b.queue
      let b1 : CamBus := { b with queue := q.take 16, since := if b.queue.isEmpty then s.clk.now else b.since }
      let s1 := setBus s m (b1.trim s.clk.now)
      if 16 < q.length then busEvent s1 m 1 else s1

/-- The list that the next slot names is issued for a port with a schedule. -/
def issueNext (s : State) (p : Nat) : State :=
  match (camPort s p).slot with
  | none => s
  | some k => if schedCount s p = 0 then s else issueList s p ((k + 1) % schedCount s p)

/-- The instant of a port's pulse after the latest Whistle: PHASE_NS on, on a REF_CLK cycle (R98). -/
def pulseInst (s : State) (p : Nat) : Nat :=
  ceilDiv (s.clk.inst + fld s (Reg.CAM_PORT_PHASE p) 17 0 * tuNs) tuStep * tuStep

/-- FSYNC_PULSE: the pulse of this tick, where the port has one; the next slot begins, LIST_LATE is judged (R98–R100). -/
def fsyncPulse (s : State) (p : Nat) : State :=
  let x := camPort s p
  let w := tickNow s
  let div := fld s (Reg.CAM_PORT_FSYNC p) 7 0
  if !s.clk.started || orderlyStop s || !fsyncOn s p || w % div != fld s (Reg.CAM_PORT_FSYNC p) 15 8 || x.pulseTick == some w then s
  else
    let s1 := advance s (pulseInst s p)
    let slot := nextSlot s1 p
    let late := slot.isSome && s1.cam.buses.any (fun b => b.2.queue.any (fun l => l.port == p && l.pulse == x.pulses + 1))
    let s2 := setPort s1 p { x with
      pulses := x.pulses + 1, pulseTs := tsNow s1, pulseAt := s1.clk.now, pulseTick := some w, high := true, slot := slot,
      late := if late then slot.toList else [],
      failed := x.failed.filter (fun k => decide (x.pulses < k)) }
    visSettle (if late then camIrq (portEvent s2 p 7) 3 else s2)

/-- FSYNC_PULSE. -/
def execFsyncPulse (port : Fin 16) (s : State) : Out := .next (fsyncPulse s port.val)

/-- The ports whose lists a falling edge of port p issues: CAM's own, or those of the route's sensor step (R100, R153). -/
def edgePorts (s : State) (p : Nat) : List Nat :=
  match routeOfPort s p with
  | none => [p]
  | some r =>
    if (playbookOf s r).sensor = 0xFF then [p]
    else if seqOf r = p then (if fld s (Reg.VSN_SEQ_CTRL p) 0 0 = 1 then portsOf r.source else [])
    else []

/-- FSYNC_FALL: WIDTH_US after the rise, the list for the next slot is issued (R98, R100). -/
def fsyncFall (s : State) (p : Nat) : State :=
  let x := camPort s p
  if !x.high then s
  else
    let s1 := advance s (x.pulseAt + fld s (Reg.CAM_PORT_FSYNC p) 23 16 * 1000 * tuNs)
    (edgePorts s1 p).foldl issueNext (setPort s1 p { x with high := false })

/-- FSYNC_FALL. -/
def execFsyncFall (port : Fin 16) (s : State) : Out := .next (fsyncFall s port.val)

/-- A write transaction's bytes: the address byte, then register and data (R101). -/
def entryWrites (addr e : Nat) : List Byte :=
  leBytes 1 (2 * addr) ++ leBytes 1 (bits e 15 8) ++ leBytes 1 (bits e 7 0)
    ++ (if bits e 33 32 = 1 then leBytes 1 (bits e 23 16) else leBytes 1 (bits e 31 24) ++ leBytes 1 (bits e 23 16))

/-- The address at which a master reaches a port's sensor: SENSOR_ADDR, on a bus in I3C mode the dynamic address that it was given
(R102). -/
def sensorAddr (s : State) (m p : Nat) : Nat :=
  let own := fld s (Reg.CAM_PORT_CTRL p) 11 5
  if fld s (Reg.CAM_BUS_CTRL m) 1 0 = 2 then Map.getD (busOf s m).dyn p own else own

/-- The time of a write: nine SCL periods a byte and two more (R101). -/
def entryTu (s : State) (m e : Nat) : Nat :=
  let bytes := if bits e 33 32 = 1 then 4 else 5
  (9 * bytes + 2) * 10000 * tuNs / max 1 (fld s (Reg.CAM_BUS_CTRL m) 11 4)

/-- A list loses its running entry, and the next begins. -/
def popEntry (s : State) (m : Nat) (sent : List Byte) : State :=
  let b := busOf s m
  match b.queue with
  | [] => s
  | l :: r => setBus s m (({ b with queue := { l with entries := l.entries.drop 1 } :: r, since := s.clk.now, sent := sent } : CamBus).trim s.clk.now)

/-- A list ends at a refused transaction: the rest is skipped and the frame of its slot is marked LIST_FAIL, whether it is still to come,
is being received, waits for its header or has it (R103). -/
def failList (s : State) (m : Nat) : State :=
  let b := busOf s m
  match b.queue with
  | [] => s
  | l :: r =>
    let x := camPort s l.port
    let hit (f : Frame) : Bool := f.port == l.port && f.fsyncSeq == l.pulse % 2 ^ 32
    let mark (f : Frame) : Frame := if hit f then { f with note := f.note ||| 4 } else f
    let s1 := setPort s l.port { x with failed := l.pulse :: x.failed, frames := x.frames.map mark }
    let s2 := (s1.cam.recent.filter hit).foldl (fun s f => markPublished s f 4) { s1 with cam := { s1.cam with ended := s1.cam.ended.map mark } }
    busEvent (setBus s2 m (({ b with queue := r, since := s.clk.now } : CamBus).trim s.clk.now)) m 0

/-- The running entry of a master, where its bus is on. -/
def runningEntry (s : State) (m : Nat) : Option Nat :=
  if fld s (Reg.CAM_BUS_CTRL m) 1 0 = 0 then none
  else match (busOf s m).queue with
    | [] => none
    | l :: _ => l.entries.head?

/-- BUS_TRANSACTION_END: an address-assignment step or a write ends (R102, R103). -/
def busEnd (s : State) (m : Nat) (nack : Bool) : State :=
  let b := busOf s m
  match b.setup with
  | step :: rest =>
    let b1 : CamBus := { b with setup := rest, since := s.clk.now }
    match step with
    | .rstdaa => setBus s m { b1 with dyn := [] }
    | .disec => setBus s m b1
    | .setdasa p a => if nack then busEvent (setBus s m b1) m 3 else setBus s m { b1 with dyn := Map.set b1.dyn p a }
  | [] =>
    match runningEntry s m with
    | none => s
    | some e =>
      if bits e 33 32 = 3 then s
      else
        let s1 := advance s (b.since + entryTu s m e)
        match b.queue with
        | [] => s1
        | l :: _ => if nack then failList s1 m else popEntry s1 m (entryWrites (sensorAddr s m l.port) e)

/-- BUS_TRANSACTION_END. -/
def execBusTransactionEnd (master : Fin 3) (nack : Bool) (s : State) : Out := .next (busEnd s master.val nack)

/-- BUS_WAIT_END: the idle time of a WAIT entry expires (R101). -/
def execBusWaitEnd (master : Fin 3) (s : State) : Out :=
  let m := master.val
  .next (match (busOf s m).setup, runningEntry s m with
    | [], some e =>
      if bits e 33 32 = 3 then popEntry (advance s ((busOf s m).since + bits e 47 40 * 1000 * tuNs)) m (busOf s m).sent else s
    | _, _ => s)

/-- STRETCH: an I2C write whose target stretches SCL beyond 1 ms is abandoned as for a NACK (R103). -/
def execStretch (master : Fin 3) (s : State) : Out :=
  let m := master.val
  .next (if fld s (Reg.CAM_BUS_CTRL m) 1 0 = 1 then
      match runningEntry s m with
      | some e => if bits e 33 32 = 3 then s else failList (busEvent s m 2) m
      | none => s
    else s)

/-- IN_BAND_INTERRUPT: the master refuses it (R102); nothing follows. -/
def execInBandInterrupt (_master : Fin 3) (s : State) : Out := .next s

/-- A commit that enables a bus in I3C mode: RSTDAA, DISEC, then SETDASA for each port on the bus (R102). -/
def startI3c (s : State) (m : Nat) : State :=
  let ports := (List.range 16).filter (fun p => fld s (Reg.CAM_PORT_CTRL p) 4 3 == m)
  let dasa := ports.map (fun p => I3cStep.setdasa p (fld s (Reg.CAM_PORT_CTRL p) 11 5))
  setBus s m { busOf s m with setup := [.rstdaa, .disec] ++ dasa, since := s.clk.now }

/-- CAM_BUS_STATUS: BUSY and QUEUED. -/
def busStatus (s : State) (m : Nat) : Nat :=
  let b := busOf s m
  b2n (!b.setup.isEmpty || (runningEntry s m).isSome) + b.queue.length * 16

/-- CAM_PORT_STATUS (R114). -/
def portStatus (s : State) (p : Nat) : Nat :=
  let x := camPort s p
  b2n x.hs + 2 * b2n x.deskewed + 4 * b2n x.noSignal + (x.slot.getD 0) * 256 + ((x.count - 1) % 65536) * 65536

/-- What a commit changes at CAM when it applies, given the registers before it and the written words (R92, R99, R102). -/
def camApplied (s : State) (before : State) (written : Nat → Bool) : State :=
  let s1 := (List.range 16).foldl (fun s p =>
    let was := portOn before p
    let s1 := if was && !portOn s p then (camPort s p).frames.foldl (fun s f => truncateFrame s p f) s
      else if !was && portOn s p then setPort s p { camPort s p with lastEnd := tickNow s } else s
    let sched := Reg.CAM_PORT_SCHED p :: (List.range 4).map (fun k => Reg.CAM_PORT_LIST0 p + 4 * k)
    if sched.any written then setPort s1 p { camPort s1 p with slot := none } else s1) s
  (List.range 3).foldl (fun s m =>
    if fld before (Reg.CAM_BUS_CTRL m) 1 0 != 2 && fld s (Reg.CAM_BUS_CTRL m) 1 0 == 2 then startI3c s m else s) s1

/-- At a Whistle: CAM_INTAKE and HS_ACTIVE show the tick that ended (R106, R114). -/
def camTick (s : State) : State :=
  let s1 := poke s Reg.CAM_INTAKE s.cam.bytes
  let ports := s1.cam.ports.map (fun e => (e.1, { e.2 with hs := e.2.hsTick, hsTick := false }))
  { s1 with cam := { s1.cam with bytes := 0, ports := ports } }

end Sys2Proof.Machine
end

