-- ==== Sys2Proof/Machine/Motion.lean ====
section
/-! DEFINITION. Wheel encoders, PPS and IMU (R107–R109) and the motion model with its pose ring (R110–R113). -/

namespace Sys2Proof.Machine

/-- A motion event and its CAM_IRQ_STATUS bit (R114). -/
def motionEvent (s : State) (k : Nat) : State := camIrq (event s Reg.CAM_MOTION_EVENTS k) 5

/-- An encoder's state. -/
def encOf (s : State) (e : Nat) : Encoder := (s.cam.encs[e]?).getD {}

/-- The state with an encoder replaced. -/
def setEnc (s : State) (e : Nat) (x : Encoder) : State := { s with cam := { s.cam with encs := setNth s.cam.encs e x } }

/-- Filtered levels change at an instant: 4× decoding, A before B counts up unless INV is set; a change of both is an
error and counts nothing (R107). -/
def encoderEdge (s0 : State) (e : Nat) (a b : Bool) (ts : Nat) : State :=
  let s := advanceTs s0 ts
  let x := encOf s e
  let ca := a != x.a
  let cb := b != x.b
  let up := if ca then a != x.b else b == x.a
  let step := if (up != bit (fld s Reg.CAM_ENC_CTRL 3 2) e) then 1 else 2 ^ 32 - 1
  if !ca && !cb then s
  else
    let s1 := { s with cam := { s.cam with edgeTick := some (tickNow s) } }
    if ca && cb then
      motionEvent (countFieldSat (setEnc s1 e { x with a := a, b := b }) Reg.CAM_ENC_ERRCNT (16 * e + 15) (16 * e) 1) 0
    else setEnc s1 e { x with a := a, b := b, count := (x.count + step) % 2 ^ 32 }

/-- ENCODER_EDGE. -/
def execEncoderEdge (enc : Fin 2) (a b : Bool) (at_ : BitVec 64) (s : State) : Out :=
  .next (encoderEdge s enc.val a b at_.toNat)

/-- PPS_EDGE: an active edge is stamped in 10 ns steps; the steps since the edge before are recorded (R108). -/
def execPpsEdge (at_ : BitVec 64) (s0 : State) : Out :=
  .next (if fld s0 Reg.CAM_PPS_CTRL 0 0 = 0 then s0
    else
      let s := advanceTs s0 at_.toNat
      let t := tsNow s
      let s1 := poke (poke s Reg.CAM_PPS_TS_LO t) Reg.CAM_PPS_TS_HI (t / 2 ^ 32)
      let s2 := match s.cam.pps with
        | some u => poke s1 Reg.CAM_PPS_PERIOD (t - u)
        | none => s1
      { s2 with cam := { s2.cam with pps := some t, ppsLost := false } })

/-- PPS_LOST: no edge for 1.5 s, from the latest edge or from the commit that enabled the input (R108). -/
def execPpsLost (s : State) : Out :=
  .next (let due := s.cam.pps.getD s.cam.ppsSince + 150000000
    if fld s Reg.CAM_PPS_CTRL 0 0 = 0 ∨ s.cam.ppsLost = true then s
    else
      let s1 := advanceTs s due
      motionEvent { s1 with cam := { s1.cam with ppsLost := true } } 2)

/-- A read of CAM_PPS_TS_LO latches the high word. -/
def ppsTsRead (s : State) : State :=
  { s with cam := { s.cam with ppsHi := reg s Reg.CAM_PPS_TS_HI } }

/-- An IMU read starts: it sends READ_ADDR with bit 7 set (R109). -/
def startImu (s : State) (ts : Nat) : State :=
  { s with cam := { s.cam with imuRead := some ts, imuSent := leBytes 1 (fld s Reg.CAM_IMU_CTRL 22 16 + 128) } }

/-- The idle level of IMU_SCK: low in SPI mode 0, high in mode 3 (R109). -/
def imuSckIdle (s : State) : Bool := fld s Reg.CAM_IMU_CTRL 1 1 == 1

/-- IMU_DRDY: a rising edge starts a read stamped with it, or is missed while a read runs (R109). -/
def execImuDrdy (at_ : BitVec 64) (s0 : State) : Out :=
  .next (if fld s0 Reg.CAM_IMU_CTRL 0 0 = 0 ∨ fld s0 Reg.CAM_IMU_CTRL 7 7 = 0 then s0
    else
      let s := advanceTs s0 at_.toNat
      match s.cam.imuRead with
      | some _ => motionEvent s 5
      | none => startImu s (tsNow s))

/-- The six signed numbers of the 12 bytes of a read, first byte lowest, in the order that BIG_ENDIAN selects, with the axes
that INV negates (R109): gyro X, Y, Z, accelerometer X, Y, Z. -/
def imuSample (s : State) (d : Nat) : List Int :=
  let c := reg s Reg.CAM_IMU_CTRL
  (List.range 6).map (fun k =>
    let lo := bits d (16 * k + 7) (16 * k)
    let hi := bits d (16 * k + 15) (16 * k + 8)
    let v := sgn 16 (if bit c 8 then lo * 256 + hi else hi * 256 + lo)
    if bit c (9 + k % 3) then -v else v)

/-- IMU_READ_DONE: the sample becomes the latest complete one (R109). -/
def execImuReadDone (data : BitVec 96) (s : State) : Out :=
  .next (match s.cam.imuRead with
    | none => s
    | some t => { s with cam := { s.cam with imuRead := none, imu := some (t, imuSample s data.toNat) } })

/-- What a commit changes at the motion inputs when it applies: an IMU or PPS input that becomes enabled begins anew. -/
def motionApplied (s : State) (before : State) : State :=
  let imuOn (x : State) : Bool := fld x Reg.CAM_IMU_CTRL 0 0 == 1
  let ppsOn (x : State) : Bool := fld x Reg.CAM_PPS_CTRL 0 0 == 1
  let s1 := if imuOn s == imuOn before then s
    else { s with cam := { s.cam with imuRead := none, imu := none, imuSince := if imuOn s then some (tickNow s) else none } }
  let s2 := if ppsOn s1 && !ppsOn before then
      { s1 with cam := { s1.cam with pps := none, ppsLost := false, ppsSince := tsNow s1 } } else s1
  if fld s2 Reg.CAM_MOTION_CTRL 0 0 = 1 then
    pokeF { s2 with cam := { s2.cam with originDue := true } } Reg.CAM_MOTION_CTRL 0 0 0
  else s2

/-- ORIGIN_RESET: the pose of the next Whistle lies at the origin (R112). (DESIGN CHOICE, assumption 10.) -/
def execOriginReset (s : State) : Out := .next { s with cam := { s.cam with originDue := true } }

/-! ## The motion model (R110) -/

/-- The lower median of numbers, none of none. -/
def lowerMedian (l : List Int) : Option Int := (sortBy (fun a b => decide (a ≤ b)) l)[(l.length - 1) / 2]?

/-- The age in ticks of the latest sample at the latest Whistle, 0 with none: the Whistles since its stamp. -/
def imuAge (s : State) : Nat :=
  match s.cam.imu with
  | none => match s.cam.imuSince with
    | some w => tickNow s - w
    | none => 0
  | some (t, _) =>
    ((s.cam.hist.filter (fun e => decide (e.1 < tickNow s))).map (·.2.ts) ++ [s.clk.inst / tuStep]).countP (fun x => decide (t < x))

/-- The IMU is stale at the latest Whistle (R109): its age is above 8 ticks. -/
def imuStale (s : State) : Bool := fld s Reg.CAM_IMU_CTRL 0 0 == 1 && decide (8 < imuAge s)

/-- The sample that the model uses at the latest Whistle, if any. -/
def imuUsed (s : State) : Option (List Int) :=
  if fld s Reg.CAM_MOTION_CTRL 2 2 = 1 ∧ fld s Reg.CAM_IMU_CTRL 0 0 = 1 ∧ imuStale s = false then s.cam.imu.map (·.2) else none

/-- An encoder's delta of the tick in µm, none where EN is 0. -/
def wheel (s : State) (e : Nat) : Option F32 :=
  if bit (fld s Reg.CAM_ENC_CTRL 1 0) e then
    let x := encOf s e
    let delta := sgn 32 (wrap 32 ((x.count : Int) - x.latch))
    some (fdiv (fmul (fInt delta) (fInt (reg s (Reg.CAM_ENC_SCALE e) : Nat))) (fInt 65536))
  else none

/-- What the model computes of a tick: distance and yaw, the flags, the slip in µm. -/
structure Travel where
  d : F32
  yaw : F32
  flags : Nat
  slip : Option Int
  deriving DecidableEq, Repr

/-- Distance and yaw of the tick (R110). -/
def tickTravel (s : State) : Travel :=
  let dl := wheel s 0
  let dr := wheel s 1
  let imu := imuUsed s
  let d0 : Option F32 := match dl, dr with
    | some l, some r => some (fdiv (fadd l r) (fInt 2))
    | some l, none => some l
    | none, r => r
  let track := fld s Reg.CAM_TRACK 15 0
  let yo : Option F32 := match dl, dr with
    | some l, some r => if track = 0 then none else some (fdiv (fsub r l) (fmul (fInt 1000) (fInt (track : Nat))))
    | _, _ => none
  let per := bits (reg s Reg.WHS_PERIOD) 19 0 * 1024 + bits (reg s Reg.WHS_PERIOD) 29 20
  let yg : Option F32 := imu.map (fun m =>
    fmul (fmul (fmul (fmul (fInt ((m[2]?).getD 0)) (fInt (reg s Reg.CAM_IMU_GYRO_SCALE : Nat))) (fRat 1 1000000)) fDeg)
      (fRat (per : Nat) (1024 * 1000000000)))
  let gain (r : Nat) : F32 := fdiv (fInt (r : Nat)) (fInt 256)
  let c := reg s Reg.CAM_MOTION_CTRL
  let yaw := match yo, yg with
    | some o, some g => fadd o (fmul (gain (bits c 15 8)) (fsub g o))
    | some o, none => o
    | none, some g => g
    | none, none => 0
  let vis := (s.vsn.handed.filter (fun v => decide (fld s Reg.CAM_MOTION_VIS 23 16 ≤ v.2.2))).map (fun v => v.2.1)
  let dv : Option F32 := if bit c 1 && decide (2 ≤ vis.length) then (lowerMedian vis).map fInt else none
  let slip : Option Int := match dv, d0 with
    | some v, some d => if flt (fInt (fld s Reg.CAM_MOTION_VIS 15 0 : Nat)) (fabs (fsub v d)) then some (fRound (fsub v d)) else none
    | _, _ => none
  let d1 : Option F32 := match dv, d0 with
    | some v, some d => some (fadd d (fmul (gain (bits c 23 16)) (fsub v d)))
    | some v, none => some v
    | none, d => d
  { d := d1.getD 0, yaw := yaw, slip := slip,
    flags := b2n (dl.isSome || dr.isSome) + 2 * b2n imu.isSome + 4 * b2n dv.isSome + 8 * b2n slip.isSome + 16 * b2n d1.isNone }

/-- The pose after the tick: heading first, then the reference point, pitch and roll (R110, R112). The record of the origin that step 10
sets carries ORIGIN_RESET too. (DEDUCED, assumption 77; DESIGN CHOICE, assumption 143.) -/
def nextPose (s : State) (w : Nat) (t : Travel) (origin : Bool) : Pose :=
  let p := s.cam.pose
  let turn := toTurns t.yaw
  let heading := wrap 32 ((p.heading : Int) + turn)
  let a := fsub (fTurns (heading : Nat)) (fdiv t.yaw (fInt 2))
  let level (old : Int) (target : F32) : Int :=
    let r := fTurns old
    toTurns (fadd r (fdiv (fsub target r) (fInt 16)))
  let tilt : Int × Int := match imuUsed s with
    | none => (p.pitch, p.roll)
    | some m =>
      let acc (k : Nat) : F32 := fInt ((m[3 + k]?).getD 0)
      (level p.pitch (fatan2 (fneg (acc 0)) (fsqrt (fadd (fmul (acc 1) (acc 1)) (fmul (acc 2) (acc 2))))),
       level p.roll (fatan2 (acc 1) (acc 2)))
  { whistle := w, x := if origin then 0 else p.x + fRound (fmul t.d (fcos a)),
    y := if origin then 0 else p.y + fRound (fmul t.d (fsin a)), z := 0, heading := if origin then 0 else heading,
    pitch := tilt.1, roll := tilt.2, speed := fRound t.d, yawRate := turn,
    flags := t.flags + 128 * b2n origin, epoch := s.com.epoch % 65536, lead := 0 }

/-- The machine pose L ticks on at the same speed and yaw rate (R111). -/
def poseAhead (p : Pose) (l : Nat) : Pose :=
  let a := fmul (fScaled (2 * (p.heading : Int) + (l : Int) * p.yawRate) (-33)) fTwoPi
  let d := fInt ((l : Int) * p.speed)
  { p with whistle := p.whistle + l, x := p.x + fRound (fmul d (fcos a)), y := p.y + fRound (fmul d (fsin a)),
           heading := wrap 32 ((p.heading : Int) + (l : Int) * p.yawRate), flags := p.flags + 32, lead := l }

/-- Z–Y–X angles of Ry(Pm)·Rx(Rm)·Rz(MOUNT.YAW)·Ry(MOUNT.PITCH)·Rx(MOUNT.ROLL) in 2^−32 turns (R247). A level machine leaves
the mount's own angles. -/
def mountAngles (s : State) (c : Nat) (pm rm : Int) : Int × Int × Int :=
  let yp := reg s (Reg.CAM_MOUNT_YP c)
  let my := sgn 16 (bits yp 15 0) * 65536
  let mp := sgn 16 (bits yp 31 16) * 65536
  let mr := sgn 16 (bits (reg s (Reg.CAM_MOUNT_ROLL c)) 15 0) * 65536
  if pm = 0 ∧ rm = 0 then (my, mp, mr)
  else
    let m (v : Vec3) : Vec3 :=
      rotY (fTurns pm) (rotX (fTurns rm) (rotZ (fTurns my) (rotY (fTurns mp) (rotX (fTurns mr) v))))
    let one := fInt 1
    let ex := m { x := one, y := 0, z := 0 }
    let ey := m { x := 0, y := one, z := 0 }
    let ez := m { x := 0, y := 0, z := one }
    (toTurns (fatan2 ex.y ex.x), toTurns (fatan2 (fneg ex.z) (fsqrt (fadd (fmul ex.x ex.x) (fmul ex.y ex.y)))),
     toTurns (fatan2 ey.z ez.z))

/-- A machine pose composed with a camera's mount (R111). -/
def cameraPose (s : State) (c : Nat) (p : Pose) : Pose :=
  let xy := reg s (Reg.CAM_MOUNT_XY c)
  let mx := fInt (sgn 16 (bits xy 15 0) * 1000)
  let my := fInt (sgn 16 (bits xy 31 16) * 1000)
  let h := fTurns (p.heading : Nat)
  let r := rotZ h { x := mx, y := my, z := 0 }
  let a := mountAngles s c p.pitch p.roll
  { p with x := p.x + fRound r.x, y := p.y + fRound r.y, z := (fld s (Reg.CAM_MOUNT_Z c) 15 0 : Nat) * 1000,
           heading := wrap 32 ((p.heading : Int) + a.1), pitch := a.2.1, roll := a.2.2 }

/-- The address of the pose ring's entry of a Whistle (R112). -/
def poseEntryAddr (s : State) (w : Nat) : Nat :=
  bits (reg s Reg.CAM_POSE_BASE_LO) 31 21 * 2 ^ 21 + bits (reg s Reg.CAM_POSE_BASE_HI) 7 0 * 2 ^ 32 + (w % 1024) * 2048

/-- The cameras' poses and the predicted records of a machine pose, the entry in the pose ring, and the status page
(R111, R112). -/
def publishPose (s : State) (w : Nat) (origin : Bool) : State :=
  let p := s.cam.pose
  let cams := (List.range 16).map (fun c => cameraPose s c p)
  let pred := (List.range 16).map (fun c => match routeOfPort s c with
    | none => List.replicate 64 (0 : Byte)
    | some r => poseBytes (cameraPose s c (poseAhead p (leadOf s s.regs r.route))))
  let s1 := unitWrite s (poseEntryAddr s w) ((cams.map poseBytes).flatten ++ pred.flatten)
  let s2 := statWrite s1 (statBase 3) (poseBytes p)
  let hist := Map.set (s2.cam.hist.filter (fun e => decide (w < e.1 + 1024))) w
    { ts := s2.clk.inst / tuStep, origin := origin, cams := cams }
  { s2 with cam := { s2.cam with hist := hist } }

/-- Encoder counts latch; without DRDY_EN an IMU read starts, stamped with this Whistle (R107, R109). -/
def motionLatch (s : State) : State :=
  let s1 := [0, 1].foldl (fun s e => let x := encOf s e
    poke (setEnc s e { x with latch := x.count }) (Reg.CAM_ENC_COUNT e) x.count) s
  if fld s Reg.CAM_IMU_CTRL 0 0 = 1 ∧ fld s Reg.CAM_IMU_CTRL 7 7 = 0 ∧ s1.cam.imuRead.isNone then
    startImu s1 (s.clk.inst / tuStep)
  else s1

/-- The motion model at Whistle w (R110–R112). Without a plan in force there is no world frame: the inputs latch and no
pose is published. (DEDUCED, assumption 76.) -/
def motionModel (s : State) (w : Nat) : State :=
  if !s.fab.inForce then motionLatch s
  else
    let origin := s.cam.originDue
    let t := tickTravel s
    let stale := imuStale s
    let p := nextPose s w t origin
    let s1 := match t.slip with
      | some v => let s1 := motionEvent s 3
                  if s.cam.slipWas then s1 else logEvent s1 0x31 3 WARN (argN 4 (wrap 32 v))
      | none => s
    let none_ := bit t.flags 4
    let s2 := if none_ then
        let s2 := motionEvent s1 4
        if s.cam.noDistWas then s2 else logEvent s2 0x32 3 WARN []
      else s1
    let s3 := if stale then
        let s3 := motionEvent s2 1
        if s.cam.staleWas then s3 else logEvent s3 0x33 3 WARN (arg1 (min 255 (imuAge s)))
      else s2
    let s4 := { s3 with cam := { s3.cam with pose := p, originDue := false, slipWas := t.slip.isSome, noDistWas := none_,
                                             staleWas := stale } }
    motionLatch (publishPose s4 w origin)

end Sys2Proof.Machine
end

