-- ==== Sys2Proof/Machine/Synthesis.lean ====
section
/-! DEFINITION. Sweep synthesis (R245–R268): the sweep frame, the sources of a sweep, sampling, fusion, prediction and fill,
the sweep record and the synthesis job. -/

namespace Sys2Proof.Machine

/-! ## The sweep frame (R245, R246) -/

/-- The geometry of a sweep: N in whole µm, θ in 2^−32 turns, the pitch in µm and the datum row. -/
structure SweepGeom where
  nx : Int
  ny : Int
  theta : Nat
  p : F32
  datum : Nat
  deriving DecidableEq, Repr

/-- Half of one. -/
def fHalf : F32 := fRat 1 2

/-- The forward and left vectors of a heading (R246). -/
def forwardOf (theta : Nat) : F32 × F32 := (fcos (fTurns (theta : Nat)), fsin (fTurns (theta : Nat)))
def leftOf (theta : Nat) : F32 × F32 := (fneg (fsin (fTurns (theta : Nat))), fcos (fTurns (theta : Nat)))

/-- The pitch of a PITCH_NM value in µm. -/
def pitchF (nm : Nat) : F32 := fRat (nm : Nat) 1000

/-- θ and N from a camera record (R246). -/
def sweepGeom (s : State) (img : Map Word) (r cam : Nat) (pc : Pose) : SweepGeom :=
  let yaw := sgn 16 (ifld s img (Reg.CAM_MOUNT_YP cam) 15 0) * 65536
  let theta := wrap 32 ((pc.heading : Int) - yaw)
  let f := forwardOf theta
  let l := leftOf theta
  let nf := fInt (sgn 16 (ifld s img (Reg.SYN_RT_GEOM r) 15 0) * 1000)
  let nl := fInt (sgn 16 (ifld s img (Reg.SYN_RT_GEOM r) 31 16) * 1000)
  { nx := pc.x + fRound (fadd (fmul nf f.1) (fmul nl l.1)), ny := pc.y + fRound (fadd (fmul nf f.2) (fmul nl l.2)),
    theta := theta, p := pitchF (ifld s img (Reg.SYN_RT_PITCH r) 21 0), datum := ifld s img (Reg.SYN_RT_CTRL r) 15 8 }

/-- The offset o(i, j) of a pixel's ground point from N (R246). -/
def pixelOffset (g : SweepGeom) (i j : Nat) : F32 × F32 :=
  let f := forwardOf g.theta
  let l := leftOf g.theta
  let a := fmul (fadd (fInt ((j : Int) - g.datum)) fHalf) g.p
  let b := fmul (fsub (fRat 2047 2) (fInt (i : Nat))) g.p
  (fadd (fmul a f.1) (fmul b l.1), fadd (fmul a f.2) (fmul b l.2))

/-! ## Frames in a capture ring (R93–R96) -/

/-- What a frame header says. -/
structure FrameHdr where
  seq : Nat
  kind : Nat
  dt : Nat
  width : Nat
  height : Nat
  tick : Nat
  fsyncSeq : Nat
  rowNs : Nat
  bad : Nat
  pose : Pose
  deriving DecidableEq, Repr

/-- A header read from a slot; bytes outside Court and LPDDR6 read zero (R547). -/
def readHdr (s : State) (a : Nat) : FrameHdr :=
  let b := unitRead s a 128
  { seq := fieldLE b 0 4, kind := fieldLE b 5 1, dt := fieldLE b 8 1, width := fieldLE b 0x0C 2, height := fieldLE b 0x0E 2,
    tick := fieldLE b 0x20 8, fsyncSeq := fieldLE b 0x30 4, rowNs := fieldLE b 0x34 2, bad := fieldLE b 0x38 1,
    pose := poseOf (slice b 0x40 64) }

/-- The slots of a kind in a port's capture ring under an image (R93). (DEDUCED, assumption 78.) -/
def ringSlots (s : State) (img : Map Word) (p kind : Nat) : List Nat :=
  let size (fmt sz : Nat) : Nat :=
    captureSlot (ifld s img fmt 9 4) (ifld s img sz 13 0) (ifld s img sz 29 16)
  let zf := size (Reg.CAM_PORT_FULL_FMT p) (Reg.CAM_PORT_FULL_SIZE p)
  let zb := size (Reg.CAM_PORT_BAND_FMT p) (Reg.CAM_PORT_BAND_SIZE p)
  let base := addr40 s img (Reg.CAM_PORT_RING_LO p) (Reg.CAM_PORT_RING_HI p) / 4096 * 4096
  let nf := ifld s img (Reg.CAM_PORT_RING p) 7 0
  if kind = 0 then (List.range nf).map (fun i => base + i * zf)
  else (List.range (ifld s img (Reg.CAM_PORT_RING p) 15 8)).map (fun i => base + nf * zf + i * zb)

/-- The frames of a kind that a port's ring holds whole: their slots and headers. -/
def storedFrames (s : State) (img : Map Word) (p kind : Nat) : List (Nat × FrameHdr) :=
  ((ringSlots s img p kind).map (fun a => (a, readHdr s a))).filter (fun x =>
    x.2.seq != 0xFFFFFFFF && x.2.kind == kind && x.2.width != 0)

/-! ## Sources (R250–R252) -/

/-- The result slot that holds a frame's coarse results, published by Whistle w: its address and FLAGS (R143–R145). -/
def resultOf (s : State) (img : Map Word) (seq_ port fseq w : Nat) : Option (Nat × Nat) :=
  let n := ifld s img (Reg.VSN_SEQ_RING seq_) 7 0
  let z := ifld s img (Reg.VSN_SEQ_RING seq_) 23 8 * 65536
  if n = 0 ∨ z = 0 then none
  else
    let a := addr40 s img (Reg.VSN_SEQ_RING_LO seq_) (Reg.VSN_SEQ_RING_HI seq_) / 65536 * 65536 + (fseq % n) * z
    let b := unitRead s a 256
    if fieldLE b 0 4 = fseq ∧ fieldLE b 4 1 = port ∧ fieldLE b 0x10 8 ≤ w then some (a, fieldLE b 6 1) else none

/-- The refined results of a slot may be used at tick W (R250). -/
def refinedOk (s : State) (a seq tick w : Nat) : Bool := unitLE s (a + 0xFC) 4 == seq && decide (tick + 2 ≤ w)

/-- A frame as a source for tick W, none where it is not usable; the flag says that its results are unpublished (R250). -/
def asSource (s : State) (img : Map Word) (r : Route) (w age : Nat) (standIn : Bool) (port : Nat) (x : Nat × FrameHdr) :
    Option Src × Bool :=
  let h := x.2
  if h.bad ≠ 0 ∨ w ≤ h.tick ∨ h.tick + age ≤ w then (none, false)
  else
    let src : Src := { addr := x.1, port := port, kind := h.kind, standIn := standIn, seq := h.seq, tick := h.tick,
                       result := none, refined := false }
    match entryOf (playbookOf s r) h.kind with
    | none => (some src, false)
    | some _ =>
      match resultOf s img (seqOf r) port h.seq w with
      | none => (none, true)
      | some (a, flags) =>
        if (flags &&& (vfDiscarded ||| vfSkipped)) != 0 then (none, false)
        else (some { src with result := some a, refined := refinedOk s a h.seq h.tick w }, false)

/-- The frame that stands for each frame of port 2k + 1 of a pair: the port's own where port 2k's of that pulse is missing or
BAD (R250). -/
def standIns (s : State) (img : Map Word) (p kind : Nat) : List (Nat × FrameHdr) :=
  let left := storedFrames s img p kind
  (storedFrames s img (p + 1) kind).filter (fun x =>
    x.2.fsyncSeq != 0xFFFFFFFF && !(left.any (fun y => y.2.fsyncSeq == x.2.fsyncSeq && y.2.bad == 0)))

/-- The usable frames of a kind, newest first, ties to the lower SEQ, and whether one was passed over unpublished (R250,
R251). -/
def usable (s : State) (img : Map Word) (r : Route) (w age kind : Nat) : List Src × Bool :=
  let p := seqOf r
  let own := (storedFrames s img p kind).map (asSource s img r w age false p)
  let other := if isPair r then (standIns s img p kind).map (asSource s img r w age true (p + 1)) else []
  let all := own ++ other
  (sortBy (fun a b => decide (b.tick < a.tick) || (a.tick == b.tick && decide (a.seq ≤ b.seq))) (all.filterMap (·.1)),
   all.any (·.2))

/-- The number of sources by kind, the age limit and the prediction limit of a route; shedding step 5 leaves the newest FULL
frame alone (R506). -/
def sourceLimits (s : State) (img : Map Word) (r : Nat) : Nat × Nat × Nat × Nat :=
  let age := ifld s img (Reg.SYN_RT_AGE r) 9 0
  if shedStep s 5 then (1, 0, age, 0)
  else (ifld s img (Reg.SYN_RT_CTRL r) 2 1, ifld s img (Reg.SYN_RT_CTRL r) 4 3, age, ifld s img (Reg.SYN_RT_AGE r) 27 24)

/-- The source list of a sweep and LATE_SRC (R251). -/
def sourceList (s : State) (img : Map Word) (r : Route) (w : Nat) : List Src × Bool :=
  let l := sourceLimits s img r.route
  let f := usable s img r w l.2.2.1 0
  let b := usable s img r w l.2.2.1 1
  (f.1.take l.1 ++ b.1.take l.2.1, f.2 || b.2)

/-- Offset `k` of a result header's OFFSETS (R144). -/
def resultOff (s : State) (a k : Nat) : Nat := unitLE s (a + 0x34 + 4 * k) 4

/-- The patch of a tile among refined results, its address (R146). -/
def patchOf (s : State) (a tile : Nat) : Option Nat :=
  let n := unitLE s (a + 0x1C) 2
  let o := unitLE s (a + 0x6C) 4
  if o = 0 then none
  else ((List.range n).map (fun i => a + o + 4096 * i)).find? (fun p => unitLE s p 2 == tile)

/-- The tile confidence T of a source at a position (R252). A result without a tile grid gives 255. (DEDUCED, assumption 79.) -/
def tileConfAt (s : State) (x : Src) (u v : F32) : Nat :=
  match x.result with
  | none => 255
  | some a =>
    let o := resultOff s a 10
    let tx := (fFloor u / 64).toNat
    let ty := (fFloor v / 64).toNat
    let t := ty * unitLE s (a + 0x1A) 1 + tx
    if o = 0 then 255
    else match (if x.refined then patchOf s a t else none) with
      | some p => unitLE s (p + 0xC40) 1
      | none => unitLE s (a + o + t) 1

/-! ## Sampling (R254) -/

/-- A source as a camera: its header's pose and size with the settings of its port and kind (R248). -/
def srcOptics (s : State) (img : Map Word) (x : Src) (h : FrameHdr) : Optics :=
  opticsOf s img x.port x.kind h.pose h.width h.height h.dt h.rowNs (ireg s img Reg.WHS_PERIOD)

/-- A sample times its gain: (value × GAIN) ÷ 4,096. -/
def gained (v : F32) (gain : Nat) : F32 := fdiv (fmul v (fInt (gain : Nat))) (fInt 4096)

/-- The gains of a port: R, G, B. -/
def gainsOf (s : State) (img : Map Word) (p : Nat) : Nat × Nat × Nat :=
  (ifld s img (Reg.SYN_CAM_GAIN_RG p) 15 0, ifld s img (Reg.SYN_CAM_GAIN_RG p) 31 16, ifld s img (Reg.SYN_CAM_GAIN_B p) 15 0)

/-- The R, G and B of a quad of a raw mosaic (R254). -/
def quadRgb (s : State) (img : Map Word) (x : Src) (h : FrameHdr) (a b : Nat) : F32 × F32 × F32 :=
  let st := lineStride h.dt h.width
  let px (dy dx : Nat) : Nat := rawPixel s (x.addr + 0x80) st h.dt (2 * a + dx) (2 * b + dy)
  let bayer := ifld s img (Reg.CAM_PORT_CTRL x.port) 13 12
  let black := fInt (ifld s img (Reg.SYN_CAM_BLACK x.port) 11 0 : Nat)
  let g := gainsOf s img x.port
  let lin (v : F32) (k : Nat) : F32 := fmul (gained (fsub v black) k) (fScaled 1 (8 - (rawBits h.dt : Int)))
  let one (dy dx : Nat) : F32 := fInt (px dy dx : Nat)
  let mean (y0 x0 y1 x1 : Nat) : F32 := fdiv (fadd (one y0 x0) (one y1 x1)) (fInt 2)
  match bayer with
  | 0 => (lin (one 0 0) g.1, lin (mean 0 1 1 0) g.2.1, lin (one 1 1) g.2.2)
  | 1 => (lin (one 0 1) g.1, lin (mean 0 0 1 1) g.2.1, lin (one 1 0) g.2.2)
  | 2 => (lin (one 1 0) g.1, lin (mean 0 0 1 1) g.2.1, lin (one 0 1) g.2.2)
  | _ => (lin (one 1 1) g.1, lin (mean 0 1 1 0) g.2.1, lin (one 0 0) g.2.2)

/-- The R, G and B of a pixel of a YUV422 or RGB888 frame (R254). -/
def pixelRgb (s : State) (img : Map Word) (x : Src) (h : FrameHdr) (px py : Nat) : F32 × F32 × F32 :=
  let l := x.addr + 0x80 + py * lineStride h.dt h.width
  let g := gainsOf s img x.port
  if h.dt = 0x24 then
    let c (k : Nat) : F32 := fInt (safeByte s (l + 3 * px + k) : Nat)
    (gained (c 2) g.1, gained (c 1) g.2.1, gained (c 0) g.2.2)
  else
    let yy := fsub (fInt (safeByte s (l + 2 * px + 1) : Nat)) (fInt 16)
    let u := fsub (fInt (safeByte s (l + 4 * (px / 2)) : Nat)) (fInt 128)
    let v := fsub (fInt (safeByte s (l + 4 * (px / 2) + 2) : Nat)) (fInt 128)
    let m (k : Int) (w : F32) : F32 := fmul (fRat k 1000) w
    let y1 := m 1164 yy
    (gained (fadd y1 (m 1596 v)) g.1, gained (fsub (fsub y1 (m 392 u)) (m 813 v)) g.2.1, gained (fadd y1 (m 2017 u)) g.2.2)

/-- The bilinear value of R254. -/
def bilinF (n00 n10 n01 n11 fx fy : F32) : F32 :=
  let one := fInt 1
  fadd (fmul (fadd (fmul n00 (fsub one fx)) (fmul n10 fx)) (fsub one fy))
    (fmul (fadd (fmul n01 (fsub one fx)) (fmul n11 fx)) fy)

/-- A channel value held within 0–255 and rounded to an integer. -/
def to255 (v : F32) : Nat := (fRound (fclamp v 0 (fInt 255))).toNat

/-- Bilinear interpolation over a lattice of `nx` × `ny` samples: the position's floor, its fractions, the four samples. -/
def lattice (nx ny : Nat) (u v : F32) (f : Nat → Nat → F32 × F32 × F32) : Nat × Nat × Nat :=
  let x0 := fFloor u
  let y0 := fFloor v
  let fx := fsub u (fInt x0)
  let fy := fsub v (fInt y0)
  let at_ (dx dy : Int) : F32 × F32 × F32 := f (edge nx (x0 + dx)) (edge ny (y0 + dy))
  let a := at_ 0 0
  let b := at_ 1 0
  let c := at_ 0 1
  let d := at_ 1 1
  (to255 (bilinF a.1 b.1 c.1 d.1 fx fy), to255 (bilinF a.2.1 b.2.1 c.2.1 d.2.1 fx fy),
   to255 (bilinF a.2.2 b.2.2 c.2.2 d.2.2 fx fy))

/-- The sample of a source at a position (R254). Pixels of a slot rewritten since the list was formed are undefined (R265):
a value left open. -/
def sampleAt (s : State) (img : Map Word) (x : Src) (h : FrameHdr) (u v : F32) : Nat × Nat × Nat :=
  if h.seq ≠ x.seq then
    let n := Config.unstated 4 (x.addr : Nat)
    (n % 256, n / 256 % 256, n / 65536 % 256)
  else if isRaw h.dt then
    let q (a : F32) : F32 := fdiv (fsub a fHalf) (fInt 2)
    lattice (h.width / 2) (h.height / 2) (q u) (q v) (quadRgb s img x h)
  else lattice h.width h.height u v (pixelRgb s img x h)

/-! ## Height from stereo (R253) -/

/-- The class of a pixel of a pair route: 0 none (a single camera), 1 RESERVED, 2 NO_HEIGHT, 3 MEASURED; with h in µm. -/
structure Height where
  cls : Nat
  h : F32
  deriving DecidableEq, Repr

/-- The camera-relative point G − (rec.X, rec.Y, rec.Z): exact integer differences, converted once, plus FP32 offsets
(R246). -/
def relPoint (pose : Pose) (nx ny : Int) (o : F32 × F32) (h : F32) : Vec3 :=
  { x := fadd (fInt (nx - pose.x)) o.1, y := fadd (fInt (ny - pose.y)) o.2, z := fadd (fInt (-pose.z)) h }

/-- The level-1 word and confidence of a stereo map at an index, refined tiles in place (R146). -/
def stereoWordAt (s : State) (x : Src) (a x1 y1 w1 : Nat) : Nat × Nat :=
  let t := (y1 / 32) * unitLE s (a + 0x1A) 1 + x1 / 32
  let i := (y1 % 32) * 32 + x1 % 32
  match (if x.refined then patchOf s a t else none) with
  | some p => (unitLE s (p + 0x40 + 2 * i) 2, unitLE s (p + 0x840 + i) 1)
  | none =>
    let k := y1 * w1 + x1
    (unitLE s (a + resultOff s a 11 + 2 * k) 2, unitLE s (a + resultOff s a 12 + k) 1)

/-- The stereo class of a ground point (R253). -/
def heightAt (s : State) (q : SynRoute) (pair : Bool) (g : SweepGeom) (o : F32 × F32) : Height :=
  if !pair then { cls := 0, h := 0 }
  else match q.height with
    | none => { cls := 2, h := 0 }
    | some (x, _) =>
      let hd := readHdr s x.addr
      let op := srcOptics s q.image x hd
      match project op (relPoint hd.pose g.nx g.ny o 0), x.result with
      | some p, some a =>
        let w1 := hd.width / 2
        let half (c : F32) (n : Nat) : Nat := min ((fFloor c / 2).toNat) (n - 1)
        let m := stereoWordAt s x a (half p.u w1) (half p.v (hd.height / 2)) w1
        if 0xFFFC ≤ m.1 then { cls := 1, h := 0 }
        else if m.1 = 0 ∨ m.2 < ifld s q.image (Reg.SYN_RT_STEREO q.route) 23 16 then { cls := 2, h := 0 }
        else
          let base := fInt (ifld s q.image (Reg.SYN_RT_STEREO q.route) 15 0 : Nat)
          let z := fdiv (fmul (fmul (fdiv op.fx (fInt (op.bin : Nat))) base) (fInt 1000)) (fdiv (fInt (m.1 : Nat)) (fInt 16))
          let r := toWorld op p.heading { x := fmul z p.xn, y := fmul z p.yn, z := z }
          let top := fmul (fInt (ifld s q.image (Reg.SYN_RT_HEIGHT q.route) 9 0 : Nat)) (fInt 1000)
          { cls := 3, h := fclamp (fadd (fInt hd.pose.z) r.z) 0 top }
      | _, _ => { cls := 2, h := 0 }

/-- The height map source of a pair route: the newest FULL pulse whose result carries a stereo map; the source stands for
the map's reference image, with REF (R253). -/
def heightSource (s : State) (img : Map Word) (r : Route) (w age : Nat) : Option (Src × Nat) :=
  if !isPair r then none
  else
    let ref := match (entryOf (playbookOf s r) 0).bind (fun l => l.find? (fun x => x.op == 7)) with
      | some x => bits x.imm 23 23
      | none => 0
    let p := seqOf r
    let left := ((storedFrames s img p 0).map (asSource s img r w age false p)).filterMap (·.1)
    let right := storedFrames s img (p + 1) 0
    let sorted := sortBy (fun a b => decide (b.tick < a.tick) || (a.tick == b.tick && decide (a.seq ≤ b.seq))) left
    sorted.findSome? (fun x =>
      match x.result with
      | none => none
      | some a =>
        let fs := (readHdr s x.addr).fsyncSeq
        match right.find? (fun y => y.2.fsyncSeq == fs && y.2.bad == 0 && decide (y.2.tick < w) && decide (w < y.2.tick + age)) with
        | none => none
        | some y =>
          if resultOff s a 11 = 0 ∨ bit (unitLE s (a + 6) 1) 2 then none
          else if ref = 0 then some (x, 0)
          else some ({ x with addr := y.1, port := p + 1, seq := y.2.seq }, 1))

/-! ## Prediction (R257) -/

/-- The header of a sweep slot. -/
def sweepHdr (s : State) (a : Nat) : List Byte := unitRead s a 256

/-- A sweep slot reads whole, for Whistle w, with STATUS OK (R260). -/
def sweepReadable (s : State) (a w : Nat) : Bool :=
  let b := sweepHdr s a
  fieldLE b 0 4 == w % 2 ^ 32 && fieldLE b 0xFC 4 == w % 2 ^ 32 && fieldLE b 5 1 == 0 && fieldLE b 8 8 == w

/-- The geometry that a sweep header records. -/
def hdrGeom (b : List Byte) : SweepGeom :=
  { nx := fieldSLE b 0x28 8, ny := fieldSLE b 0x30 8, theta := fieldLE b 0x24 4, p := pitchF (fieldLE b 0x20 4),
    datum := fieldLE b 0x1C 1 }

/-- The prediction base of a sweep of tick W: the newest readable sweep within the limit, with its age. -/
def predBase (s : State) (img : Map Word) (r w : Nat) : Option (Nat × Nat) :=
  let n := ifld s img (Reg.SYN_RT_RING r) 4 0
  let lim := min (sourceLimits s img r).2.2.2 (n - 1)
  (upTo 1 (lim + 1)).findSome? (fun k =>
    if w < k then none
    else match sweepAddr s img r (w - k) with
      | some a => if sweepReadable s a (w - k) then some (a, k) else none
      | none => none)

/-- Where a point lies in a sweep: (ip, jp) of R257, given its exact offset from the sweep's N plus an FP32 offset. -/
def sweepPos (b : SweepGeom) (e : F32 × F32) : F32 × F32 :=
  let f := forwardOf b.theta
  let l := leftOf b.theta
  let a := fadd (fmul e.1 f.1) (fmul e.2 f.2)
  let c := fadd (fmul e.1 l.1) (fmul e.2 l.2)
  (fsub (fRat 2047 2) (fdiv c b.p), fsub (fadd (fdiv a b.p) (fInt (b.datum : Nat))) fHalf)

/-- The position lies within a sweep. -/
def inSweep (q : F32 × F32) : Bool :=
  fle 0 q.1 && fle q.1 (fInt 2047) && fle 0 q.2 && fle q.2 (fInt 127)

/-- The pixel word and the auxiliary half-word of a stored sweep. -/
def sweepPixel (s : State) (a i j : Nat) : Nat := unitLE s (a + 0x10000 + (j * 2048 + i) * 4) 4
def sweepAux (s : State) (a i j : Nat) : Nat := unitLE s (a + 0x110000 + (j * 2048 + i) * 2) 2

/-- Colour and least CONF of the four sweep pixels about a position (R257). -/
def sweepSample (s : State) (a : Nat) (q : F32 × F32) : (Nat × Nat × Nat) × Nat :=
  let x0 := fFloor q.1
  let y0 := fFloor q.2
  let rgb := lattice 2048 128 q.1 q.2 (fun i j =>
    let w := sweepPixel s a i j
    (fInt (bits w 7 0 : Nat), fInt (bits w 15 8 : Nat), fInt (bits w 23 16 : Nat)))
  let conf (dx dy : Int) : Nat := sweepAux s a (edge 2048 (x0 + dx)) (edge 128 (y0 + dy)) % 256
  (rgb, min (min (conf 0 0) (conf 1 0)) (min (conf 0 1) (conf 1 1)))

/-- A confidence decayed k times. -/
def decayed (d : Nat) : Nat → Nat → Nat
  | 0, c => c
  | k + 1, c => decayed d k (c * d / 256)

/-! ## Fusion (R255, R256) -/

/-- One pixel of a sweep. -/
structure SweepPx where
  rgb : Nat × Nat × Nat
  state : Nat
  src : Nat
  pred : Bool
  rsv : Bool
  conf : Nat
  height : Nat
  deriving DecidableEq, Repr

/-- fill() of R257. -/
def fillPixel (s : State) (q : SynRoute) (g : SweepGeom) (o : F32 × F32) : SweepPx :=
  let fill := ireg s q.image (Reg.SYN_RT_FILL q.route)
  let plain : SweepPx := { rgb := (bits fill 7 0, bits fill 15 8, bits fill 23 16), state := 2, src := 0, pred := false,
                           rsv := false, conf := 0, height := 0xFF }
  match q.base with
  | none => plain
  | some (a, k) =>
    let b := hdrGeom (sweepHdr s a)
    let pos := sweepPos b (fadd (fInt (g.nx - b.nx)) o.1, fadd (fInt (g.ny - b.ny)) o.2)
    if inSweep pos then
      let v := sweepSample s a pos
      { plain with rgb := v.1, pred := true, conf := decayed (ifld s q.image (Reg.SYN_RT_AGE q.route) 23 16) k v.2 }
    else plain

/-- A source that sees the pixel: its number, weight, confidence, colour, tick and kind. -/
structure Seen where
  ix : Nat
  w : Nat
  cs : Nat
  rgb : Nat × Nat × Nat
  tick : Nat
  kind : Nat
  deriving DecidableEq, Repr

/-- R + 2G + B. -/
def luma4 (c : Nat × Nat × Nat) : Int := ((c.1 + 2 * c.2.1 + c.2.2 : Nat) : Int)

/-- The sources that see a ground point, in list order (R255). -/
def seenBy (s : State) (q : SynRoute) (w : Nat) (g : SweepGeom) (o : F32 × F32) (h : F32) : List Seen :=
  let age := ifld s q.image (Reg.SYN_RT_AGE q.route) 9 0
  (q.srcs.zip (List.range q.srcs.length)).filterMap (fun e =>
    let x := e.1
    let hd := readHdr s x.addr
    match project (srcOptics s q.image x hd) (relPoint hd.pose g.nx g.ny o h) with
    | none => none
    | some p =>
      let left := age - (w - x.tick)
      let t := tileConfAt s x p.u p.v
      let kw := ifld s q.image (Reg.SYN_RT_WEIGHT q.route) (if x.kind = 0 then 7 else 15) (if x.kind = 0 then 0 else 8)
      let wt := kw * left * (t + 1)
      if wt = 0 then none
      else some { ix := e.2, w := wt, cs := t * left / age, rgb := sampleAt s q.image x hd p.u p.v, tick := x.tick,
                  kind := x.kind })

/-- `a` goes before `b` as the top source (R255). -/
def Seen.above (a b : Seen) : Bool :=
  decide (b.w < a.w) || (a.w == b.w && (decide (b.tick < a.tick) || (a.tick == b.tick
    && (decide (b.kind < a.kind) || (a.kind == b.kind && decide (a.ix ≤ b.ix))))))

/-- One pixel of a sweep (R255–R257). -/
def sweepPx (s : State) (q : SynRoute) (pair : Bool) (w : Nat) (g : SweepGeom) (i j : Nat) : SweepPx :=
  let o := pixelOffset g i j
  let ht := heightAt s q pair g o
  let code := if ht.cls = 3 then min 254 (fRound (fdiv ht.h (fInt 4000))).toNat else 0xFF
  let prior := ifld s q.image (Reg.SYN_RT_STEREO q.route) 31 24
  match sortBy Seen.above (seenBy s q w g o ht.h) with
  | [] => { fillPixel s q g o with height := code }
  | t :: rest =>
    let diff := 4 * ifld s q.image (Reg.SYN_RT_WEIGHT q.route) 23 16
    let others := rest.filter (fun x => decide ((luma4 x.rgb - luma4 t.rgb).natAbs ≤ diff))
    let sumRest := sumN (others.map (·.w))
    let dom := ifld s q.image (Reg.SYN_RT_WEIGHT q.route) 31 24
    let px : SweepPx :=
      if sumRest = 0 ∨ dom * sumRest ≤ 16 * t.w then
        { rgb := t.rgb, state := 0, src := 2 ^ t.ix, pred := false, rsv := false, conf := t.cs, height := code }
      else
        let keep := t :: others
        let tot := sumN (keep.map (·.w))
        let avg (f : Seen → Nat) : Nat := (rneDiv ((sumN (keep.map (fun x => x.w * f x)) : Nat) : Int) tot).toNat
        { rgb := (avg (·.rgb.1), avg (·.rgb.2.1), avg (·.rgb.2.2)), state := 1, src := ofPositions (keep.map (·.ix)),
          pred := false, rsv := false, conf := sumN (keep.map (fun x => x.w * x.cs)) / tot, height := code }
    if ht.cls = 1 then { px with state := 2, rsv := true, conf := min px.conf prior }
    else if ht.cls = 2 then { px with conf := min px.conf prior }
    else px

/-- The pixel's word and half-word (R258). -/
def SweepPx.word (x : SweepPx) : Nat :=
  x.rgb.1 + x.rgb.2.1 * 2 ^ 8 + x.rgb.2.2 * 2 ^ 16 + x.state * 2 ^ 24 + x.src * 2 ^ 26 + b2n x.pred * 2 ^ 30
    + b2n x.rsv * 2 ^ 31
def SweepPx.aux (x : SweepPx) : Nat := x.conf + x.height * 256

/-! ## The sweep record (R258–R260) -/

/-- FLAGS of a sweep (R259). -/
def sfNoSource : Nat := 1
def sfNoHeight : Nat := 2
def sfPredUsed : Nat := 4
def sfNoPred : Nat := 8
def sfLateSrc : Nat := 16
def sfMixed : Nat := 32
def sfStereo : Nat := 64
def sfLead : Nat := 128

/-- The 16 bytes of a source in the header. -/
def srcBytes (x : Src) : List Byte :=
  leBytes 1 x.port ++ leBytes 1 x.kind ++ leBytes 1 (b2n x.refined + 2 * b2n x.standIn) ++ [0] ++ leBytes 4 x.seq
    ++ leBytes 8 x.tick

/-- The header of a sweep before SEQ and SEQ_TAIL are set apart (R259). -/
def sweepHeader (s : State) (q : SynRoute) (w starved : Nat) (g : SweepGeom) (px : List SweepPx) : List Byte :=
  let n (k : Nat) : Nat := (px.filter (fun x => x.state == k)).length
  let flags := q.flags ||| (if px.any (·.pred) then sfPredUsed else 0)
  let nm := ifld s q.image (Reg.SYN_RT_PITCH q.route) 21 0
  let stereoSeq := match q.height with
    | some (x, _) => (match x.result with | some a => unitLE s a 4 | none => 0xFFFFFFFF)
    | none => 0xFFFFFFFF
  let srcs := q.srcs.flatMap srcBytes
  leBytes 4 w ++ leBytes 1 q.route ++ [0] ++ leBytes 2 flags ++ leBytes 8 w ++ leBytes 8 (w + q.lead) ++ leBytes 2 q.epoch
    ++ leBytes 2 q.lead ++ leBytes 1 g.datum ++ leBytes 1 q.srcs.length ++ leBytes 2 starved ++ leBytes 4 nm
    ++ leBytes 4 g.theta ++ leBytes 8 (wrap 64 g.nx) ++ leBytes 8 (wrap 64 g.ny) ++ leBytes 4 (n 0) ++ leBytes 4 (n 1)
    ++ leBytes 4 (n 2) ++ leBytes 4 ((px.filter (·.rsv)).length)
    ++ leBytes 1 (sumN (px.map (·.conf)) / 262144) ++ leBytes 1 ((q.base.map (·.2)).getD 0) ++ List.replicate 6 0
    ++ (srcs ++ List.replicate (64 - srcs.length) 0) ++ leBytes 4 stereoSeq ++ List.replicate 12 0 ++ slice q.pc 0 64
    ++ List.replicate 28 0 ++ leBytes 4 w

/-- The port of a route's camera records (R245). -/
def camOf (s : State) (r : Nat) : Nat :=
  match s.fab.plan.routes.find? (fun x => x.route == r) with
  | some x => seqOf x
  | none => 0

/-- A route of the plan in force is a pair route. -/
def pairOf (s : State) (r : Nat) : Bool :=
  match s.fab.plan.routes.find? (fun x => x.route == r) with
  | some x => isPair x
  | none => false

/-- A sweep is complete: planes, header, SEQ_TAIL and SEQ, the status registers, events and the status page (R258–R260,
R265, R268). -/
def writeSweep (s : State) (w : Nat) (q : SynRoute) : State :=
  match sweepAddr s q.image q.route w with
  | none => s
  | some a =>
    let r := q.route
    let g := sweepGeom s q.image r (camOf s r) (poseOf q.pc)
    let px := (pairsOf (List.range 128) (List.range 2048)).map (fun c => sweepPx s q (pairOf s r) w g c.2 c.1)
    let starved := if bit q.flags 0 then min 65535 (fld s (Reg.SYN_RT_STATUS r) 31 16 + 1) else 0
    let h := sweepHeader s q w starved g px
    let s1 := romWrite s (a + 0x10000) (px.flatMap (fun x => leBytes 4 x.word))
    let s2 := romWrite s1 (a + 0x110000) (px.flatMap (fun x => leBytes 2 x.aux))
    let s3 := statWrite (romWrite s2 a h) (statBase 7 + r * 0x100) h
    let s4 := poke s3 (Reg.SYN_RT_STATUS r) ((fieldLE h 0x48 1) * 256 + starved * 65536)
    let s5 := poke s4 (Reg.SYN_RT_FILLED r) (fieldLE h 0x40 4)
    [(0, 0), (4, 3), (1, 4), (5, 5)].foldl (fun s e => if bit q.flags e.1 then synEvent s r e.2 else s) s5

/-! ## The synthesis job (R261–R264) -/

/-- The enabled routes that a huddle synthesises, ascending; SLOTS 0 counts as ENABLE 0 (R261, R267). -/
def synRoutes (s : State) (h : Nat) : List Route :=
  sortBy (fun a b => decide (a.route ≤ b.route)) (s.fab.plan.routes.filter (fun r =>
    r.synHud == h && routeOn s s.regs r.route && fld s (Reg.SYN_RT_RING r.route) 4 0 != 0))

/-- A route's sweep as the job takes it up: the epoch check, the sources, the height map and the base (R52, R53, R251, R263, R265).
Pose records of different epochs are never fused. -/
def takeSynRoute (s : State) (j : Job) (w : Nat) (r : Route) : SynRoute × Bool :=
  let cam := seqOf r
  let lead := leadAtTick s r.route w
  let ring := bits (ireg s j.image Reg.CAM_POSE_BASE_LO) 31 21 * 2 ^ 21
    + bits (ireg s j.image Reg.CAM_POSE_BASE_HI) 7 0 * 2 ^ 32 + (w % 1024) * 2048
  let cw := unitRead s (ring + cam * 64) 64
  let pc := unitRead s (ring + (16 + cam) * 64) 64
  let tags := [fieldLE cw 0x34 2, fieldLE pc 0x34 2]
  let mixed := tags.any (· != j.epoch)
  let prev := mixed && fieldLE cw 0x34 2 == fieldLE pc 0x34 2 && prevRuns s (pathHuds r) tags
  let img := if prev then s.com.prevImage else j.image
  let age := (sourceLimits s img r.route).2.2.1
  let srcs := sourceList s img r w
  let height := heightSource s img r w age
  let base := predBase s img r.route w
  let changed := (Map.getD s.syn.leadAt r.route []).any (fun c => c.1 == w)
  let pair := isPair r
  let flags := (if srcs.1.isEmpty then sfNoSource else 0) ||| (if pair && height.isNone then sfNoHeight else 0)
    ||| (if base.isNone then sfNoPred else 0) ||| (if srcs.2 then sfLateSrc else 0) ||| (if mixed then sfMixed else 0)
    ||| (if pair then sfStereo else 0) ||| (if changed then sfLead else 0)
  ({ route := r.route, lead := lead, image := img, epoch := if prev then (j.epoch + 65535) % 65536 else j.epoch,
     srcs := srcs.1, height := height, base := base, flags := flags, pc := pc, held := mixed && !prev }, mixed)

/-- The slot is marked while it is rewritten (R260). -/
def openSweep (s : State) (w : Nat) (q : SynRoute) : State :=
  match sweepAddr s q.image q.route w with
  | some a => romWrite (romWrite s a (leBytes 4 0xFFFFFFFF)) (a + 5) [3]
  | none => s

/-- A held line of a mixed sweep: no sweep is fused, the slot reads STOPPED with its FLAGS, MIXED among them, and the line is a
hold line (R52, R53, R263). -/
def holdSweep (s : State) (w : Nat) (q : SynRoute) : State :=
  let s1 := match sweepAddr s q.image q.route w with
    | some a =>
      let s1 := romWrite s (a + 5) ([1] ++ leBytes 2 q.flags)
      statWrite s1 (statBase 7 + q.route * 0x100) (unitRead s1 a 256)
    | none => s
  let s2 := synEvent (pokeF s1 (Reg.SYN_RT_STATUS q.route) 1 0 1) q.route 5
  lineLost s2 (w + q.lead) q.route { src := w, epoch := q.epoch, mixed := true }

/-- SYNTHESIS_JOB: the due job of a huddle starts at W + 2.0 µs, or once its units are free (R261, R548). -/
def synthesisJob (s0 : State) (h : Nat) : State :=
  match romDueOf s0 2 h with
  | none => s0
  | some d =>
    let s1 := advance s0 d.2.2.2
    let room := romMakeRoom s1 h
    let s2 := room.1
    if !room.2 then s2
    else
      let w := d.2.2.1
      let j0 := newRom s2 2 h (fld s2 Reg.SYN_JOB 23 0)
      let qs := (synRoutes s2 h).map (takeSynRoute s2 j0 w)
      let s3 := qs.foldl (fun s q => if q.2 then flagMixed s (w + q.1.lead) q.1.held else s) (romTaken s2 d)
      let s4 := qs.foldl (fun s q => openSweep s w q.1) s3
      let s5 := (qs.filter (fun q => q.1.held)).foldl (fun s q => holdSweep s w q.1) s4
      let live := (qs.filter (fun q => !q.1.held)).map (·.1)
      romStart s5 { j0 with tick := w, syn := live, lines := live.map (fun q => (q.route, w + q.lead, w)), units := 2048 * qs.length }

/-- SYNTHESIS_JOB. -/
def execSynthesisJob (huddle : Byte) (s : State) : Out := .next (synthesisJob s huddle.toNat)

/-- The end of a synthesis job: its sweeps are complete (R260). (DEDUCED, assumption 81.) -/
def endSynthesis (s : State) (j : Job) : State := romRemove (j.syn.foldl (fun s q => writeSweep s j.tick q) s) j true

/-- At a Whistle a synthesis job becomes due on every huddle that an enabled route names (R261). -/
def synDue (s : State) (w : Nat) : State :=
  let hs := ((s.fab.plan.routes.filter (fun r => !(synRoutes s r.synHud).isEmpty)).map (·.synHud)).eraseDups
  hs.foldl (fun s h => romPush s 2 h w (s.clk.inst + 2000 * tuNs)) s

/-! ## A change of lead (R266) -/

/-- The epoch in force once a commit has applied (R50). -/
def epochNext (s : State) : Nat := if s.com.epochUp then (s.com.epoch + 1) % 2 ^ 32 else s.com.epoch

/-- What a commit at Whistle w that changes a route's lead does: the hold lines of a gap, LEAD_GAP, and the note of the
lead before; notes that no line in the ring depends on any longer are dropped. -/
def leadChange (s : State) (r w old new : Nat) : State :=
  let notes := (w, old) :: (Map.getD s.syn.leadAt r []).filter (fun e => decide (w < e.1 + 1100))
  let s1 := synEvent { s with syn := { s.syn with leadAt := Map.set s.syn.leadAt r notes } } r 6
  (upTo (w + old) (w + new)).foldl (fun s t => lineLost s t r { src := w, epoch := epochNext s % 65536, gap := true }) s1

/-- The routes that a commit enabled, or whose lead it changed, given the registers before it. -/
def leadsApplied (s : State) (before : State) (w : Nat) : State :=
  (s.fab.plan.routes).foldl (fun s r =>
    let old := leadOf before before.regs r.route
    let new := leadOf s s.regs r.route
    let was := routeOn before before.regs r.route
    let on := routeOn s s.regs r.route
    if was && on && old != new then leadChange s r.route w old new
    else if !was && on then
      { s with syn := { leadAt := Map.erase s.syn.leadAt r.route, since := Map.set s.syn.since r.route w } }
    else s) s

end Sys2Proof.Machine
end

