-- ==== Sys2Proof/Machine/Tracks.lean ====
section
/-! DEFINITION. The decision job (R295–R315): class map, detections, the track table, channel decisions and the ring
entry. -/

namespace Sys2Proof.Machine

/-! ## The class map (R298) -/

/-- What a decision job of one route works with: the route's registers, the sweep slot and its geometry, the SPEED of Pc in
µm per tick and the period in ns. -/
structure DecCtx where
  q : DecRoute
  slot : Nat
  geom : SweepGeom
  v : Int
  per : F32
  deriving DecidableEq, Repr

/-- A field of a TRK register of the route under its image. -/
def DecCtx.fld (s : State) (c : DecCtx) (a : Nat → Nat) (hi lo : Nat) : Nat := ifld s c.q.image (a c.q.route) hi lo

/-- A class pixel: class, margin, weight c. -/
structure ClassPx where
  cls : Nat
  margin : Nat
  c : Nat
  deriving DecidableEq, Repr

/-- Class pixel (x, y): its record, and the least CONF of its four sweep pixels (R298). -/
def classPx (s : State) (c : DecCtx) (x y : Nat) : ClassPx :=
  let a := addr40 s c.q.image (Reg.TRK_RT_MAP_LO c.q.route) (Reg.TRK_RT_MAP_HI c.q.route) / 2 * 2
  let m := ofLE (unitRead s (a + (y * 1024 + x) * 2) 2)
  let conf (dx dy : Nat) : Nat := sweepAux s c.slot (2 * x + dx) (2 * y + dy) % 256
  { cls := m % 256, margin := m / 256, c := min (min (conf 0 0) (conf 1 0)) (min (conf 0 1) (conf 1 1)) }

/-- The role under which a pixel counts: 0 IGNORE, 1 TARGET, 2 PROTECT. -/
def roleOf (s : State) (c : DecCtx) (p : ClassPx) : Nat :=
  if p.margin < c.fld s Reg.TRK_RT_MARGIN 23 16 ∨ 16 ≤ p.cls then 0
  else bits (ireg s c.q.image (Reg.TRK_RT_CLASS c.q.route)) (2 * p.cls + 1) (2 * p.cls)

/-- A pixel is known (R298). -/
def knownPx (s : State) (c : DecCtx) (p : ClassPx) : Bool := decide (c.fld s Reg.TRK_RT_THR 31 24 ≤ p.c)

/-! ## Detections (R299) -/

/-- A detection. -/
structure Detection where
  x : Int
  y : Int
  score : Nat
  extA : Nat
  extL : Nat
  cls : Nat
  deriving DecidableEq, Repr

/-- The greatest less the least of numbers. -/
def spanOf (l : List Nat) : Nat := l.foldl max 0 - l.foldl min ((l.head?).getD 0)

/-- The TARGET class with the most pixels, equal counts to the lower class. -/
def topClass (l : List Nat) : Nat :=
  ((List.range 16).foldl (fun (b : Nat × Nat) k =>
    let n := (l.filter (· == k)).length
    if b.2 < n then (k, n) else b) (0, 0)).1

/-- The ground point of continuous sweep coordinates, in whole µm (R299). -/
def groundOf (g : SweepGeom) (xc yc : F32) : Int × Int :=
  let f := forwardOf g.theta
  let l := leftOf g.theta
  let a := fmul (fsub yc (fInt (g.datum : Nat))) g.p
  let b := fmul (fsub (fInt 1024) xc) g.p
  (g.nx + fRound (fadd (fmul a f.1) (fmul b l.1)), g.ny + fRound (fadd (fmul a f.2) (fmul b l.2)))

/-- The detection of a cell of 16 × 16 class pixels, if any (R299). -/
def cellDetection (s : State) (c : DecCtx) (cell : Nat) : Option Detection :=
  let x0 := 16 * (cell % 64)
  let y0 := 16 * (cell / 64)
  let px := (pairsOf (List.range 16) (List.range 16)).map (fun d => (x0 + d.2, y0 + d.1, classPx s c (x0 + d.2) (y0 + d.1)))
  let t := px.filter (fun e => roleOf s c e.2.2 == 1 && knownPx s c e.2.2)
  let n := t.length
  let sum := sumN (t.map (fun e => e.2.2.c))
  let min_ := ifld s c.q.image Reg.TRK_LIFE 31 24
  if min_ = 0 ∨ n < min_ ∨ sum = 0 then none
  else
    let g := c.geom
    let xc := fRat ((sumN (t.map (fun e => e.2.2.c * (2 * e.1 + 1))) : Nat)) sum
    let yc := fRat ((sumN (t.map (fun e => e.2.2.c * (2 * e.2.1 + 1))) : Nat)) sum
    let p := groundOf g xc yc
    let ext (k : Nat) : Nat := min 255 (fRound (fdiv (fmul (fInt ((k : Int) + 2)) g.p) (fInt 2000))).toNat
    some { x := p.1, y := p.2, score := sum / n, extA := ext (spanOf (t.map (·.1))), extL := ext (spanOf (t.map (·.2.1))),
           cls := topClass (t.map (fun e => e.2.2.cls)) }

/-- The detections of a route, in ascending cell index. (DEDUCED, assumption 80.) -/
def detections (s : State) (c : DecCtx) : List Detection := (List.range 256).filterMap (cellDetection s c)

/-! ## The track table (R300–R305) -/

/-- A slot's image read back; STATE 0 is FREE. -/
def trackOf (b : List Byte) : Option Track :=
  let st := fieldLE b 0x15 1
  if st % 4 = 0 then none
  else some { x := fieldSLE b 0 8, y := fieldSLE b 8 8, id := fieldLE b 0x10 4, route := fieldLE b 0x14 1, state := st % 4,
              matched := st / 4 % 2 == 1, conf := fieldLE b 0x16 1, hits := fieldLE b 0x17 1, misses := fieldLE b 0x18 1,
              extA := fieldLE b 0x19 1, extL := fieldLE b 0x1A 1, cls := fieldLE b 0x1B 1, last := fieldLE b 0x1C 4 }

/-- The table as an update works on it: the slots, the counter, and what it counts. -/
structure Table where
  slots : Map Track
  nextId : Nat
  evicted : Nat := 0
  untracked : Nat := 0
  deriving DecidableEq, Repr

/-- The next TRACK_ID after one is given, 0xFFFF_FFFF skipped (R300). -/
def nextTrackId (n : Nat) : Nat := if n + 1 = 0xFFFFFFFF then 0 else (n + 1) % 2 ^ 32

/-- A TENTATIVE track with hits and confidence enough is CONFIRMED (R303). -/
def confirm (s : State) (img : Map Word) (t : Track) : Track :=
  if t.state = 1 ∧ ifld s img Reg.TRK_CTRL 15 8 ≤ t.hits ∧ ifld s img Reg.TRK_CTRL 23 16 ≤ t.conf then { t with state := 2 } else t

/-- A track after its match with a detection (R303). -/
def matchTrack (s : State) (img : Map Word) (w : Nat) (t : Track) (d : Detection) : Track :=
  let gain := ifld s img Reg.TRK_ASSOC 23 16
  confirm s img { t with
    x := t.x + rneShift (d.x - t.x) 2, y := t.y + rneShift (d.y - t.y) 2,
    conf := (t.conf * (256 - gain) + d.score * gain) / 256, hits := min 255 (t.hits + 1), misses := 0, matched := true,
    extA := d.extA, extL := d.extL, cls := d.cls, last := w % 2 ^ 32 }

/-- The slot that a detection matches: among the route's tracks within the gate that nothing matched, the nearest, then the
lowest (R303). -/
def matchSlot (s : State) (img : Map Word) (r : Nat) (slots : Map Track) (done : List Nat) (d : Detection) : Option Nat :=
  let gate : Int := (ifld s img Reg.TRK_ASSOC 15 0 : Nat) * 1000
  let dist (t : Track) : Int := (d.x - t.x) * (d.x - t.x) + (d.y - t.y) * (d.y - t.y)
  let near := slots.filter (fun e => e.2.route == r && !done.contains e.1
    && decide ((d.x - e.2.x).natAbs ≤ gate.toNat) && decide ((d.y - e.2.y).natAbs ≤ gate.toNat))
  ((sortBy (fun a b => decide (dist a.2 < dist b.2) || (dist a.2 == dist b.2 && decide (a.1 ≤ b.1))) near).head?).map (·.1)

/-- Detections matched in ascending number: the table, the slots matched, and the detections left over (R303). -/
def matchAll (s : State) (img : Map Word) (r w : Nat) (t : Table) (ds : List Detection) :
    Table × List Nat × List Detection :=
  ds.foldl (fun acc d =>
    match matchSlot s img r acc.1.slots acc.2.1 d with
    | none => (acc.1, acc.2.1, acc.2.2 ++ [d])
    | some k => ({ acc.1 with slots := Map.upd acc.1.slots k (fun x => matchTrack s img w x d) }, k :: acc.2.1, acc.2.2))
    (t, [], [])

/-- A track's ground point lies in the sweep on a known class pixel (R304). -/
def visibleTrack (s : State) (c : DecCtx) (t : Track) : Bool :=
  let p := sweepPos c.geom (fInt (t.x - c.geom.nx), fInt (t.y - c.geom.ny))
  inSweep p && knownPx s c (classPx s c ((fRound p.1).toNat / 2) ((fRound p.2).toNat / 2))

/-- An unmatched track of the route: a miss where it should be seen (R304). -/
def missTrack (s : State) (c : DecCtx) (t : Track) : Option Track :=
  if visibleTrack s c t then
    let misses := min 255 (t.misses + 1)
    let conf := t.conf * ifld s c.q.image Reg.TRK_ASSOC 31 24 / 256
    if (t.state = 1 ∧ ifld s c.q.image Reg.TRK_LIFE 7 0 ≤ misses) ∨ (t.state = 2 ∧ conf < ifld s c.q.image Reg.TRK_CTRL 31 24)
    then none
    else some { t with misses := misses, conf := conf, matched := false }
  else some { t with matched := false }

/-- A track has passed the nozzle line of a geometry (R302). -/
def passedTrack (s : State) (img : Map Word) (r : Nat) (g : SweepGeom) (t : Track) : Bool :=
  let f := forwardOf g.theta
  let alpha := fadd (fmul (fInt (t.x - g.nx)) f.1) (fmul (fInt (t.y - g.ny)) f.2)
  let back := fInt (-((ifld s img (Reg.TRK_RT_MARGIN r) 15 8 : Nat) : Int) * 1000)
  flt (fadd alpha (fInt ((t.extL : Int) * 1000))) back

/-- A PASSED track whose last match is RETAIN ticks old is freed (R304). -/
def retained (s : State) (img : Map Word) (w : Nat) (t : Track) : Option Track :=
  if t.state = 3 ∧ ifld s img Reg.TRK_LIFE 17 8 ≤ (w + 2 ^ 32 - t.last) % 2 ^ 32 then none else some t

/-- Every slot of a table changed by a function; none frees the slot. -/
def mapSlots (m : Map Track) (f : Nat → Track → Option Track) : Map Track :=
  m.filterMap (fun e => (f e.1 e.2).map (fun t => (e.1, t)))

/-- The slot that a new track takes: the lowest FREE one, else the PASSED track of least CONF that no detection of the tick has
matched, whatever its route, older LAST first, then the lower slot (R305). -/
def newSlot (slots : Map Track) (w : Nat) : Option (Nat × Bool) :=
  match (List.range 4096).find? (fun k => !Map.has slots k) with
  | some k => some (k, false)
  | none =>
    let age (t : Track) : Nat := (w + 2 ^ 32 - t.last) % 2 ^ 32
    let c := slots.filter (fun e => e.2.state == 3 && !(e.2.matched && e.2.last == w % 2 ^ 32))
    ((sortBy (fun a b => decide (a.2.conf < b.2.conf) || (a.2.conf == b.2.conf
      && (decide (age b.2 < age a.2) || (age a.2 == age b.2 && decide (a.1 ≤ b.1))))) c).head?).map (fun e => (e.1, true))

/-- A new track for a detection (R305). -/
def placeTrack (s : State) (img : Map Word) (r w : Nat) (t : Table) (d : Detection) : Table :=
  match newSlot t.slots w with
  | none => { t with untracked := t.untracked + 1 }
  | some (k, evicts) =>
    let n : Track := { x := d.x, y := d.y, id := t.nextId, route := r, state := 1, matched := false, conf := d.score, hits := 1,
                       misses := 0, extA := d.extA, extL := d.extL, cls := d.cls, last := w % 2 ^ 32 }
    { t with slots := Map.set t.slots k (confirm s img n), nextId := nextTrackId t.nextId,
             evicted := t.evicted + b2n evicts }

/-- The geometry of record c of Whistle w in place of Pc (R302). -/
def passGeom (s : State) (img : Map Word) (r w : Nat) : SweepGeom :=
  let cam := camOf s r
  let ring := bits (ireg s img Reg.CAM_POSE_BASE_LO) 31 21 * 2 ^ 21 + bits (ireg s img Reg.CAM_POSE_BASE_HI) 7 0 * 2 ^ 32
    + (w % 1024) * 2048
  sweepGeom s img r cam (poseOf (unitRead s (ring + cam * 64) 64))

/-- At a decision job of any route, a track whose ROUTE names no enabled route becomes PASSED, and is freed once its last match is
RETAIN ticks old (R304). -/
def passOrphans (s : State) (img : Map Word) (w : Nat) (m : Map Track) : Map Track :=
  let on (k : Nat) : Bool := s.fab.plan.routes.any (fun x => x.route == k) && routeOn s img k
  mapSlots m (fun _ t => if on t.route then some t else retained s img w { t with state := 3 })

/-- The track update of a route (R303–R305). -/
def updateTable (s : State) (c : DecCtx) (t : Table) (ds : List Detection) : Table :=
  let img := c.q.image
  let r := c.q.route
  let w := c.q.w
  let m := matchAll s img r w t ds
  let g := passGeom s img r w
  let s1 := mapSlots m.1.slots (fun k x =>
    if x.route ≠ r then some x
    else
      (if m.2.1.contains k then some x else missTrack s c x).bind (fun y =>
        retained s img w (if passedTrack s img r g y then { y with state := 3 } else y)))
  m.2.2.foldl (placeTrack s img r w) { m.1 with slots := s1 }

/-- The slots in which two tables differ. -/
def changedSlots (a b : Map Track) : List Nat :=
  (((a.map (·.1)) ++ (b.map (·.1))).eraseDups).filter (fun k => Map.get a k != Map.get b k)

/-! ## Channel decisions (R306–R311) -/

/-- The settings of channel decisions: from a route's TRK registers, or from a mirrored route block (R453). -/
structure ChanCtl where
  ctrl : Nat
  thr : Nat
  col0 : Int
  pitch : Int
  spread : Nat
  front : F32
  back : F32
  adv : Nat
  blind : Nat
  tracks : Bool
  still : Nat
  deriving DecidableEq, Repr

/-- The settings of a route under an image. -/
def chanCtl (s : State) (img : Map Word) (r : Nat) : ChanCtl :=
  let mm (hi lo : Nat) : F32 := fInt ((ifld s img (Reg.TRK_RT_MARGIN r) hi lo : Nat) * 1000)
  let ctrl := ireg s img (Reg.TRK_RT_CTRL r)
  { ctrl := ctrl, thr := ireg s img (Reg.TRK_RT_THR r), col0 := sgn 21 (ireg s img (Reg.TRK_RT_COL0 r)),
    pitch := sgn 21 (ireg s img (Reg.TRK_RT_PITCH r)), spread := ifld s img (Reg.TRK_RT_PITCH r) 27 24,
    front := mm 7 0, back := mm 15 8, adv := ifld s img (Reg.TRK_RT_ADV r) 17 0, blind := bits ctrl 2 1,
    tracks := bit ctrl 3, still := ifld s img Reg.TRK_STILL 15 0 }

/-- The strip of channel k: sweep columns lo to hi (R306). -/
def stripOf (k : ChanCtl) (n : Nat) : Int × Int :=
  let a := rneDiv (k.col0 + (n : Int) * k.pitch) 256
  let b := rneDiv (k.col0 + ((n : Int) + 1) * k.pitch) 256 - 1
  let lo := a - k.spread
  let hi := b + k.spread
  let c (i : Int) : Int := clampI 0 2047 i
  if k.pitch < 0 then (c hi, c lo) else (c lo, c hi)

/-- The line's interval (R307): a0 and a1 in µm from the datum. -/
def lineSpan (v : Int) (adv : Nat) (per : F32) : F32 × F32 :=
  let a0 := fdiv (fmul (fInt v) (fInt (adv : Nat))) per
  (a0, fadd a0 (fInt v))

/-- Two half-open intervals meet. -/
def meets (a b c d : F32) : Bool := flt a d && flt c b

/-- The span of class row y in µm from the datum (R307). -/
def rowSpan (g : SweepGeom) (y : Nat) : F32 × F32 :=
  (fmul (fInt (2 * (y : Int) - g.datum)) g.p, fmul (fInt (2 * (y : Int) + 2 - g.datum)) g.p)

/-- The along interval of a track from the datum, where its across interval meets a strip and it meets the window (R308). -/
def trackSpan (g : SweepGeom) (lo hi : Int) (w0 w1 : F32) (t : Track) : Option (F32 × F32) :=
  let f := forwardOf g.theta
  let l := leftOf g.theta
  let dx := fInt (t.x - g.nx)
  let dy := fInt (t.y - g.ny)
  let col := fsub (fInt 1024) (fdiv (fadd (fmul dx l.1) (fmul dy l.2)) g.p)
  let half := fdiv (fInt ((t.extA : Int) * 1000)) g.p
  let a := fadd (fmul dx f.1) (fmul dy f.2)
  let e := fInt ((t.extL : Int) * 1000)
  let a0 := fsub a e
  let a1 := fadd a e
  if fle (fsub col half) (fInt (hi + 1)) && fle (fInt lo) (fadd col half) && flt (fsub col half) (fInt (hi + 1))
      && fle a0 w1 && flt a0 w1 && fle w0 a1 then some (a0, a1) else none

/-- What a channel's evidence comes to (R308): known pixels, R, Q, the spans that hold a known TARGET pixel, and the along
intervals of overlapping tracks. -/
structure Evidence where
  known : Nat
  r : Nat
  q : Nat
  spans : List (F32 × F32)
  tracks : List (F32 × F32)
  deriving DecidableEq, Repr

/-- What happened to a channel: its word, ON_L, RUN and the event bits 2 BLIND, 3 SUPPRESSED, 5 STILL (R309). -/
structure ChanOut where
  word : Nat
  on : Bool
  run : Nat
  ev : List Nat
  deriving DecidableEq, Repr

/-- A channel word (R318). -/
def chanWord (state edge : Nat) : Nat := state + edge * 4

/-- edge(a) of R310: 2.5 ns steps from T. -/
def edgeStep (v : Int) (per a0 a : F32) : Nat :=
  let last := fFloor (fdiv per (fRat 5 2)) - 1
  (clampI 0 last (fRound (fdiv (fmul (fdiv (fsub a a0) (fInt v)) per) (fRat 5 2)))).toNat

/-- The least and the greatest of numbers. -/
def fLeast (l : List F32) : Option F32 := l.foldl (fun m x => match m with | none => some x | some y => some (fmin y x)) none
def fGreatest (l : List F32) : Option F32 := l.foldl (fun m x => match m with | none => some x | some y => some (fmax y x)) none

/-- The decision of one channel and its word (R309–R311). -/
def decideChan (k : ChanCtl) (v : Int) (per a0 : F32) (e : Evidence) (on : Bool) (run : Nat) : ChanOut :=
  let tau := k.tracks && !e.tracks.isEmpty
  let satRun := min 255 (run + 1)
  if v < k.still then { word := 0, on := false, run := 255, ev := [5] }
  else if e.known = 0 ∧ tau = false ∧ k.blind = 1 then { word := chanWord 3 0, on := on, run := satRun, ev := [2] }
  else
    let blindOn := e.known == 0 && !tau && k.blind == 2
    let want0 := if e.known = 0 ∧ tau = false then k.blind == 2
      else if on then decide (bits k.thr 15 8 ≤ e.r) || tau else decide (bits k.thr 7 0 ≤ e.r) || tau
    let prot := bits k.thr 23 16
    let want1 := want0 && !(prot != 0 && decide (prot ≤ e.q))
    let want2 := want1 || (on && decide (run < bits k.ctrl 15 8))
    let stop := !on && want2 && decide (run < bits k.ctrl 23 16)
    let want := want2 && !stop
    let first := fLeast ((e.spans ++ e.tracks).map (·.1))
    let last := fGreatest ((e.spans ++ e.tracks).map (·.2))
    let pulse := bit k.ctrl 0
    let word := match on, want with
      | false, true =>
        let ed := if blindOn then 0 else match first with | some a => edgeStep v per a0 (fsub a k.front) | none => 0
        chanWord (if pulse then 2 else 1) ed
      | true, true => if pulse then chanWord 3 0 else chanWord 1 0
      | true, false =>
        if pulse then chanWord 3 0
        else chanWord 0 (match last with | some a => edgeStep v per a0 (fadd a k.back) | none => 0)
      | false, false => 0
    { word := word, on := want, run := if want == on then satRun else 0, ev := if stop then [3] else [] }

/-- The evidence of channel `n` of a route: over its strip and the window rows (R308). -/
def evidenceOf (s : State) (c : DecCtx) (k : ChanCtl) (rows : List Nat) (w0 w1 : F32) (tracks : List Track) (n : Nat) :
    Evidence :=
  let st := stripOf k n
  let cols := (List.range 1024).filter (fun (x : Nat) => decide (st.1 ≤ 2 * (x : Int) + 1) && decide (2 * (x : Int) ≤ st.2))
  let px := (pairsOf rows cols).map (fun p => (p.1, classPx s c p.2 p.1))
  let kn := px.filter (fun p => knownPx s c p.2)
  let role (p : Nat × ClassPx) (q : Nat) : Bool := roleOf s c p.2 == q
  let tgt := kn.filter (fun p => role p 1)
  let ratio (l : List (Nat × ClassPx)) : Nat := 256 * sumN (l.map (fun p => p.2.c)) / (255 * px.length)
  { known := kn.length, r := ratio tgt, q := ratio (kn.filter (fun p => role p 2)),
    spans := ((tgt.map (·.1)).eraseDups).map (rowSpan c.geom),
    tracks := tracks.filterMap (trackSpan c.geom st.1 st.2 w0 w1) }

/-- ON_L and RUN of a device channel (R309). -/
def chanOn (s : State) (k : Nat) : Bool := s.trk.onL.testBit k
def chanRun (s : State) (k : Nat) : Nat := Map.getD s.trk.run k 255

/-- The state with a channel's ON_L and RUN replaced. -/
def setChan (s : State) (k : Nat) (on : Bool) (run : Nat) : State :=
  { s with trk := { s.trk with onL := setBits s.trk.onL k k (b2n on),
                               run := if run = 255 then Map.erase s.trk.run k else Map.set s.trk.run k run } }

/-! ## The ring entry (R312, R319) -/

/-- Route r is still to be waited for by the line of Whistle t: it produces the line under the registers in force, or a running decision
job has the line. -/
def lineAwaits (s : State) (t : Nat) (r : Route) : Bool :=
  producesLine s s.regs t r
    || s.sch.hud.any (fun e => e.2.rom.any (fun j => j.dec.any (fun q => q.route == r.route && q.target == t)))

/-- Every route that the line of Whistle t, synthesised in tick `src`, awaits has done its part (R312). -/
def lineComplete (s : State) (t src : Nat) (awaits : Route → Bool) : Bool :=
  (s.fab.plan.routes.filter awaits).all (fun x =>
    match Map.get (noteOf s t).routes x.route with
    | some q => noteStands s t src x.route q
    | none => false)

/-- A route writes its channel words into the entry of its line; the last route of the line completes it (R312, R319). Where another
route's line is a hold line, the entry stays a hold-line entry. -/
def writeRoute (s : State) (img : Map Word) (r : Route) (t src epoch : Nat) (mixed : Bool) (words : List Nat) : State :=
  let s1 := beginWords (entryClear (noteLine s t r.route { src := src, epoch := epoch, mixed := mixed }) t) t
  let s2 := entryWrite s1 t (0x40 + 4 * r.chanFirst) (words.flatMap (leBytes 4))
  let awaits (x : Route) : Bool := x.route == r.route || (producesLine s2 img t x && lineAwaits s2 t x)
  entryWrite s2 t 0 (noteHeader s2 t src (lineComplete s2 t src awaits))

/-- After a commit, entries that await no route any longer are complete: a route that is no longer enabled writes nothing (R312). -/
def completeLines (s : State) : State :=
  s.frs.lines.foldl (fun s e =>
    let src := (e.2.routes.map (fun q => q.2.src)).foldl max 0
    if e.2.begun && decide (s.clk.next ≤ e.1) && e.2.routes.all (fun q => !q.2.held)
        && ofLE (entryRead s e.1 0x0A 1) % 2 == 0 && lineComplete s e.1 src (lineAwaits s e.1) then
      entryWrite s e.1 0 (noteHeader s e.1 src true)
    else s) s

/-! ## The decision job (R295, R296, R313, R314) -/

/-- The decision routes of a huddle for a line's synthesis tick and DEC_TICK, ascending. -/
def decRoutes (s : State) (h w d : Nat) : List Route :=
  sortBy (fun a b => decide (a.route ≤ b.route)) (s.fab.plan.routes.filter (fun r =>
    r.decHud == h && r.decTick == d && routeOn s s.regs r.route && decide (Map.getD s.syn.since r.route 0 ≤ w)))

/-- A route's input checks (R52, R53, R314). -/
def takeDecRoute (s : State) (j : Job) (w : Nat) (r : Route) : DecRoute :=
  let t := w + leadAtTick s r.route w
  let q : DecRoute := { route := r.route, w := w, target := t, image := j.image, epoch := j.epoch }
  let segs := segEntries s r w
  let seg := segs.isEmpty || segs.any (fun e => e.2.2.2.2 != stOK)
  match sweepAddr s j.image r.route w with
  | none => { q with hold := true }
  | some a =>
    let tags := fieldLE (sweepHdr s a) 0x18 2 :: segs.map (fun e => e.2.2.2.1)
    if !sweepReadable s a w || seg then { q with hold := true, segFail := seg }
    else if tags.any (· != j.epoch) then
      if prevRuns s (pathHuds r) tags then
        { q with image := s.com.prevImage, epoch := (j.epoch + 65535) % 65536, mixed := true }
      else { q with hold := true, mixed := true }
    else q

/-- DECISION_JOB: the due job of a huddle starts at the latest of its four instants (R295, R548). -/
def decisionJob (s0 : State) (h : Nat) : State :=
  match romDueOf s0 3 h with
  | none => s0
  | some d =>
    if !segEnded s0 h d.2.2.1 then s0
    else
      let room := romMakeRoom (advance s0 d.2.2.2) h
      let s2 := room.1
      if !room.2 then s2
      else
        let w := d.2.2.1 / 4
        let j0 := newRom s2 3 h (fld s2 Reg.TRK_JOB 23 0)
        let qs := (decRoutes s2 h w (d.2.2.1 % 4)).map (takeDecRoute s2 j0 w)
        let s3 := qs.foldl (fun s q => if q.mixed then flagMixed s q.target q.hold else s) (romTaken s2 d)
        romStart s3 { j0 with dec := qs, lines := qs.map (fun q => (q.route, q.target, q.w)) }

/-- DECISION_JOB. -/
def execDecisionJob (huddle : Byte) (s : State) : Out := .next (decisionJob s huddle.toNat)

/-- A route whose line is a hold line: no track update (R314). -/
def holdRoute (s : State) (q : DecRoute) : State :=
  let s1 := lineLost s q.target q.route { src := q.w, epoch := q.epoch, mixed := q.mixed }
  let s2 := poke (trkEvent s1 q.route 0) (Reg.TRK_RT_STATUS q.route) (setBits (reg s1 (Reg.TRK_RT_STATUS q.route)) 15 0 2)
  if q.segFail then logOncePerTick (trkEvent s2 q.route 6) 0x41 8 FAULT (arg1 q.route ++ argN 4 q.target) else s2

/-- The channels of a route after their decisions: words, events and states (R306–R311). -/
def decideRoute (s : State) (c : DecCtx) (r : Route) (tracks : List Track) : State × List Nat × List Nat :=
  let k := chanCtl s c.q.image r.route
  let span := lineSpan c.v k.adv c.per
  let w0 := fsub span.1 k.back
  let w1 := fadd span.2 k.front
  let rows := (List.range 64).filter (fun y => let p := rowSpan c.geom y; meets p.1 p.2 w0 w1)
  let clip := flt w0 (rowSpan c.geom 0).1 || flt (rowSpan c.geom 63).2 w1
  let out := (List.range r.chanCount).map (fun n =>
    decideChan k c.v c.per span.1 (evidenceOf s c k rows w0 w1 tracks n) (chanOn s (r.chanFirst + n)) (chanRun s (r.chanFirst + n)))
  let s1 := (out.zip (List.range out.length)).foldl (fun s e => setChan s (r.chanFirst + e.2) e.1.on e.1.run) s
  (s1, out.map (·.word), ((if clip then [1] else []) ++ out.flatMap (fun (o : ChanOut) => o.ev)).eraseDups)

/-- What a decision job of a route works with, given the route's sweep slot. -/
def decCtx (s : State) (q : DecRoute) (a : Nat) : DecCtx :=
  let h := sweepHdr s a
  { q := q, slot := a, geom := hdrGeom h, v := (poseOf (slice h 0xA0 64)).speed, per := periodF (ireg s q.image Reg.WHS_PERIOD) }

/-- The table that a decision job works on: the device's, or the one that a CLEAR emptied while the job ran (R313). -/
def jobTable (s : State) (j : Job) : Map Track × Nat :=
  match s.trk.past.find? (fun e => decide (j.tick < e.1)) with
  | some e => e.2
  | none => (s.trk.slots, s.trk.nextId)

/-- The state with the table of a decision job replaced. -/
def setJobTable (s : State) (j : Job) (t : Map Track × Nat) : State :=
  match s.trk.past.find? (fun e => decide (j.tick < e.1)) with
  | some e => { s with trk := { s.trk with past := s.trk.past.map (fun x => if x.1 = e.1 then (x.1, t) else x) } }
  | none => { s with trk := { s.trk with slots := t.1, nextId := t.2,
                                         changed := (changedSlots s.trk.slots t.1).foldl setInsert s.trk.changed } }

/-- Step 3 of a route of a decision job (R296): the detections and the track update, once. Answers the route as it then stands. -/
def decUpdate (s : State) (j : Job) (q : DecRoute) : State × DecRoute :=
  match sweepAddr s q.image q.route q.w with
  | none => (s, q)
  | some a =>
    if q.hold || q.upd then (s, q)
    else
      let c := decCtx s q a
      let ds := detections s c
      let old := jobTable s j
      let t := updateTable s c { slots := old.1, nextId := old.2 } ds
      let undo := (changedSlots old.1 t.slots).map (fun k => (k, Map.get old.1 k, Map.get t.slots k))
      let s1 := setJobTable s j (t.slots, t.nextId)
      let s2 := if tableStands s j then
          let s2 := countReg (countReg s1 Reg.TRK_STATS t.untracked) Reg.TRK_EVICT t.evicted
          if t.untracked = 0 then s2
          else logOncePerTick (trkEvent s2 q.route 4) 0x40 8 NOTE (arg1 q.route ++ argN 4 q.target)
        else s1
      (s2, { q with upd := true, dets := ds.length, undo := undo })

/-- Steps 4 and 5 of a route of a decision job (R296): the channel decisions and the entry. -/
def endDecRoute (s : State) (j : Job) (q : DecRoute) : State :=
  match s.fab.plan.routes.find? (fun x => x.route == q.route), sweepAddr s q.image q.route q.w with
  | some r, some a =>
    if q.hold then holdRoute s q
    else
      let c := decCtx s q a
      let conf := ((jobTable s j).1.filter (fun e => e.2.route == q.route && e.2.state == 2)).map (·.2)
      let o := decideRoute s c r conf
      let s2 := o.2.2.foldl (fun s e => trkEvent s q.route e) o.1
      let still := o.2.2.contains 5
      let ons := ((List.range r.chanCount).filter (fun n => chanOn s2 (r.chanFirst + n))).length
      let s3 := poke s2 (Reg.TRK_RT_STATUS q.route) (b2n still + (min 255 q.dets) * 256 + ons * 65536)
      if r.chanCount = 0 then s3 else writeRoute s3 q.image r q.target q.w q.epoch q.mixed o.2.1
  | _, _ => holdRoute s q

/-- The decision job of a huddle that runs. -/
def decJobOf (s : State) (h : Nat) : Option Job :=
  (hudOf s (topOf s.fab.plan h)).rom.find? (fun j => j.kind == 3 && j.huddle == h)

/-- The state with a ROM stage job replaced. -/
def romReplace (s : State) (j k : Job) : State :=
  let top := topOf s.fab.plan j.huddle
  setHud s top { hudOf s top with rom := (hudOf s top).rom.map (fun x => if x = j then k else x) }

/-- Step 3 of route `r` of the decision job that runs on huddle `h`. -/
def stepThree (s : State) (h r : Nat) : State :=
  match decJobOf s h with
  | none => s
  | some j =>
    match j.dec.find? (fun q => q.route == r) with
    | none => s
    | some q =>
      let x := decUpdate s j q
      romReplace x.1 j { j with dec := j.dec.map (fun p => if p.route = r then x.2 else p) }

/-- The decision of a route for the line of synthesis tick w has not begun: its job is due, or its tick has not come. -/
def decPending (s : State) (w : Nat) (r : Route) : Bool :=
  routeOn s s.regs r.route && decide (Map.getD s.syn.since r.route 0 ≤ w) && (decide (tickNow s < w + r.decTick)
    || (hudOf s (topOf s.fab.plan r.decHud)).romDue.any (fun d => d.1 == 3 && d.2.1 == r.decHud && d.2.2.1 == w * 4 + r.decTick))

/-- The end of a decision job (R296, R313): step 3 of its routes and of every lower route of the line whose job runs, in ascending
route; then its channels and entries. It waits while the job of a lower route has not started. (DESIGN CHOICE, assumption 53.) -/
def endDecision (s : State) (j : Job) : State :=
  let w := ((j.dec.head?).map (·.w)).getD 0
  let top := (j.dec.map (·.route)).foldl max 0
  let routes := sortBy (fun a b => decide (a.route ≤ b.route)) (s.fab.plan.routes.filter (fun r => decide (r.route ≤ top)))
  if routes.any (fun r => r.decHud != j.huddle && decPending s w r) then s
  else
    let img := ((j.dec.head?).map (·.image)).getD j.image
    let old := jobTable s j
    let s1 := setJobTable s j (passOrphans s img w old.1, old.2)
    let s2 := routes.foldl (fun s r =>
      match decJobOf s r.decHud with
      | some k => if k.dec.any (fun q => q.route == r.route && q.w == w) then stepThree s r.decHud r.route else s
      | none => s) s1
    match decJobOf s2 j.huddle with
    | none => s2
    | some k => romRemove (trkPublish (k.dec.foldl (fun s q => endDecRoute s k q) s2) k) k true

/-- At Whistle w the decision jobs of lines become due (R295). -/
def decDue (s : State) (w : Nat) : State :=
  let l := (s.fab.plan.routes.filterMap (fun r =>
    if w < r.decTick then none
    else if (decRoutes s r.decHud (w - r.decTick) r.decTick).isEmpty then none
    else some (r.decHud, (w - r.decTick) * 4 + r.decTick))).eraseDups
  l.foldl (fun s e => romPush s 3 e.1 e.2 (s.clk.inst + 2000 * tuNs)) s

/-- Every slot is set FREE (R301); decision jobs that run go on with the table as it stood (R313). -/
def clearTracks (s : State) (w : Nat) : State :=
  let js := (s.sch.hud.flatMap (fun e => e.2.rom)).filter (fun j => j.kind == 3)
  let kept := s.trk.past.filter (fun e => js.any (fun j => decide (j.tick < e.1)))
  let past := if js.isEmpty then [] else kept ++ [(w, s.trk.slots, s.trk.nextId)]
  poke { s with trk := { s.trk with slots := [], changed := (s.trk.slots.map (·.1)).foldl setInsert s.trk.changed,
                                    past := past } } Reg.TRK_OCCUPANCY 0

/-- CLEAR: the commit of the next Whistle sets every slot FREE. (DESIGN CHOICE, assumption 10.) -/
def execClearTracks (s : State) : Out := .next (clearTracks s s.clk.next)

/-- A plan switch sets ON_L = 0 and RUN = 255 and keeps the table (R83, R309); the routes that the new plan does not define have
their registers at their reset values (R315). -/
def trkSwitch (s : State) : State :=
  let s1 := { s with trk := { s.trk with onL := 0, run := [] } }
  (List.range 16).foldl (fun s r =>
    if s.fab.plan.routes.any (fun x => x.route == r) then pokeF s (Reg.TRK_RT_STATUS r) 26 16 0
    else { s with regs := s.regs.filter (fun e => e.1 < Reg.TRK_RT_CTRL r || Reg.TRK_RT_CTRL r + 0x40 ≤ e.1) }) s1

end Sys2Proof.Machine
end

