-- ==== Sys2Proof/Machine/View.lean ====
section
/-! DEFINITION. View synthesis (chapter 10): the cadence and the choice of the picture at a view start, the view descriptor,
frame generation, the up-scale list's settlement, composition, and the picture record. -/

namespace Sys2Proof.Machine

/-! ## Cadence (R269–R271) -/

/-- D30 of R271. -/
def d30 (period : Nat) : Nat := ceilDiv (1000000000 * tuNs) (30 * period)

/-- Dv of a DIV, with the 30 Hz shedding step in force or not (R271). -/
def divWith (div period : Nat) (step30 : Bool) : Nat := if step30 then max div (d30 period) else div

/-- The effective divisor, Dv. -/
def dvOf (s : State) : Nat := divWith (fld s Reg.SYN_VW_CTRL 23 16) (period s) (shedStep s 1)

/-- The view huddle that SYN_VW_CTRL names. -/
def viewHud (s : State) : Nat := fld s Reg.SYN_VW_CTRL 15 8

/-- Whistle w is a view start. -/
def isViewStart (s : State) (w : Nat) : Bool :=
  match s.vw.began with
  | some a => !viewsOff s && decide (a < w) && (w - a) % max 1 s.vw.dv == 0
  | none => false

/-! ## The view descriptor (R293) -/

/-- A field of a descriptor. -/
def vd (d : List Byte) (o n : Nat) : Nat := fieldLE d o n

def vdCols (d : List Byte) : Nat := vd d 0 1
def vdRows (d : List Byte) : Nat := vd d 1 1
def vdTileW (d : List Byte) : Nat := vd d 4 2
def vdTileH (d : List Byte) : Nat := vd d 6 2
/-- C, the ticks of composition. -/
def vdComp (d : List Byte) : Nat := vd d 0x20 1
/-- NT, the number of tiles. -/
def vdTiles (d : List Byte) : Nat := vdCols d * vdRows d
/-- The picture's size. -/
def vdWidth (d : List Byte) : Nat := vdCols d * vdTileW d
def vdHeight (d : List Byte) : Nat := vdRows d * vdTileH d
def vdBg (d : List Byte) : Nat × Nat × Nat := rgbOf (vd d 0x54 4)
/-- CROP_X, CROP_Y, CROP_W and CROP_H of a tile. -/
def vdCrop (d : List Byte) (t : Nat) : Nat × Nat × Nat × Nat :=
  let o := 0x80 + 8 * t
  (vd d o 2, vd d (o + 2) 2, vd d (o + 4) 2, vd d (o + 6) 2)

/-- The base picture's size per tile, by the base tensor's dimensions (R278). -/
def baseSize (p : Plan) (d : List Byte) : Nat × Nat :=
  match p.tensors[vd d 8 2]? with
  | some t => ((t.dims[1]?).getD 0, ((t.dims[2]?).getD 0) / max 1 (vdTiles d))
  | none => (0, 0)

/-- The route that a tile shows (R277). -/
def tileRoute (s : State) (t : Nat) : Option Route := s.fab.plan.routes.find? (fun r => r.viewTile == t)

/-- The sensor area of a port: up to the far edge of its FULL window, in unbinned sensor pixels. -/
def sensorArea (s : State) (img : Map Word) (p : Nat) : Nat × Nat :=
  let org := ireg s img (Reg.SYN_CAM_FULL_ORG p)
  let n := 2 ^ bits org 31 30
  (bits org 13 0 + ifld s img (Reg.CAM_PORT_FULL_SIZE p) 13 0 * n, bits org 29 16 + ifld s img (Reg.CAM_PORT_FULL_SIZE p) 29 16 * n)

/-- Zero in COLS, ROWS, TILE_W, TILE_H or COMP_TICKS (R290). -/
def vdEmpty (d : List Byte) : Bool := [vdCols d, vdRows d, vdTileW d, vdTileH d, vdComp d].contains 0

/-- IN_TENSOR breaks R278. -/
def inTensorBad (p : Plan) (d : List Byte) : Bool :=
  match p.tensors[vd d 8 2]? with
  | some t =>
    let b := baseSize p d
    t.fmt != 3 || t.zero != 0 || t.shift != 0 || t.gran != 0 || t.guard
      || t.dims != [4, b.1, b.2 * vdTiles d] && t.dims != [4, b.1, b.2 * vdTiles d, 1]
      || decide (vdTileW d < b.1) || decide (vdTileH d < b.2)
  | none => true

/-- OUT_TENSOR breaks R281. -/
def outTensorBad (p : Plan) (d : List Byte) : Bool :=
  match p.tensors[vd d 0xA 2]? with
  | some t =>
    !isInt8 t.fmt || t.dims != [3, vdTileW d, vdTileH d * vdTiles d] && t.dims != [3, vdTileW d, vdTileH d * vdTiles d, 1]
  | none => true

/-- The descriptor check at GEN start (R291), FORMAT. (DEDUCED, assumption 83.) -/
def viewFormatBad (s : State) (d : List Byte) (dv : Nat) : Bool :=
  let ups := vd d 0x50 2
  let zero (o n : Nat) : Bool := allZero (slice d o n)
  let bad (o align n : Nat) : Bool := vd d o 8 % align != 0 || !rangeOk s (vd d o 8) n false
  let act := (imgW s s.vrs.dp Reg.VRS_HTIME0).toNat % 65536
  let actV := (imgW s s.vrs.dp Reg.VRS_VTIME0).toNat % 65536
  decide (7 < vd d 2 2) || !zero 0x21 3 || !zero 0x52 2 || !zero 0x5C 4 || !zero 0x68 24 || vd d 0x17 1 != 0 || vd d 0x1B 1 != 0
    || vd d 0x57 1 != 0 || vd d 0x5B 1 != 0
    || !lineAddrOk s (vd d 0x28 8) true || !lineAddrOk s (vd d 0x30 8) true
    || bad 0x38 64 64 || bad 0x40 64 64 || bad 0x48 16 16 || bad 0x60 4 4
    || decide (8 < vdCols d) || decide (8 < vdRows d) || decide (3840 < vdWidth d) || decide (2160 < vdHeight d)
    || vdWidth d != act || vdHeight d != actV
    || inTensorBad s.fab.plan d || (ups != 0 && outTensorBad s.fab.plan d)
    || decide (dv - 1 < vdComp d) || decide (4 < vd d 0x1C 1)
    || (List.range (vdTiles d)).any (fun t =>
        let c := vdCrop d t
        match tileRoute s t with
        | some r => let a := sensorArea s s.regs (seqOf r)
                    c.2.2.1 != 0 && c.2.2.2 != 0 && (decide (a.1 < c.1 + c.2.2.1) || decide (a.2 < c.2.1 + c.2.2.2))
        | none => false)
    || vd d 0x14 3 == 0 || vd d 0x18 3 == 0

/-! ## Frame generation (R277–R280) -/

/-- What GEN makes of a base pixel: colour, CONF, state 0 FRESH, 1 AGED, 2 SWEEP, 3 FILL, and the age of the source used. -/
structure BasePx where
  rgb : Nat × Nat × Nat
  conf : Nat
  state : Nat
  age : Option Nat
  deriving DecidableEq, Repr

/-- The direction of a base pixel of a tile in world axes (R279, R280). -/
def viewRay (o : Optics) (c : Nat × Nat × Nat × Nat) (b : Nat × Nat) (x y : Nat) : Vec3 :=
  let at_ (lo n size k : Nat) : F32 := fsub (fadd (fInt (lo : Nat)) (fdiv (fmul (fadd (fInt (k : Nat)) fHalf) (fInt (n : Nat)))
    (fInt (size : Nat)))) fHalf
  let xd := fdiv (fsub (at_ c.1 c.2.2.1 b.1 x) o.cx) o.fx
  let yd := fdiv (fsub (at_ c.2.1 c.2.2.2 b.2 y) o.cy) o.fy
  let step (q : F32 × F32) : F32 × F32 :=
    let r2 := fadd (fmul q.1 q.1) (fmul q.2 q.2)
    let k := fadd (fadd (fInt 1) (fmul o.k1 r2)) (fmul (fmul o.k2 r2) r2)
    (fdiv xd k, fdiv yd k)
  let n := step (step (step (xd, yd)))
  toWorld o (fScaled (o.pose.heading : Int) (-32)) { x := n.1, y := n.2, z := fInt 1 }

/-- One base pixel of a tile with a route and a crop (R280). `q` is the view pose, `w` the Whistle V − Dv. -/
def genPixel (s : State) (p : Pic) (r : Route) (t w : Nat) (q : Pose) (b : Nat × Nat) (x y : Nat) : BasePx :=
  let port := seqOf r
  let fill : BasePx := { rgb := rgbOf (ireg s p.image (Reg.SYN_RT_FILL r.route)), conf := 0, state := 3, age := none }
  let o := opticsOf s p.image port 0 q 0 0 0 0 (ireg s p.image Reg.WHS_PERIOD)
  let d := viewRay o (vdCrop p.desc t) b x y
  if fle 0 d.z then fill
  else
    let k := fdiv (fneg (fInt q.z)) d.z
    let g := Vec3.scale k d
    let ageMax := ifld s p.image (Reg.SYN_RT_AGE r.route) 9 0
    let hit := (Map.getD p.srcs t []).findSome? (fun src =>
      let h := readHdr s src.addr
      let rel : Vec3 := { x := fadd (fInt (q.x - h.pose.x)) g.x, y := fadd (fInt (q.y - h.pose.y)) g.y,
                          z := fadd (fInt (q.z - h.pose.z)) g.z }
      (project (srcOptics s p.image src h) rel).map (fun uv => (src, h, uv)))
    match hit with
    | some (src, h, uv) =>
      let age := w - src.tick
      { rgb := sampleAt s p.image src h uv.u uv.v, conf := tileConfAt s src uv.u uv.v * (ageMax - age) / max 1 ageMax,
        state := if age ≤ vd p.desc 0x1D 1 then 0 else 1, age := some age }
    | none =>
      match Map.get p.sweeps t with
      | some a =>
        let sg := hdrGeom (sweepHdr s a)
        let pos := sweepPos sg (fadd (fInt (q.x - sg.nx)) g.x, fadd (fInt (q.y - sg.ny)) g.y)
        if inSweep pos then
          let v := sweepSample s a pos
          { rgb := v.1, conf := v.2, state := 2, age := none }
        else fill
      | none => fill

/-- The base pixels of a tile, row by row: BG_RGB without a route or a crop (R277, R279). -/
def genTile (s : State) (p : Pic) (t : Nat) : List (List BasePx) :=
  let b := baseSize s.fab.plan p.desc
  let c := vdCrop p.desc t
  let bg : BasePx := { rgb := vdBg p.desc, conf := 0, state := 4, age := none }
  match tileRoute s t with
  | none => List.replicate b.2 (List.replicate b.1 bg)
  | some r =>
    if c.2.2.1 = 0 ∨ c.2.2.2 = 0 then List.replicate b.2 (List.replicate b.1 bg)
    else
      let q := cameraPose { s with regs := p.image } (seqOf r) (poseAhead p.machine p.dv)
      (List.range b.2).map (fun y => (List.range b.1).map (fun x => genPixel s p r t (p.start - p.dv) q b x y))

/-- The tile record of the picture header (R287). The age of a tile that used no source is not stated: a value left open. -/
def tileRecord (s : State) (p : Pic) (t : Nat) (px : List BasePx) : List Byte :=
  match tileRoute s t with
  | none => [0xFF, 1, 0, 0, 0, 0, 0, 0]
  | some r =>
    let c := vdCrop p.desc t
    let none_ := (Map.getD p.srcs t []).isEmpty
    let noSig := (Map.getD s.cam.ports (seqOf r) {}).noSignal
    let share (k : Nat) : Nat := 255 * (px.filter (fun x => x.state == k)).length / max 1 px.length
    let ages := px.filterMap (·.age)
    let age := match ages with
      | [] => Config.unstated 7 (t : Nat) % 256
      | a :: l => min 255 (l.foldl min a)
    let flags := 2 * b2n noSig + 4 * b2n none_ + 8 * b2n (px.any (fun x => x.state == 2))
    if c.2.2.1 = 0 ∨ c.2.2.2 = 0 then leBytes 1 r.route ++ leBytes 1 flags ++ List.replicate 6 0
    else leBytes 1 r.route ++ leBytes 1 flags ++ leBytes 1 (rneDiv (sumN (px.map (·.conf)) : Nat) (max 1 px.length)).toNat
      ++ leBytes 1 (share 0) ++ leBytes 1 (share 1) ++ leBytes 1 (share 3) ++ leBytes 1 age ++ [0]

/-- The base tensor is written as blocks in bands of IN_TILE_H rows (R177, R188, R278). -/
def writeBase (s : State) (p : Pic) (rows : List (List BasePx)) : State :=
  let d := p.desc
  let n := vd d 0xC 2
  (List.range (ceilDiv rows.length n)).foldl (fun s b =>
    let px := ((rows.drop (b * n)).take n).flatten
    let da := vd d 0x28 8 + b * vd d 0x10 2 * 64
    let sa := vd d 0x30 8 + b * 192
    let body := pad64 (blockHeader b 3 (vd d 8 2) (4 * px.length) p.epoch
      ++ px.flatMap (fun x => leBytes 1 x.rgb.1 ++ leBytes 1 x.rgb.2.1 ++ leBytes 1 x.rgb.2.2 ++ leBytes 1 x.conf))
    let scale := pad64 (blockHeader b 0xE (vd d 8 2) 1 p.epoch ++ [0])
    romWrite (romWrite (romWrite (romWrite s (da + 16) (body.drop 16)) (sa + 16) (scale.drop 16)) da (body.take 16))
      sa (scale.take 16)) s

/-! ## Stages (R272, R273) -/

/-- The instant from which a stage of the tick of Whistle w starts: W + max(2.0 µs, START). The period is that of the present tick, since
a change of it abandons the picture (R276). -/
def stageInst (s : State) (d : List Byte) (w : Nat) : Nat :=
  s.clk.inst - (tickNow s - w) * period s + max 2000 (vd d 0x24 4) * tuNs

/-- A stage job of the view pipeline still runs, on whichever huddle and under whichever plan (R273). -/
def stageRuns (s : State) : Bool :=
  let on (m : Map HuddleRun) : Bool := m.any (fun e => e.2.rom.any (fun j => j.kind == 4 || j.kind == 5))
  on s.sch.hud || s.sch.old.any (fun e => on e.2.1)

/-- The address of the descriptor, of the picture slots, and the size of a slot (R286, R294). (DEDUCED, assumption 25.) -/
def viewDesc (s : State) (img : Map Word) : Nat := addr40 s img Reg.SYN_VW_DESC_LO Reg.SYN_VW_DESC_HI / 16 * 16
def picSlot (s : State) (p : Pic) (i : Nat) : Nat :=
  addr40 s p.image Reg.SYN_VW_PIC_LO Reg.SYN_VW_PIC_HI / 4096 * 4096
    + i * (4096 + ceilDiv (vdWidth p.desc * vdHeight p.desc * 4) 4096 * 4096)

/-- A view stage is the oldest due on its huddle. -/
def stageFirst (s : State) (d : Nat × Nat × Nat × Nat) : Bool :=
  match ((hudOf s (topOf s.fab.plan d.2.1)).romDue.filter (fun x => x.1 == 4 || x.1 == 5)).head? with
  | some x => x == d
  | none => false

/-- The COMPOSE slices of a picture whose Whistles have passed become due. -/
def pushSlice (s : State) (p : Pic) (w h : Nat) : State :=
  if decide (p.start - vdComp p.desc ≤ w) && decide (w < p.start) then romPush s 5 h w (stageInst s p.desc w) else s

/-- The newest sweep of a route up to Whistle w that reads whole with STATUS OK (R280). -/
def newestSweep (s : State) (img : Map Word) (r w : Nat) : Option Nat :=
  (List.range (ifld s img (Reg.SYN_RT_RING r) 4 0)).findSome? (fun k =>
    if w < k then none
    else match sweepAddr s img r (w - k) with
      | some a => if sweepReadable s a (w - k) then some a else none
      | none => none)

/-- The picture as GEN latches it (R275, R280, R289). (DEDUCED, assumption 85.) -/
def latchPic (s : State) (d : List Byte) (w dv : Nat) : Pic :=
  let tiles := (List.range (vdTiles d)).filterMap (fun t => (tileRoute s t).map (fun r => (t, r)))
  { start := w + dv, desc := d, image := s.regs, epoch := s.com.epoch % 65536, dv := dv, machine := s.vw.machine,
    srcs := tiles.map (fun e => (e.1, (usable s s.regs e.2 w
      (ifld s s.regs (Reg.SYN_RT_AGE e.2.route) 9 0) 0).1.take (vd d 0x1C 1))),
    sweeps := if shedStep s 5 then [] else tiles.filterMap (fun e => (newestSweep s s.regs e.2.route (tickNow s)).map (fun a => (e.1, a))),
    flags := 4 * b2n (shedStep s 4 && vd d 0x50 2 != 0) + 8 * b2n (shedStep s 5) + 32 * b2n (shedStep s 1)
      + 64 * b2n (bit (vd d 2 2) 2) + 128 * b2n (bit (vd d 2 2) 1),
    shed := s.pwr.level != 0 }

/-- Best-effort contexts are suspended and one of them owns the view huddle: no stage of a picture starts (R289). -/
def viewSuspended (s : State) : Bool :=
  match ownerOf s (topOf s.fab.plan (viewHud s)) with
  | some c => shedStep s 2 && ctxClass s c.1 == 1
  | none => false

/-- The up-scale work of a picture ends: the running entry is released and not resumed, no other starts (R276, R282). -/
def dropUps (s : State) (h : Nat) : State :=
  let top := topOf s.fab.plan h
  let s1 := if (hudOf s top).group.any (·.view) then releaseGroup s top false else s
  let r := hudOf s1 top
  let s2 := setHud s1 top { r with ups := none, taken := if r.takenUps then none else r.taken, takenUps := false,
                                   preempted := r.preempted.filter (fun j => !j.view) }
  { s2 with sch := { s2.sch with ctxs := s2.sch.ctxs.map (fun c =>
      (c.1, { c.2 with preempted := c.2.preempted.filter (fun j => !j.view) })) } }

/-- The up-scale of a picture is complete or late: it is past its Whistle V − C (R282). -/
def settlePic (s : State) (p : Pic) : State :=
  let late := vd p.desc 0x50 2 != 0 && !p.upsDone && !bit p.flags 1 && !bit p.flags 2
  let q := { p with settled := true, flags := if late then p.flags ||| 1 else p.flags }
  let s1 := { s with vw := { s.vw with pic := some q } }
  if late then event (dropUps s1 (ifld s p.image Reg.SYN_VW_CTRL 15 8)) Reg.SYN_VW_EVENTS 4 else s1

/-- At the Whistle V − C the up-scale is complete or late (R282). -/
def settleUps (s : State) (w : Nat) : State :=
  match s.vw.pic with
  | none => s
  | some p => if p.settled || p.start != w + vdComp p.desc then s else settlePic s p

/-- GEN: the frame-generation stage that is due on a huddle starts, or a check of its descriptor ends the picture (R272–R275, R289–R291).
One that starts only after the Whistle V − C finds its up-scale late (R282). -/
def genJob (s0 : State) (h : Nat) : State :=
  match romDueOf s0 4 h with
  | none => s0
  | some due =>
    if !stageFirst s0 due || stageRuns s0 then s0
    else
      let s1 := advance s0 due.2.2.2
      let room := romMakeRoom s1 h
      let s2 := room.1
      if !room.2 then s2
      else
        let w := due.2.2.1
        let a := viewDesc s2 s2.regs
        let head := unitRead s2 a 128
        let d := head ++ unitRead s2 (a + 128) (8 * vdTiles head)
        let s3 := romTaken s2 due
        if viewSuspended s3 then s3
        else if vdEmpty d then event s3 Reg.SYN_VW_EVENTS 7
        else if viewFormatBad s3 d s3.vw.dv || !rangeOk s3 a d.length false then event s3 Reg.SYN_VW_EVENTS 6
        else
          let p := latchPic s3 d w s3.vw.dv
          let s4 := if p.start - vdComp d ≤ tickNow s3 then settlePic s3 p else { s3 with vw := { s3.vw with pic := some p } }
          let s5 := (upTo (p.start - vdComp d) (tickNow s4 + 1)).foldl (fun s k => pushSlice s p k h) s4
          romStart s5 { newRom s5 4 h (vd d 0x14 3) with tick := p.start, view := true }

/-- GEN. -/
def execGen (huddle : Byte) (s : State) : Out := .next (genJob s huddle.toNat)

/-- The picture that a stage job works on, where it is still in progress. -/
def picOf (s : State) (j : Job) : Option Pic := s.vw.pic.filter (fun p => p.start == j.tick)

/-- The end of GEN: the base tensor is written, and the up-scale list starts (R278, R281, R289). -/
def endGen (s : State) (j : Job) : State :=
  match picOf s j with
  | none => romRemove s j true
  | some p =>
    let tiles := (List.range (vdTiles p.desc)).map (genTile s p)
    let recs := (tiles.zip (List.range tiles.length)).map (fun e => tileRecord s p e.2 e.1.flatten)
    let s1 := writeBase s p tiles.flatten
    let s2 := romRemove { s1 with vw := { s1.vw with pic := some { p with tiles := recs } } } j true
    let n := vd p.desc 0x50 2
    let top := topOf s.fab.plan j.huddle
    if n = 0 then s2
    else if bit p.flags 2 then event s2 Reg.SYN_VW_EVENTS 8
    else if p.settled then s2
    else setHud s2 top { hudOf s2 top with ups := some (j.huddle, { addr := vd p.desc 0x48 8, left := n, index := 0 }) }

/-! ## Composition (R284–R287) -/

/-- An element of the base tensor: channel c of base pixel (x, y) of a tile. -/
def baseElem (s : State) (p : Pic) (t c x y : Nat) : Nat :=
  let b := baseSize s.fab.plan p.desc
  let row := t * b.2 + y
  let n := max 1 (vd p.desc 0xC 2)
  let k := row / n
  unitLE s (vd p.desc 0x28 8 + k * vd p.desc 0x10 2 * 64 + 16 + ((row - k * n) * b.1 + x) * 4 + c) 1

/-- An element of the output tensor as a colour value (R158, R284). -/
def outElem (s : State) (p : Pic) (t c x y : Nat) : Nat :=
  match s.fab.plan.tensors[vd p.desc 0xA 2]? with
  | none => 0
  | some o =>
    let w := vdTileW p.desc
    let row := t * vdTileH p.desc + y
    let n := max 1 (vd p.desc 0xE 2)
    let k := row / n
    let code := unitLE s (vd p.desc 0x38 8 + k * vd p.desc 0x12 2 * 64 + 16 + ((row - k * n) * w + x) * 3 + c) 1
    to8 (rneShiftK (intCode o.fmt code - o.zero) (- shiftOf s (vd p.desc 0x40 8 + k * 192) o.gran c))

/-- The position of picture pixel k of `n` among `m` base samples, times 2n: (k + 0.5) × m ÷ n − 0.5. -/
def basePos (k m n : Nat) : Int := (((2 * k + 1) * m : Nat) : Int) - (n : Int)

/-- The base colour interpolated at a tile position, rounded once (R284). -/
def baseBlend (s : State) (p : Pic) (t c x y : Nat) : Nat :=
  let b := baseSize s.fab.plan p.desc
  let nx := vdTileW p.desc
  let ny := vdTileH p.desc
  let u := basePos x b.1 nx
  let v := basePos y b.2 ny
  let dx : Int := (2 * nx : Nat)
  let dy : Int := (2 * ny : Nat)
  let x0 := u / dx
  let y0 := v / dy
  let fx := u - x0 * dx
  let fy := v - y0 * dy
  let e (i j : Int) : Int := (baseElem s p t c (edge b.1 i) (edge b.2 j) : Nat)
  to8 (rneDiv ((dx - fx) * (dy - fy) * e x0 y0 + fx * (dy - fy) * e (x0 + 1) y0
    + (dx - fx) * fy * e x0 (y0 + 1) + fx * fy * e (x0 + 1) (y0 + 1)) (4 * nx * ny))

/-- CONF of the base pixel nearest to a tile position. -/
def nearConf (s : State) (p : Pic) (t x y : Nat) : Nat :=
  let b := baseSize s.fab.plan p.desc
  baseElem s p t 3 (edge b.1 (rneDiv (basePos x b.1 (vdTileW p.desc)) (2 * vdTileW p.desc)))
    (edge b.2 (rneDiv (basePos y b.2 (vdTileH p.desc)) (2 * vdTileH p.desc)))

/-- The parts of the band text of a tile in order (R285). -/
def bandParts (s : State) (p : Pic) (t : Nat) : List (List Nat) :=
  match tileRoute s t with
  | none => [[78, 79, 32, 82, 79, 85, 84, 69]]
  | some r =>
    let rec_ := (p.tiles[t]?).getD []
    let per := ireg s p.image Reg.WHS_PERIOD
    let v := rneDiv (p.machine.speed * 36864000) (bits per 19 0 * 1024 + bits per 29 20)
    let n := v.natAbs
    let fl := vd rec_ 1 1
    [67 :: digits (seqOf r), (if v < 0 then [45] else []) ++ digits (n / 10) ++ [46] ++ digits (n % 10),
     81 :: digits (vd rec_ 2 1), 70 :: digits (rneDiv (100 * vd rec_ 5 1 : Nat) 255).toNat]
      ++ (if bit fl 1 then [[78, 79, 32, 83, 73, 71, 78, 65, 76]] else [])
      ++ (if bit fl 2 then [[78, 79, 32, 83, 79, 85, 82, 67, 69]] else [])
      ++ (if p.shed then [[83, 72, 69, 68]] else [])

/-- The character codes of the band text. The spec states the parts and not what stands between them: that is left open. -/
def bandText (s : State) (p : Pic) (t : Nat) : List Nat :=
  match bandParts s p t with
  | [] => []
  | a :: l => (l.zip (List.range l.length)).foldl (fun acc e => acc ++ Config.bandGap e.2 ++ e.1) a

/-- A pixel of the status band carries white text: the ROM font from column 8; the band's first text row is left open. -/
def bandWhite (txt : List Nat) (bandH x y : Nat) : Bool :=
  let y0 := Config.unstated 6 (bandH : Nat) % max 1 (bandH - 23)
  decide (24 ≤ bandH) && decide (8 ≤ x) && decide (y0 ≤ y) && decide (y < y0 + 24)
    && (match txt[(x - 8) / 12]? with
        | some c => (Config.fontRow c (y - y0)).getLsbD (11 - (x - 8) % 12)
        | none => false)

/-- The colour of a picture pixel before packing (R284). -/
def composePx (s : State) (p : Pic) (up : Bool) (txt : List Nat) (t x y px py : Nat) : Nat × Nat × Nat :=
  let d := p.desc
  let flags := vd d 2 2
  let crop := vdCrop d t
  let plain := (tileRoute s t).isNone || crop.2.2.1 == 0 || crop.2.2.2 == 0
  let bg := vdBg d
  let c0 := if plain then bg
    else if up then (outElem s p t 0 x y, outElem s p t 1 x y, outElem s p t 2 x y)
    else (baseBlend s p t 0 x y, baseBlend s p t 1 x y, baseBlend s p t 2 x y)
  let each (f : Nat → Nat → Nat) (a b : Nat × Nat × Nat) : Nat × Nat × Nat := (f a.1 b.1, f a.2.1 b.2.1, f a.2.2 b.2.2)
  let c1 := if bit flags 1 && decide (nearConf s p t x y < vd d 0x1E 1) then
      each (fun c k => to8 (rneDiv ((c + k : Nat) : Int) 2)) c0 (rgbOf (vd d 0x58 4))
    else c0
  let bh := vd d 0x1F 1
  let top := vdTileH d - bh
  let c2 := if bit flags 0 && decide (top ≤ y) then
      if bandWhite txt bh x (y - top) then (255, 255, 255) else each (fun c _ => to8 (rneDiv (c : Nat) 4)) c1 c1
    else c1
  if bit flags 2 then
    let o := fieldLE (unitRead s (vd d 0x60 8 + (py * vdWidth d + px) * 4) 4) 0 4
    let a := bits o 31 24
    each (fun c k => to8 (rneDiv ((a * k + (255 - a) * c : Nat) : Int) 255)) c2 (bits o 23 16, bits o 15 8, bits o 7 0)
  else c2

/-- The stride of a row of a picture (R286). -/
def packStride (fmt w : Nat) : Nat := ceilDiv (w * packBytes fmt) 64 * 64

/-- The packed row Y of the picture. -/
def composeRow (s : State) (p : Pic) (up : Bool) (txts : List (List Nat)) (y : Nat) : List Byte :=
  let d := p.desc
  let tw := max 1 (vdTileW d)
  let th := max 1 (vdTileH d)
  (List.range (vdWidth d)).flatMap (fun x =>
    let t := y / th * vdCols d + x / tw
    packPx p.fmt (composePx s p up ((txts[t]?).getD []) t (x % tw) (y % th) x y))

/-- Rows of slice k (R272). -/
def sliceRows (p : Pic) (k : Nat) : List Nat :=
  let h := vdHeight p.desc
  let c := max 1 (vdComp p.desc)
  upTo (k * h / c) ((k + 1) * h / c)

/-- The mode of a picture, UPSCALED only when the up-scale was complete at V − C (R282). -/
def isUpscaled (p : Pic) : Bool := p.upsDone && !bit p.flags 0

/-- The blocks that a slice reads: tensor, tile, data and scale addresses; the tint reads the base tensor of every tile (R178, R283,
R284). -/
def sliceBlocks (s : State) (p : Pic) (k : Nat) : List (Nat × Nat × Nat × Nat) :=
  let d := p.desc
  let b := baseSize s.fab.plan d
  let th := max 1 (vdTileH d)
  let rows := sliceRows p k
  let tiles := pairsOf rows (List.range (vdCols d))
  let live := tiles.filter (fun e =>
    let t := e.1 / th * vdCols d + e.2
    (tileRoute s t).isSome && (vdCrop d t).2.2.1 != 0 && (vdCrop d t).2.2.2 != 0)
  let base := (if bit (vd d 2 2) 1 then tiles else live).flatMap (fun e =>
    let t := e.1 / th * vdCols d + e.2
    let v := basePos (e.1 % th) b.2 th / ((2 * th : Nat) : Int)
    [edge b.2 v, edge b.2 (v + 1)].map (fun y => (t * b.2 + y) / max 1 (vd d 0xC 2)))
  let out := live.map (fun e => ((e.1 / th * vdCols d + e.2) * th + e.1 % th) / max 1 (vd d 0xE 2))
  (if isUpscaled p then out.eraseDups.map (fun j => (vd d 0xA 2, j, vd d 0x38 8 + j * vd d 0x12 2 * 64, vd d 0x40 8 + j * 192)) else [])
    ++ (if !isUpscaled p || bit (vd d 2 2) 1 then
          base.eraseDups.map (fun j => (vd d 8 2, j, vd d 0x28 8 + j * vd d 0x10 2 * 64, vd d 0x30 8 + j * 192)) else [])

/-- Slots that COMPOSE may not take: those an output scans, which a picture that does not fit is not (R350), and the newest complete
picture's (R286, R349). -/
def slotsTaken (s : State) : List Nat :=
  let f (x : Option ViewFrame) : List Nat := match x.filter (fun v => !v.misfit) with
    | some v => (match v.pic with | some i => [i.slot] | none => [])
    | none => []
  f s.vrs.frame ++ f s.vrs.clone ++ (match s.vw.newest with | some i => [i.slot] | none => [])

/-- The picture in progress is abandoned: no further stage runs, up-scale work is released (R276). -/
def abandonPic (s : State) : State :=
  match s.vw.pic with
  | none => s
  | some p =>
    let s1 := dropUps { s with vw := { s.vw with pic := none } } (ifld s p.image Reg.SYN_VW_CTRL 15 8)
    event (purgeStages s1 false) Reg.SYN_VW_EVENTS 1

/-- COMPOSE: the slice that is due on a huddle starts; slice 0 takes a slot and marks it, or finds none and the picture is
abandoned (R272, R273, R286, R349). -/
def composeJob (s0 : State) (h : Nat) : State :=
  match romDueOf s0 5 h with
  | none => s0
  | some due =>
    if !stageFirst s0 due || stageRuns s0 then s0
    else
      let s1 := advance s0 due.2.2.2
      let room := romMakeRoom s1 h
      let s2 := room.1
      if !room.2 then s2
      else
        let s3 := romTaken s2 due
        match s3.vw.pic with
        | none => s3
        | some p =>
          let k := due.2.2.1 + vdComp p.desc - p.start
          let free := (List.range 3).find? (fun i => !(slotsTaken s3).contains i)
          match (if k = 0 then free else some p.slot) with
          | none => abandonPic s3
          | some i =>
            let q := if k = 0 then
                { p with slot := i, addr := picSlot s3 p i, fmt := bits (imgW s3 s3.vrs.dp Reg.VRS_CTRL).toNat 5 4 } else p
            let s4 := { s3 with vw := { s3.vw with pic := some q } }
            let s5 := if k = 0 then romWrite s4 q.addr (leBytes 4 0xFFFFFFFF) else s4
            romStart s5 { newRom s5 5 h (vd p.desc 0x18 3) with
              tick := p.start, view := true, slice := k, image := p.image, epoch := p.epoch }

/-- COMPOSE. -/
def execCompose (huddle : Byte) (s : State) : Out := .next (composeJob s huddle.toNat)

/-- The 1 KiB picture header (R287). -/
def picHeader (p : Pic) (n : Nat) (static : Bool) (crc : Nat) : List Byte :=
  let d := p.desc
  let tiles := p.tiles.flatten
  leBytes 4 n ++ [if isUpscaled p then 0 else 1, 0] ++ leBytes 2 (p.flags + 16 * b2n static) ++ leBytes 8 p.start
    ++ leBytes 2 p.epoch ++ leBytes 1 p.dv ++ leBytes 1 p.fmt ++ leBytes 2 (vdWidth d) ++ leBytes 2 (vdHeight d)
    ++ leBytes 4 (packStride p.fmt (vdWidth d)) ++ leBytes 4 crc ++ List.replicate 32 0
    ++ (tiles ++ List.replicate (512 - tiles.length) 0) ++ List.replicate 444 0 ++ leBytes 4 n

/-- The last slice has ended: the header, SEQ_TAIL and SEQ are written, and the picture is the newest one (R286, R287). -/
def finishPic (s : State) (p : Pic) : State :=
  let crc := p.crc ^^^ 0xFFFFFFFF
  let n := (s.vw.pics + 1) % 2 ^ 32
  let static := match s.vw.newest with
    | some i => i.crc == crc && i.width == vdWidth p.desc && i.height == vdHeight p.desc && i.format == p.fmt
    | none => false
  let h := picHeader p n static crc
  let info : PicInfo := { slot := p.slot, addr := p.addr, seq := n, start := p.start, epoch := p.epoch, crc := crc,
                          width := vdWidth p.desc, height := vdHeight p.desc, stride := packStride p.fmt (vdWidth p.desc),
                          format := p.fmt, static := static }
  let s1 := romWrite (romWrite (romWrite s (p.addr + 4) ((h.drop 4).take 1016)) (p.addr + 0x3FC) (leBytes 4 n)) p.addr (leBytes 4 n)
  let s2 := statWrite s1 (statBase 7 + 0x2000) h
  poke { s2 with vw := { s2.vw with pic := none, pics := n, newest := some info } } Reg.SYN_VW_LAST (p.start % 2 ^ 32)

/-- The end of a COMPOSE slice: the tags of its blocks are checked, its rows are packed and written, and the last slice
completes the picture (R178, R283–R287). -/
def endCompose (s : State) (j : Job) : State :=
  match picOf s j with
  | none => romRemove s j true
  | some p =>
    match (sliceBlocks s p j.slice).findSome? (fun x => (tagCheck s x.2.2.1 x.2.2.2 none x.2.1).map (fun y => (x, y))) with
    | some (x, y) => romStopped (romCounted (skewReport s j x.1 x.2.1 y.1 y.2.1 0 none) j) j
    | none =>
      let txts := (List.range (vdTiles p.desc)).map (bandText s p)
      let st := packStride p.fmt (vdWidth p.desc)
      let rows := (sliceRows p j.slice).map (fun y => (y, composeRow s p (isUpscaled p) txts y))
      let s1 := rows.foldl (fun s r => romWrite s (p.addr + 0x1000 + r.1 * st) r.2) s
      let q := { p with crc := rows.foldl (fun c r => r.2.foldl crcByte c) p.crc }
      let s2 := romRemove { s1 with vw := { s1.vw with pic := some q } } j true
      if j.slice + 1 = vdComp p.desc then finishPic s2 q else s2

/-! ## At a Whistle -/

/-- The owner context of the view huddle, as R276 compares it. (DEDUCED, assumption 86.) -/
def viewOwner (s : State) : Option (Nat × CtxRec × Nat) :=
  (ownerOf s (topOf s.fab.plan (viewHud s))).map (fun c => (c.1, c.2.record, c.2.epoch))

/-- The cadence after the commit and the shedding of Whistle w, and the abandonment of the picture in progress (R269, R276).
`before` is the state before the commit applied. -/
def viewApplied (s before : State) (w : Nat) : State :=
  let planChange := s.fab.switches != before.fab.switches || (s.fab.inForce && !before.fab.inForce)
  let periodChange := reg s Reg.WHS_PERIOD != reg before Reg.WHS_PERIOD
  let ctrl := reg s Reg.SYN_VW_CTRL != reg before Reg.SYN_VW_CTRL
  let dvChange := dvOf s != s.vw.dv
  -- A picture that a stage stop of this Whistle ended has been abandoned too (R290).
  let s1 := if planChange || periodChange || ctrl || dvChange || viewOwner s != viewOwner before then
      (if s.vw.pic.isNone && before.vw.pic.isSome then event s Reg.SYN_VW_EVENTS 1 else abandonPic s) else s
  if s.fab.inForce && (planChange || periodChange || ctrl || dvChange) then
    let s2 := purgeStages s1 true
    { s2 with vw := { s2.vw with began := some w, dv := dvOf s2 } }
  else s1

/-- GEN becomes due at V − Dv, but not while the view huddle's owner is suspended or in the orderly stop; what is due then starts no more
(R272, R289). -/
def genDue (s : State) (w : Nat) : State :=
  let cadence := match s.vw.began with | some a => decide (a ≤ w) && (w - a) % max 1 s.vw.dv == 0 | none => false
  if viewSuspended s then
    { s with sch := { s.sch with hud := s.sch.hud.map (fun e => (e.1, { e.2 with romDue := e.2.romDue.filter (fun d => d.1 != 4) })) } }
  else if cadence && !viewsOff s && fld s Reg.SYN_VW_CTRL 0 0 == 1 && !orderlyStop s then
    romPush { s with vw := { s.vw with machine := s.cam.pose } } 4 (viewHud s) w (stageInst s (unitRead s (viewDesc s s.regs) 128) w)
  else s

/-- SYN_VW_STATUS (R294). -/
def viewStatus (s : State) : Nat :=
  let roms := s.sch.hud.flatMap (fun e => e.2.rom)
  let ups := s.sch.hud.any (fun e => e.2.ups.isSome || e.2.group.any (·.view))
  (s.vw.dv % 256) + b2n (shedStep s 1) * 2 ^ 8 + b2n (roms.any (fun j => j.kind == 4)) * 2 ^ 9 + b2n ups * 2 ^ 10
    + b2n (roms.any (fun j => j.kind == 5)) * 2 ^ 11 + ((s.vw.newest.map (·.slot)).getD 0) % 4 * 2 ^ 12 + (s.vw.pics % 65536) * 2 ^ 16

end Sys2Proof.Machine
end

