-- ==== Sys2Proof/Machine/Fab.lean ====
section
/-! DEFINITION. Loading and switching plans (R80–R84), the plans held in ROM (R86, R481), the green rule (R87), the huddle
register blocks (R74–R77) and the key record (R467, R468). -/

namespace Sys2Proof.Machine

/-! ## PENDING (R80–R82) -/

/-- The state of PENDING replaced. -/
def setPending (s : State) (pend : Nat) (hash : List Byte) (plan : Option Plan) : State :=
  { s with fab := { s.fab with pend := pend, pendHash := hash, pendPlan := plan } }

/-- A verification in progress ends ABANDONED (R80, R81). -/
def abandonLoad (s : State) : State :=
  match s.fab.loading with
  | none => s
  | some r => endCmd { s with fab := { s.fab with loading := none } } r codeABANDONED

/-- PLAN_LOAD at the commit; `lent` is the lent size it is checked against (R81, R82). (DEDUCED, assumption 46.) -/
def takePlanLoad (s : State) (lent : Nat) (r : CmdRef) (off size : Nat) : CmdResult :=
  if off % 256 ≠ 0 ∨ lent < off + size ∨ 33554432 < size then rejected s causeRANGE
  else if size = 0 then { state := s, code := codeEMPTY }
  else
    let s1 := setPending (abandonLoad s) 1 [] none
    { state := { s1 with fab := { s1.fab with loading := some r, loadOffset := off, loadSize := size } },
      code := codePENDING }

/-- PLAN_LOAD. (DESIGN CHOICE, assumption 9.) -/
def execPlanLoad (page : Fin 64) (entry : Fin 55) (offset size : Word) (s : State) : Out :=
  let r : CmdRef := ⟨page.val, entry.val⟩
  .next (settle r (takePlanLoad s (lentSize s) r offset.toNat size.toNat))

/-- PLAN_DISCARD at the commit: PENDING is EMPTY. -/
def takeDiscard (s : State) : CmdResult := { state := setPending (abandonLoad s) 0 [] none, code := codeOK }

/-- PLAN_DISCARD. -/
def execPlanDiscard (page : Fin 64) (entry : Fin 55) (s : State) : Out :=
  .next (settle ⟨page.val, entry.val⟩ (takeDiscard s))

/-- The address of the ACTIVE and the PENDING plan slot (R389), and of the template area (R370). -/
def activeSlot : Nat := 0xFF8000000
def pendingSlot : Nat := 0xFFA000000

/-- The verification of the staged plan ends: its bytes stand in PENDING, and the verdict of R85 and R553 is reported. The hash
is valid where the whole of the signed content was found; a poisoned line is written poisoned (R405). The FAILED completion entry keeps byte [15:8] at 0, as R428 lays it out.
(DEDUCED, assumption 140.) -/
def verificationEnd (s : State) : State :=
  match s.fab.loading with
  | none => s
  | some r =>
    let bad := linesOf s.fab.loadOffset s.fab.loadSize |>.filter (fun o => !(aperturePoison s o 64).isEmpty)
    let x := apertureTake s s.fab.loadOffset s.fab.loadSize
    let b := x.2
    let s0 := devWrite { x.1 with fab := { s.fab with loading := none } } pendingSlot b
    let s1 := devPoison s0 (bad.map (fun o => pendingSlot + (o - s.fab.loadOffset)))
    match planVerdict s b s.fab.loadSize with
    | none => let p := parsePlan b
              endCmd (setPending s1 2 p.hash (some p)) r codeOK
    | some c =>
      let h := if headerLost b s.fab.loadSize then [] else (parsePlan b).hash
      let s2 := setPending s1 3 h none
      endCmd { s2 with fab := { s2.fab with failCode := c } } r codeFAILED

/-- PLAN_VERIFICATION_END. -/
def execPlanVerificationEnd (s : State) : Out := .next (verificationEnd s)

/-! ## A plan takes force (R83, R84, R267, R270, R294, R319, R487) -/

/-- Huddle blocks are re-formed: HUD_JOB_* reads 0 unless the commit wrote it, HUD_GUARD of a pinned huddle reads 0, and a
huddle that the plan does not define has no registers. -/
def reformHuddles (s : State) (p : Plan) (written : Nat → Bool) : State :=
  { s with regs := s.regs.filter (fun e =>
      if e.1 < 0x30000 ∨ 0x3FF00 ≤ e.1 then true
      else
        let o := e.1 % 0x100
        match findHuddle p ((e.1 - 0x30000) / 0x100) with
        | none => false
        | some x => if o = 0x10 ∨ o = 0x14 ∨ o = 0x18 then written e.1 else if o = 0x1C then !x.pinned else true) }

/-- Routes take ENABLE and LEAD from the plan unless the commit wrote them; others read ENABLE 0 (R267). -/
def routeRegs (s : State) (p : Plan) (written : Nat → Bool) : State :=
  (List.range 16).foldl (fun s r =>
    let a := Reg.SYN_RT_CTRL r
    match p.routes.find? (fun x => x.route == r) with
    | some x => if written a then s else pokeF (pokeF s a 0 0 1) a 25 16 x.lead
    | none => pokeF s a 0 0 0) s

/-- A measurement register is extended with a digest (R487). -/
def extendMeas (s : State) (n : Nat) (d : List Byte) : State :=
  { s with sec := { s.sec with
      meas := setNth s.sec.meas n (sha384 ((s.sec.meas[n]?).getD [] ++ d)),
      extends_ := setNth s.sec.extends_ n ((s.sec.extends_[n]?).getD 0 + 1), pageDue := true } }

/-- The template area holds the templates of the plan (R370). -/
def storeTemplates (s : State) (p : Plan) : State :=
  (List.range p.templates.length).foldl (fun s i =>
    devWrite s (templateAddr p i) (((p.templates[i]?).map (·.2)).getD [])) s

/-- A pinned huddle of the plan whose squads fall short has lost its promise (R79). -/
def pinShort (s : State) : State :=
  (s.fab.plan.huddles.filter (fun h => h.pinned && !h.composite)).foldl (fun s h =>
    match (squadsOf h).find? (fun q => squadActive s q != 16) with
    | none => s
    | some q =>
      logEvent (setHud s h.id { hudOf s h.id with pinBroken := true }) 0x14 2 WARN (arg1 h.id ++ argN 2 (hudCores s h.id) ++ arg1 q)) s

/-- Every running up-scale entry is released and not resumed (R276). -/
def releaseUps (s : State) : State :=
  s.sch.hud.foldl (fun s e => if (hudOf s e.1).group.any (·.view) then releaseGroup s e.1 false else s) s

/-- A plan takes force from source `src`; `written` tells the words that the same commit accepted. The jobs that run go on
under the plan before (R84), but for an up-scale entry (R276). -/
def takeForce (s0 : State) (p : Plan) (src : Nat) (written : Nat → Bool) : State :=
  let s := releaseUps s0
  let running := s.sch.hud.any (fun e => !(runningJobs e.2).isEmpty)
  let left : Map HuddleRun := s.sch.hud.map (fun e => (e.1, { e.2 with
    list := {}, preempted := [], taken := none, takenUps := false, rerun := [], isRerun := false, romDue := [], ups := none }))
  let old := if running then s.sch.old ++ [(s.fab.plan, left, [])] else s.sch.old
  let s1 := { s with sch := { s.sch with hud := [], ctxs := [], old := old },
                     fab := { s.fab with plan := p, inForce := true, src := src },
                     frs := { s.frs with lines := [] } }
  let s2 := routeRegs (reformHuddles s1 p written) p written
  let s3 := if written Reg.WHS_PERIOD then s2 else poke s2 Reg.WHS_PERIOD (p.tickNs + p.tickFrac * 2 ^ 20)
  let s4 := if written Reg.SYN_VW_CTRL then s3
    else pokeF (pokeF (pokeF s3 Reg.SYN_VW_CTRL 0 0 0) Reg.SYN_VW_CTRL 15 8 0xFF) Reg.SYN_VW_CTRL 23 16 p.viewDiv
  pinShort (extendMeas (storeTemplates (ringReset s4) p) 1 p.hash)

/-- The contexts that a plan declares join (R83): none where one of them finds no share. -/
def declaredJoins (s : State) : List CtxRec → Option State
  | [] => some s
  | c :: r =>
    if (poolFree s.fab.plan s.sch.ctxs).length < c.share then none
    else declaredJoins (reshaped (joinCtx s c) c.huddle) r

/-- The open rows of the aperture are stale once the lent banks change (R430). -/
def staleRows (s before : State) : State :=
  if lentBanks s = lentBanks before then s
  else { s with hpt := { s.hpt with banks := s.hpt.banks.map (fun e =>
      (e.1, if e.2.aperture then { e.2 with stale := true } else e.2)) } }

/-- The PENDING slot as a PLAN_SWITCH acts on it: its state, failure code, hash and plan (R82). -/
structure PendSlot where
  code : Nat
  fail : Nat
  hash : List Byte
  plan : Option Plan

/-- The slot as it stands, and as it stood when the window closed. -/
def pendNow (s : State) : PendSlot := { code := s.fab.pend, fail := s.fab.failCode, hash := s.fab.pendHash, plan := s.fab.pendPlan }
def pendClosed (s : State) : PendSlot :=
  { code := s.com.pendAtClose, fail := s.com.failAtClose, hash := s.com.hashAtClose, plan := s.com.planAtClose }

/-- The cause for which a commit rejects PLAN_SWITCH, given the PENDING slot (R82, R481). -/
def switchCause (s : State) (q : PendSlot) (hash8 : Nat) : Option Nat :=
  if q.code = 3 ∧ q.fail = pfZERODIM then some causeZERO
  else if q.code ≠ 2 ∨ ofLE (q.hash.take 8) ≠ hash8 then some causePLAN
  else match q.plan with
    | none => some causePLAN
    | some p => if s.sec.bench && !p.benchEligible then some causePLAN else none

/-- The largest lead in force (R84); 0 under a plan without routes. (DESIGN CHOICE, assumption 130.) -/
def largestLead (s : State) : Nat := (s.fab.plan.routes.map (fun r => leadOf s s.regs r.route)).foldl max 0

/-- PLAN_SWITCH at the commit of Whistle w: every context leaves, the plan takes force, its contexts join, and lines up to
W + Lmax − 1 are held, `lmax` being the largest lead before the commit (R83, R84). (DEDUCED, assumption 28.) -/
def takeSwitch (s : State) (q : PendSlot) (hash8 : Nat) (written : Nat → Bool) (lmax w : Nat) : CmdResult :=
  match switchCause s q hash8, q.plan with
  | some c, _ => rejected s c
  | none, none => rejected s causePLAN
  | none, some p =>
    let s1 := s.sch.ctxs.foldl (fun s c => reshaped (leaveCtx s c.1) c.2.record.huddle) s
    let s2 := takeForce s1 p 1 written
    match declaredJoins s2 p.contexts with
    | none => rejected s causeGROUP
    | some s3 =>
      let s4 := trkSwitch (abandonCopies (setPending (abandonLoad s3) 0 [] none))
      let s5 := { s4 with mem := { s4.mem with bytes := Mem.copy s4.mem.bytes pendingSlot activeSlot 0x2000000 } }
      let s6 := { s5 with fab := { s5.fab with switches := (s5.fab.switches + 1) % 65536 },
                          frs := { s5.frs with holdBelow := max s5.frs.holdBelow (w + lmax) },
                          com := { s5.com with epochUp := true }, lys := { s5.lys with routesDue := true } }
      { state := staleRows s6 s, code := codeOK }

/-- The lines of epochs before the one in force are held from now on (R54). -/
def holdOlder (s : State) : State := { s with fab := { s.fab with holdAge := 0 } }

/-- Every context that became resident since `before` carries the epoch in force (R387). -/
def stampJoins (s : State) (ids : List Nat) : State := ids.foldl stampJoin s

/-- PLAN_SWITCH: the commit of the next Whistle holds this command alone. -/
def execPlanSwitch (page : Fin 64) (entry : Fin 55) (hash8 : BitVec 64) (s : State) : Out :=
  let w := s.clk.next
  let x := takeSwitch s (pendNow s) hash8.toNat (fun _ => false) (largestLead s) w
  let s1 := settle ⟨page.val, entry.val⟩ x
  .next (if x.code = codeOK then
      let s2 := viewApplied (leadsApplied (raiseEpoch s s1 false) s w) s w
      holdOlder (stampJoins s2 (s2.sch.ctxs.map (·.1)))
    else s1)

/-- What a CTX_JOIN or CTX_LEAVE alone in a commit brings when it applies: the epoch, and a picture whose view huddle's owner joined
or left is abandoned (R50, R276). -/
def contextApplied (before s : State) : State := viewApplied (raiseEpoch before s true) before before.clk.next

/-- CTX_JOIN: the commit of the next Whistle holds this command alone. -/
def execCtxJoin (page : Fin 64) (entry : Fin 55) (record : BitVec 256) (s : State) : Out :=
  let b := leBytes 32 record.toNat
  let x := takeJoin s [] b
  let s1 := settle ⟨page.val, entry.val⟩ x
  .next (if x.code = codeOK then stampJoin (contextApplied s s1) (parseCtx b).id else s1)

/-- CTX_LEAVE: the commit of the next Whistle holds this command alone; a release is a decision point of its huddle (R374). -/
def execCtxLeave (page : Fin 64) (entry : Fin 55) (id : BitVec 8) (s : State) : Out :=
  let s1 := settle ⟨page.val, entry.val⟩ (takeLeave s id.toNat)
  .next (match Map.get s.sch.ctxs id.toNat with
    | some x => chooseAfter s (contextApplied s s1) id.toNat x.record.huddle
    | none => s1)

/-! ## The plans held in ROM (R86, R481) -/

/-- A leaf of a built-in plan: a top-level, unpinned huddle. -/
def romLeaf (id first count engines sram : Nat) : Huddle :=
  { id := id, parent := 0xFF, composite := false, pinned := false, children := 0, split := 0, squadFirst := first,
    squadCount := count, engineMask := engines, tree := 0, tiling := 0, meSram := sram }

/-- The bank owners of both: 64 staging banks, four of the line ring, the rest free. -/
def romOwners : List Nat := List.replicate 64 0x100 ++ List.replicate 4 0x101 ++ List.replicate 188 0x103

/-- What both have in common: 2,400 Hz, and views at 60 Hz (R361). -/
def romPlan (bench : Bool) (hash : List Byte) (hs : List Huddle) : Plan :=
  { hash := hash, id := Config.builtinPlanId bench, version := Config.builtinPlanVersion bench, benchEligible := bench,
    tickNs := 416666, tickFrac := 683, minTick := 208333, maxTick := 833333, viewDiv := 40, huddles := hs, owners := romOwners }

/-- DEDUCED, assumption 49. -/
def kickoffPlan : Plan := romPlan false Config.kickoffHash [romLeaf 0 0 64 0xF 64, romLeaf 1 64 32 0 0]
def benchPlan : Plan := romPlan true Config.benchHash [romLeaf 0 0 256 0xFFFF 64]

/-! ## The green rule (R87) -/

/-- The rule runs: the strap reads high and an encoder edge fell within the last 240 ticks. -/
def greenRuns (s : State) (w : Nat) : Bool :=
  bit (reg s Reg.PWR_STRAP) 1 && (match s.cam.edgeTick with | some t => decide (w < t + 240) | none => false)

/-- The strips of a port that are on in tick w: those of its latest frame of tick w or earlier, none after 240 ticks without
one. -/
def greenOf (s : State) (p w : Nat) : Nat :=
  match Map.get s.cam.kick p with
  | none => 0
  | some k =>
    match k.green.find? (fun g => decide (g.1 ≤ w)) with
    | none => 0
    | some g => if w < g.1 + 240 then g.2 else 0

/-- At Whistle w the Kickoff plan writes the line of tick w − 1. -/
def greenLine (s : State) (w : Nat) : State :=
  if !kickoff s || w == 0 then s
  else
    let t := w - 1
    let on := greenRuns s t
    let words := (List.range 1024).map (fun c => if on && (greenOf s (c / 64) t).testBit (c % 64) then 1 else 0)
    let s1 := entryWrite (entryClear s (t + 40)) (t + 40) 0x40 (words.flatMap (leBytes 4))
    entryWrite s1 (t + 40) 0 (entryHeader (t + 40) (s.com.epoch % 65536) 1 0 t)

/-! ## Huddle register blocks (R74–R77) -/

/-- ENGINES, REDUCED and BANKS of a huddle, summed over its leaves and, for BANKS, over the huddles below it. -/
def hudEngines (s : State) (h : Nat) : Nat := sumN ((leavesOf s.fab.plan h).map (fun x => popcount 16 x.engineMask))
def hudReduced (s : State) (h : Nat) : Nat :=
  sumN ((leavesOf s.fab.plan h).map (fun x => ((squadsOf x).filter (fun q => decide (squadActive s q < 16))).length))
def hudBanks (s : State) (h : Nat) : Nat :=
  (s.fab.plan.owners.filter (fun o => (familyGo s.fab.plan 256 h).contains o)).length

/-- A job runs on a leaf. -/
def leafBusy (s : State) (leaf : Nat) : Bool :=
  (runningJobs (hudOf s (topOf s.fab.plan leaf))).any (fun j => j.huddle == leaf || isUnder s.fab.plan leaf j.huddle)

/-- No work of the latest Whistle is left for a leaf: nothing runs, and the lists and due jobs over it are used up. -/
def leafDone (s : State) (leaf : Nat) : Bool :=
  let top := topOf s.fab.plan leaf
  let r := hudOf s top
  !leafBusy s leaf && r.list.left == 0 && r.preempted.isEmpty && r.taken.isNone && r.rerun.isEmpty
    && !(r.romDue.any (fun d => isUnder s.fab.plan leaf d.2.1))
    && s.sch.ctxs.all (fun c => c.2.record.huddle != top || (c.2.preempted.isEmpty && c.2.list.left == 0))

/-- The lowest tag relative to the current epoch (R77). -/
def lowestTag (cur : Nat) (l : List Nat) : Nat :=
  l.foldl (fun a e => if (cur + 65536 - a) % 65536 < (cur + 65536 - e) % 65536 then e else a) (l.headD 0)

/-- A register of a huddle block that shows state; a huddle that the plan does not define reads zero. -/
def hudView (s : State) (a : Nat) : Option Nat :=
  if a < 0x30000 ∨ 0x3FF00 ≤ a then none
  else
    let h := (a - 0x30000) / 0x100
    let o := a % 0x100
    let p := s.fab.plan
    match (if s.fab.inForce then findHuddle p h else none) with
    | none => some 0
    | some x =>
      let ls := (leavesOf p h).map (·.id)
      if o = 0 then some (h + x.parent * 2 ^ 8 + b2n x.composite * 2 ^ 16 + b2n x.pinned * 2 ^ 17 + x.split * 2 ^ 22
        + depthGo p 255 h * 2 ^ 24)
      else if o = 4 then some (hudCores s h + hudEngines s h * 2 ^ 16 + min 255 (hudReduced s h) * 2 ^ 24)
      else if o = 8 then some (hudBanks s h + ((leavesOf p h).map (·.meSram)).foldl max 0 * 2 ^ 16)
      else if o = 0x20 then
        some (b2n (ls.any (leafBusy s)) + 2 * b2n (ls.all (leafDone s)) + 4 * b2n (ls.any (fun k => (hudOf s k).pinBroken))
          + lowestTag (s.com.epoch % 65536) (ls.map (fun k => (hudOf s k).epoch)) * 2 ^ 16)
      else if o = 0x24 then
        some ((familyGo p 256 h).foldl (fun a k => a ||| reg s (Reg.HUD_EVENTS k)) 0)
      else if o = 0x28 then some (sumN (ls.map (fun k => (hudOf s k).doneCount)) % 2 ^ 32)
      else none

/-- A W1C write of HUD_EVENTS clears the bits in the huddle and in every descendant (R77). (DEDUCED, assumption 47.) -/
def hudClear (s : State) (h v : Nat) : State :=
  (familyGo s.fab.plan 256 h).foldl (fun s k =>
    let a := Reg.HUD_EVENTS k
    poke s a (reg s a - (reg s a &&& v))) s

/-! ## Plan registers (R85, R468) and the key record (R467) -/

/-- Word n of a hash. -/
def hashWord (h : List Byte) (n : Nat) : Nat := fieldLE h (4 * n) 4

/-- A FAB register that shows state. -/
def fabView (s : State) (a : Nat) : Option Nat :=
  let f := s.fab
  if a = Reg.FAB_PLAN_STATUS then some (f.src + f.pend * 16 + f.failCode * 2 ^ 8 + (f.switches % 65536) * 2 ^ 16)
  else if a = Reg.FAB_PLAN_ID then some (if f.inForce then f.plan.id else 0)
  else if a = Reg.FAB_PLAN_VER then some (if f.inForce then f.plan.version else 0)
  else if 0x20010 ≤ a ∧ a < 0x20040 then some (if f.inForce then hashWord f.plan.hash ((a - 0x20010) / 4) else 0)
  else if 0x20040 ≤ a ∧ a < 0x20070 then some (hashWord f.pendHash ((a - 0x20040) / 4))
  else if a = Reg.FAB_HUDDLES then
    let hs := f.plan.huddles
    some (if f.inForce then hs.length + (hs.filter (fun h => h.parent == 0xFF)).length * 2 ^ 8
      + (hs.map (fun h => depthGo f.plan 255 h.id)).foldl max 0 * 2 ^ 16 else 0)
  else if a = Reg.FAB_LEND then some (lentBanks s).length
  else if a = Reg.FAB_DET_FW then some s.sec.fwVersion
  else hudView s a

/-- The key record but for SEQ and SEQ_TAIL. (DEDUCED, assumption 48.) -/
def keyRecord (s : State) : Mem :=
  let clk := reg s Reg.FAB_DET_CLK
  let m0 := Mem.write 0 [] 8 (slice s.fab.plan.hash 0 48)
  let m1 := Mem.write 0 m0 0x38 (leBytes 4 s.sec.fwVersion ++ leBytes 1 (bits clk 23 16) ++ [0] ++ leBytes 2 (bits clk 8 0))
  (sortBy (fun a b => decide (a.id ≤ b.id)) s.fab.plan.huddles).foldl (fun m h =>
    let qs := (leavesOf s.fab.plan h.id).flatMap squadsOf
    let map := ofPositions (qs.filter (fun q => squadActive s q == 15))
    let broken := (leavesOf s.fab.plan h.id).any (fun x => (hudOf s x.id).pinBroken)
    Mem.write 0 m (0x1000 + h.id * 0x40) (leBytes 32 map ++ leBytes 2 (hudCores s h.id) ++ leBytes 1 h.id
      ++ leBytes 1 (1 + 2 * b2n h.pinned + 4 * b2n broken))) m1

/-- The key record is published; a record that changed sets KEY_CHANGED. -/
def keyPublish (s : State) (w : Nat) : State :=
  if !s.fab.inForce then s
  else
    let k := keyRecord s
    let s1 := if k = s.fab.keyRecord then s else event { s with fab := { s.fab with keyRecord := k } } Reg.FAB_DET_EVENTS 0
    let base := statBase 2
    let m := Mem.clear s1.status base (base + 0x10000)
    let m1 := k.foldl (fun m e => Mem.set 0 m (base + e.1) e.2) m
    let m2 := Mem.write 0 (Mem.write 0 m1 base (leBytes 4 w)) (base + 0xFFC) (leBytes 4 w)
    { s1 with status := m2 }

end Sys2Proof.Machine
end

