-- ==== Sys2Proof/Machine/Security.lean ====
section
/-! DEFINITION. The boot flash and its boot record (R470, R471, R479), firmware images (R474, R475), the key store (R485), owner
keys (R484, R486), measurements and attestation (R487, R488, R494) and the SEC commands (R489–R492). -/

namespace Sys2Proof.Machine

/-! ## The flash (R470, R471) -/

/-- Bytes of the flash; one that did not answer the probe reads as erased. -/
def flashRead (s : State) (a n : Nat) : List Byte :=
  if s.sec.flashOn then Mem.read 0xFF s.sec.flash a n else List.replicate n 0xFF

/-- Bytes programmed into the flash. -/
def flashWrite (s : State) (a : Nat) (d : List Byte) : State :=
  if s.sec.flashOn then { s with sec := { s.sec with flash := Mem.write 0xFF s.sec.flash a d } } else s

/-- A range of the flash erased. -/
def flashErase (s : State) (a n : Nat) : State :=
  if s.sec.flashOn then { s with sec := { s.sec with flash := Mem.clear s.sec.flash a (a + n) } } else s

/-- The slots by TARGET: firmware A and B, plans P and F. -/
def slotAt (t : Nat) : Nat := if t = 0 then 0x40000 else if t = 1 then 0x440000 else if t = 2 then 0x1000000 else 0x3000000
def slotSize (t : Nat) : Nat := if t < 2 then 0x400000 else 0x2000000

/-- A slot whose first 4 bytes read 0xFFFF_FFFF is empty. -/
def slotEmpty (s : State) (t : Nat) : Bool := ofLE (flashRead s (slotAt t) 4) == 0xFFFFFFFF

/-! ## The key register (R472) -/

/-- An identity is in force. -/
def hasIdentity (s : State) : Bool := s.sec.root.isSome

/-- `n` bytes that HKDF-SHA-384 derives from the root secret: 0 for the DevID key pair, 1 and 2 for the other keys. -/
def derived_ (s : State) (i n : Nat) : List Byte :=
  match s.sec.root with
  | some r => hkdf384 Config.hkdfSalt (leBytes 32 r.toNat) (Config.hkdfInfo i) n
  | none => List.replicate n 0

/-- The DevID private scalar and public key, the key-wrapping key, and the boot-record key. -/
def devIdScalar (s : State) : Nat := 1 + Config.scalarOf (derived_ s 0 48) % (p384n - 1)
def devIdKey (s : State) : List Byte := ecPublic (devIdScalar s)
def wrapKey (s : State) : List Byte := derived_ s 1 32
def bootRecordKey (s : State) : List Byte := derived_ s 2 48

/-- The signature of the DevID key over a digest (R488). -/
def devIdSign (s : State) (digest : List Byte) : List Byte :=
  ecdsaSign (devIdScalar s) (1 + Config.signNonce digest % (p384n - 1)) digest

/-! ## The failed-start record (R479, R480, R527) -/

/-- The check of a boot-record entry over its first 8 bytes. -/
def recordCheck (s : State) (b : List Byte) : List Byte := (hmac384 (bootRecordKey s) b).take 8

/-- The boot-record entries whose check verifies: address and 16 bytes. -/
def bootEntries (s : State) : List (Nat × List Byte) :=
  ((List.range 512).map (fun i => (16 * i, flashRead s (16 * i) 16))).filter (fun e =>
    slice e.2 8 8 == recordCheck s (e.2.take 8))

/-- The entry in force: that of the highest SEQ. -/
def bootEntry (s : State) : Option (Nat × List Byte) :=
  (bootEntries s).foldl (fun a e => match a with
    | none => some e
    | some x => if fieldLE x.2 4 4 ≤ fieldLE e.2 4 4 then some e else a) none

/-- Address and SEQ of the entry that is written next. -/
def bootNext (s : State) : Nat × Nat :=
  match bootEntry s with
  | some e => ((e.1 + 16) % 8192, fieldLE e.2 4 4 + 1)
  | none => (0, 0)

/-- An entry is appended after the one in force; a full sector gives way to the other one, erased. Without an identity the boot
record is not used. (DEDUCED, assumption 98.) -/
def bootAppend (s : State) (failed reason : Nat) : State :=
  if !hasIdentity s then s
  else
    let b := leBytes 1 failed ++ leBytes 1 reason ++ [0, 0] ++ leBytes 4 (bootNext s).2
    let s1 := if (bootNext s).1 % 4096 == 0 then flashErase s (bootNext s).1 4096 else s
    flashWrite s1 (bootNext s).1 (b ++ recordCheck s b)

/-- FAILED and REASON are recorded: the persistent word, then the flash (R480). -/
def recordStart (s : State) (failed reason : Nat) : State :=
  bootAppend { s with log := { s.log with persist := persistWord failed reason },
                      sec := { s.sec with failed := failed, reason := reason } } failed reason

/-- FAILED and REASON as a start finds them: of the persistent word, else of the boot record, else none. -/
def recordFound (s : State) : Nat × Nat :=
  if persistValid s.log.persist then (bits s.log.persist 11 8, bits s.log.persist 7 0)
  else if !hasIdentity s then (0, 0)
  else match bootEntry s with
    | some e => (fieldLE e.2 0 1, fieldLE e.2 1 1)
    | none => (0, 0)

/-! ## Keys (R472, R485) -/

/-- DEVICE_ID: zero without an identity (R493). -/
def deviceId (s : State) : List Byte := if hasIdentity s then sha384 (devIdKey s) else List.replicate 48 0

/-- The first 8 bytes of the SHA-384 of a public key. -/
def keyId (key : List Byte) : List Byte := (sha384 key).take 8

/-- What the key store wraps: the owner's public key (zero where none is enrolled), OWNER_SEQ and FW_MIN, padded to a multiple of
8 bytes. (DEDUCED, assumption 99.) -/
def storeBytes (s : State) : List Byte :=
  slice s.sec.ownerKey 0 97 ++ List.replicate 7 0 ++ leBytes 4 s.sec.ownerSeq ++ leBytes 4 s.sec.fwMin

/-- A copy of the key store: its generation count, then the wrapped bytes. -/
def storeCopy (s : State) : List Byte := leBytes 4 s.sec.generation ++ keyWrap (wrapKey s) (storeBytes s)

/-- The two copies of the key store. -/
def storeA : Nat := 0x20000
def storeB : Nat := 0x28000

/-- A copy of the key store is erased and written. -/
def storePut (s : State) (a : Nat) : State := flashWrite (flashErase s a 0x8000) a (storeCopy s)

/-- The next generation of the key store. -/
def storeNext (s : State) : State := { s with sec := { s.sec with generation := s.sec.generation + 1 } }

/-- The key store is written, copy A first, with the next generation. -/
def storeWrite (s : State) : State := if !hasIdentity s then s else storePut (storePut (storeNext s) storeA) storeB

/-- Both copies read back as they were written (R490, R491). -/
def storeReadsBack (s : State) : Bool := [storeA, storeB].all (fun a => flashRead s a (storeCopy s).length == storeCopy s)

/-- A copy of the key store as read: generation and plain bytes. -/
def storeRead (s : State) (a : Nat) : Option (Nat × List Byte) :=
  (keyUnwrap (wrapKey s) (flashRead s (a + 4) 120)).map (fun p => (ofLE (flashRead s a 4), p))

/-- Both copies of a two-copy region are erased. -/
def copiesErased (s : State) (a : Nat) : Bool := (flashRead s a 0x10000).all (· == 0xFF)

/-- The key store at step 5: the copy of higher generation that unwraps; false where neither does, as where no key is there to unwrap
them. -/
def storeLoad (s : State) : State × Bool :=
  if copiesErased s storeA then (s, true)
  else if !hasIdentity s then (s, false)
  else
    let pick := match storeRead s storeA, storeRead s storeB with
      | some a, some b => some (if a.1 < b.1 then b else a)
      | some a, none => some a
      | none, b => b
    match pick with
    | none => (s, false)
    | some (g, p) =>
      let key := p.take 97
      ({ s with sec := { s.sec with generation := g, ownerKey := if allZero key then [] else key,
                                    ownerSeq := fieldLE p 104 4, fwMin := fieldLE p 108 4 } }, true)

/-! ## Firmware images (R474, R475) -/

def fwFORMAT : Nat := 0x11
def fwSIGNATURE : Nat := 0x12
def fwDEVICE : Nat := 0x13
def fwROLLBACK : Nat := 0x14

/-- The first check that an image of `size` bytes fails. -/
def fwCheck (s : State) (b : List Byte) (size : Nat) : Option Nat :=
  let total := fieldLE b 8 4
  let tail := slice b (total - 96) 96
  let signed (key : List Byte) : Bool :=
    !key.isEmpty && slice b 0x20 8 == keyId key && ecdsaVerify key (sha384 (b.take (total - 96))) tail
  if fieldLE b 0 4 ≠ 0x57464E5A ∨ fieldLE b 4 2 ≠ 1 ∨ fieldLE b 6 2 ≠ 0x100 ∨ total ≠ size ∨ total % 16 ≠ 0 ∨ 4194304 < total
      ∨ total < 352 ∨ 1 < fieldLE b 0xC 2 ∨ fieldLE b 0x10 4 = 0 ∨ fieldLE b 0xE 2 ≠ 0 ∨ fieldLE b 0x14 4 ≠ 0
      ∨ allZero (slice b 0x1B 5) = false ∨ allZero (slice b 0x28 0xD8) = false then some fwFORMAT
  else if (signed Config.tuirnoKey || signed s.sec.ownerKey) = false then some fwSIGNATURE
  else if fld s Reg.GEN_ID 23 20 < fieldLE b 0x18 1 ∨ bit (fieldLE b 0x19 1) (b2n s.gradeX) = false
      ∨ fld s Reg.FAB_DET_CLK 23 16 < fieldLE b 0x1A 1 then some fwDEVICE
  else if fieldLE b 0x10 4 < s.sec.fwMin then some fwROLLBACK
  else none

/-- The image in a firmware slot, by its own TOTAL_SIZE. -/
def slotImage (s : State) (t : Nat) : List Byte :=
  flashRead s (slotAt t) (min (slotSize t) (ofLE (flashRead s (slotAt t + 8) 4)))

/-! ## Measurements and the status page (R487, R494) -/

/-- The SEC status page. -/
def secPage (s : State) (seq : Nat) : State :=
  let base := statBase 15
  let s0 := { s with status := Mem.clear s.status base (base + 0x10000), sec := { s.sec with pageDue := false } }
  let cert := ofLE (flashRead s 0x30000 4)
  let len := if cert = 0xFFFFFFFF then 0 else cert
  let s1 := statWrite (stat4 s0 base seq) (base + 0x10) (s.sec.meas.flatMap id)
  let s2 := statWrite s1 (base + 0xD0) (s.sec.extends_.flatMap (leBytes 4))
  let s3 := if hasIdentity s then statWrite s2 (base + 0x100) (devIdKey s) else s2
  let s4 := stat4 s3 (base + 0x200) len
  let s5 := if len = 0 then s4 else statWrite s4 (base + 0x400) (flashRead s 0x30004 (min len 8192))
  stat4 s5 (base + 0x3FFC) seq

/-! ## SEC commands (R489–R492) -/

def opKEYENROL : Nat := 0x1001
def opFLASHUPDATE : Nat := 0x1002
def opATTEST : Nat := 0x1003
def opMEASURE : Nat := 0x1004
def opBOOTCLEAR : Nat := 0x1005

/-- The aperture range that a SEC command names. -/
def secRange (op : Nat) (b : List Byte) : Nat × Nat :=
  if op = opKEYENROL then (fieldLE b 0 4, fieldLE b 4 4)
  else if op = opFLASHUPDATE then (fieldLE b 4 4, fieldLE b 8 4)
  else if op = opATTEST then (fieldLE b 32 4, 480)
  else (0, 0)

/-- The report of ATTEST, with its signature (R488). -/
def attestReport (s : State) (nonce : List Byte) : List Byte :=
  let owner := s.sec.ownerKey
  let flags := b2n s.sec.bench + 2 * b2n (!owner.isEmpty) + 4 * b2n (s.sec.fwSlot == 2) + 8 * b2n (s.fab.src == 2)
  let body := leBytes 4 0x54535441 ++ leBytes 2 1 ++ leBytes 2 flags ++ leBytes 4 480 ++ leBytes 1 s.sec.failed
    ++ leBytes 1 s.sec.reason ++ [0, 0] ++ slice nonce 0 32 ++ deviceId s ++ leBytes 8 (tickNow s)
    ++ leBytes 8 (s.clk.inst / tuStep) ++ leBytes 4 s.sec.fwVersion ++ leBytes 1 (fld s Reg.FAB_DET_CLK 23 16)
    ++ leBytes 1 (b2n s.gradeX) ++ leBytes 1 (fld s Reg.GEN_ID 23 20) ++ [0] ++ leBytes 4 s.fab.plan.id
    ++ leBytes 4 s.fab.plan.version ++ slice s.fab.plan.hash 0 48
    ++ (if owner.isEmpty then List.replicate 8 0 else keyId owner) ++ leBytes 4 s.com.epoch ++ leBytes 4 0
    ++ s.sec.meas.flatMap id
  slice body 0 384 ++ devIdSign s (sha384 (slice body 0 384))

/-- The command at the head of the queue begins to run: it takes its aperture bytes, or the state that it reports (R488,
R490). (DEDUCED, assumption 101.) -/
def secBegin (s : State) : State :=
  match s.sec.queue with
  | [] => s
  | c :: rest =>
    if c.data.isSome then s
    else
      let x := if c.opcode = opATTEST then (s, attestReport s (slice c.bytes 0 32))
        else apertureTake s (secRange c.opcode c.bytes).1 (secRange c.opcode c.bytes).2
      { x.1 with sec := { s.sec with queue := { c with data := some x.2 } :: rest } }

/-- A SEC command at the commit; `lent` is the lent size it is checked against (R82, R489). -/
def takeSec (s : State) (lent : Nat) (r : CmdRef) (op : Nat) (b : List Byte) : CmdResult :=
  let x := secRange op b
  let target := fieldLE b 0 1
  if (x.2 ≠ 0 ∨ op = opKEYENROL ∨ op = opFLASHUPDATE) ∧ lent < x.1 + x.2 then rejected s causeRANGE
  else if x.1 % (if op = opFLASHUPDATE then 256 else 64) ≠ 0 then rejected s causeRANGE
  else if op = opKEYENROL ∧ x.2 ≠ 0 ∧ x.2 ≠ 360 then rejected s causeRANGE
  else if op = opFLASHUPDATE ∧ (3 < target ∨ slotSize target < x.2 ∨ x.2 % 16 ≠ 0) then rejected s causeRANGE
  else if op = opFLASHUPDATE ∧ target < 2 ∧ target = s.sec.fwSlot then rejected s causePLAN
  else if (op = opKEYENROL ∨ op = opFLASHUPDATE) ∧ x.2 = 0 then { state := poke s Reg.SEC_LAST op, code := codeEMPTY }
  else if 16 ≤ s.sec.queue.length then rejected s causeRANGE
  else
    { state := { s with sec := { s.sec with queue := s.sec.queue ++ [{ ref := r, opcode := op, bytes := b }] } },
      code := codePENDING }

/-- A SEC command alone: the state after its verdict, begun where it is the first. -/
def secAlone (s : State) (page : Fin 64) (entry : Fin 55) (op : Nat) (b : List Byte) : State :=
  let r : CmdRef := ⟨page.val, entry.val⟩
  secBegin (settle r (takeSec s (lentSize s) r op b))

/-- KEY_ENROL. -/
def execKeyEnrol (page : Fin 64) (entry : Fin 55) (offset size : Word) (s : State) : Out :=
  .next (secAlone s page entry opKEYENROL (leBytes 4 offset.toNat ++ leBytes 4 size.toNat))

/-- FLASH_UPDATE. -/
def execFlashUpdate (page : Fin 64) (entry : Fin 55) (target : Byte) (offset size : Word) (s : State) : Out :=
  .next (secAlone s page entry opFLASHUPDATE ([target, 0, 0, 0] ++ leBytes 4 offset.toNat ++ leBytes 4 size.toNat))

/-- ATTEST. -/
def execAttest (page : Fin 64) (entry : Fin 55) (nonce : BitVec 256) (offset : Word) (s : State) : Out :=
  .next (secAlone s page entry opATTEST (leBytes 32 nonce.toNat ++ leBytes 4 offset.toNat))

/-- MEASURE_EXTEND. -/
def execMeasureExtend (page : Fin 64) (entry : Fin 55) (digest : BitVec 384) (s : State) : Out :=
  .next (secAlone s page entry opMEASURE (leBytes 48 digest.toNat))

/-- BOOT_CLEAR. -/
def execBootClear (page : Fin 64) (entry : Fin 55) (s : State) : Out := .next (secAlone s page entry opBOOTCLEAR [])

/-! ### The end of a command -/

/-- What an enrolment record is refused for (R484, R491); a record that is not laid out as R484 has a code that the spec does not
state. (DEDUCED, assumption 100.) -/
def enrolCode (s : State) (b : List Byte) : Option Nat :=
  let flags := fieldLE b 6 2
  let release := bit flags 1
  let new := slice b 0x40 97
  let old := slice b 0x108 96
  let auth (key : List Byte) : Bool := ecdsaVerify key (sha384 (b.take 0x108)) old
  let newOk := if release then allZero new && allZero (slice b 0xA8 96)
    else ecdsaVerify new (sha384 (b.take 0xA8)) (slice b 0xA8 96)
  let oldOk := if s.sec.ownerKey.isEmpty then auth Config.tuirnoKey || (allZero old && bit s.pwr.straps 2)
    else auth s.sec.ownerKey
  if !hasIdentity s then some 0x43
  else if fieldLE b 0 4 ≠ 0x4B4E574F ∨ fieldLE b 4 2 ≠ 1 ∨ 3 < flags ∨ allZero (slice b 0x3C 4) = false
      ∨ allZero (slice b 0xA1 7) = false then some (1 + Config.unstated 8 flags % 255)
  else if slice b 8 48 ≠ deviceId s then some 0x40
  else if fieldLE b 0x38 4 ≤ s.sec.ownerSeq then some 0x41
  else if newOk = false ∨ oldOk = false then some 0x42
  else none

/-- The digest of the owner key that extends MEAS2: 48 zero bytes without an owner (R487). -/
def ownerDigest (s : State) : List Byte := if s.sec.ownerKey.isEmpty then List.replicate 48 0 else sha384 s.sec.ownerKey

/-- The owner that an enrolment record brings. -/
def enrolOwner (s : State) (b : List Byte) : State :=
  { s with sec := { s.sec with ownerKey := if bit (fieldLE b 6 2) 1 then [] else slice b 0x40 97, ownerSeq := fieldLE b 0x38 4 } }

/-- An enrolment that passes, its key store written (R486). -/
def enrol (s1 : State) (b : List Byte) : State :=
  let flags := fieldLE b 6 2
  let s2 := event (extendMeas s1 2 (ownerDigest s1)) Reg.SEC_EVENTS 0
  let s3 := logEvent s2 0x78 15 NOTE (arg1 flags ++ argN 4 s2.sec.ownerSeq)
  if s3.fab.pend = 1 ∨ s3.fab.pend = 2 then setPending (abandonLoad s3) 4 [] none else s3

/-- What verification makes of a staged image for a flash slot (R490). -/
def updateCode (s : State) (target : Nat) (b : List Byte) : Option Nat :=
  if target < 2 then fwCheck s b b.length else planVerdict s b b.length

/-- The state and code that a command ends with, given that the flash did what it was told; none is OK. -/
def secEffect (s : State) (c : SecCmd) (flashOk : Bool) : State × Option Nat :=
  let d := c.data.getD []
  if c.opcode = opKEYENROL then
    match enrolCode s d with
    | some k => (s, some k)
    | none =>
      let w := storeWrite (enrolOwner s d)
      if flashOk && storeReadsBack w then (enrol w d, none)
      else ({ s with sec := { s.sec with flash := w.sec.flash, generation := w.sec.generation } }, some 0x44)
  else if c.opcode = opFLASHUPDATE then
    let t := fieldLE c.bytes 0 1
    match updateCode s t d with
    | some k => (s, some k)
    | none =>
      let s1 := flashErase s (slotAt t) (slotSize t)
      let s2 := flashWrite s1 (slotAt t) d
      if flashOk && flashRead s2 (slotAt t) d.length == d then (event s2 Reg.SEC_EVENTS 1, none) else (s1, some 0x44)
  else if c.opcode = opATTEST then
    if hasIdentity s then (event (apertureWrite s (secRange c.opcode c.bytes).1 d) Reg.SEC_EVENTS 3, none) else (s, some 0x43)
  else if c.opcode = opMEASURE then (extendMeas s 3 (slice c.bytes 0 48), none)
  else (recordStart s 0 0, none)

/-- SEC_COMMAND_END: the running command ends, and the next begins (R490). -/
def secEnd (s : State) (flashOk : Bool) : State :=
  match s.sec.queue with
  | [] => s
  | c :: rest =>
    let x := secEffect { s with sec := { s.sec with queue := rest } } c flashOk
    let s1 := poke x.1 Reg.SEC_LAST (c.opcode + (x.2.getD 0) * 2 ^ 16)
    let s2 := match x.2 with
      | some _ => event s1 Reg.SEC_EVENTS 2
      | none => s1
    secBegin (endCmd s2 c.ref (if x.2.isSome then codeFAILED else codeOK))

/-- SEC_COMMAND_END. -/
def execSecCommandEnd (flashOk : Bool) (s : State) : Out := .next (secEnd s flashOk)

/-- Where a reset finds KEY_ENROL with the key store: untouched, copy A erased, A written, B erased, or both written. Which is left open.
(DESIGN CHOICE, assumption 161.) -/
def enrolCut (s : State) (b : List Byte) (k : Nat) : State :=
  let x := storeNext (enrolOwner s b)
  let erased (s : State) (a : Nat) : State := flashErase s a 0x8000
  let y := if k = 0 then s else if k = 1 then erased x storeA else if k = 2 then storePut x storeA
    else if k = 3 then erased (storePut x storeA) storeB else storePut (storePut x storeA) storeB
  { s with sec := { s.sec with flash := y.sec.flash } }

/-- A reset during FLASH_UPDATE leaves the slot that it rewrites empty; one during KEY_ENROL leaves the copies of the key store as far as
they were written; every queued command is lost (R492). -/
def secReset (s : State) : State :=
  let s1 := match s.sec.queue with
    | c :: _ =>
      let t := fieldLE c.bytes 0 1
      let d := c.data.getD []
      if c.opcode = opFLASHUPDATE ∧ (updateCode s t d).isNone then flashErase s (slotAt t) (slotSize t)
      else if c.opcode = opKEYENROL ∧ (enrolCode s d).isNone then drawFree (enrolCut s d (freeValue s % 5))
      else s
    | [] => s
  { s1 with sec := { s1.sec with queue := [] } }

/-! ## Registers (R493) -/

/-- A SEC register that shows state. -/
def secView (s : State) (a : Nat) : Option Nat :=
  let c := s.sec
  let id := if c.ownerKey.isEmpty then [] else keyId c.ownerKey
  if a = Reg.SEC_STATUS then
    some (b2n c.bench + 2 * b2n (!c.ownerKey.isEmpty) + 4 * b2n (hasIdentity s) + 8 * b2n c.startOk + 16 * b2n (bit s.pwr.straps 2)
      + c.fwSlot * 32 + 128 * b2n c.benchF + c.queue.length * 256)
  else if a = Reg.SEC_BOOT then some (c.reason % 256 + (c.failed % 16) * 2 ^ 8 + (c.fwErr % 256) * 2 ^ 16)
  else if a = Reg.SEC_FW_MIN then some c.fwMin
  else if a = Reg.SEC_OWNER_ID_LO then some (fieldLE id 0 4)
  else if a = Reg.SEC_OWNER_ID_HI then some (fieldLE id 4 4)
  else if a = Reg.SEC_OWNER_SEQ then some c.ownerSeq
  else if 0x140040 ≤ a ∧ a < 0x140070 then some (fieldLE (deviceId s) (a - 0x140040) 4)
  else none

end Sys2Proof.Machine
end

