-- ==== Sys2Proof/Machine/FixedPath.lean ====
section
/-! DEFINITION. The pictures of the fixed paths (R292), bench mode's status card (R482) and the Kickoff plan's mosaic (R86), and the
selection of the picture at a view start (R288, R349). -/

namespace Sys2Proof.Machine

/-- The view head's picture comes from a fixed path: the Kickoff plan's mosaic or bench mode's status card (R292). -/
def fixedView (s : State) : Bool := s.fab.inForce && (s.fab.src == 2 || s.sec.bench)

/-! ## The status card (R482) -/

/-- `n` hexadecimal digits of a number as character codes. -/
def hexCodes (n v : Nat) : List Nat :=
  ((List.range n).reverse).map (fun i => let d := v / 16 ^ i % 16
    if d < 10 then 48 + d else 55 + d)

/-- The name of a REASON code (R85, R491). -/
def reasonName (c : Nat) : String :=
  match c with
  | 0x00 => "NONE"
  | 0x01 => "FORMAT"
  | 0x02 => "SIGNATURE"
  | 0x03 => "DEVICE"
  | 0x04 => "TIMING"
  | 0x05 => "NEST"
  | 0x06 => "EMPTY"
  | 0x07 => "OVERLAP"
  | 0x08 => "PIN"
  | 0x09 => "NO_FALLBACK"
  | 0x0A => "SHARE"
  | 0x0B => "RING_SHORT"
  | 0x0C => "ROUTE"
  | 0x0D => "ZERO_DIM"
  | 0x11 => "FW_FORMAT"
  | 0x12 => "FW_SIGNATURE"
  | 0x13 => "FW_DEVICE"
  | 0x14 => "FW_ROLLBACK"
  | 0x20 => "PUF"
  | 0x21 => "KEY_STORE"
  | 0x22 => "FLASH"
  | 0x23 => "DDR_TRAIN"
  | 0x24 => "ME_CHECK"
  | 0x25 => "SQUAD_LOST"
  | 0x2F => "UNCONFIRMED"
  | _ => ""

/-- Parts of a text line of the card with the gaps between them. -/
def cardJoin (n : Nat) (parts : List (List Nat)) : List Nat :=
  (parts.zip (List.range parts.length)).flatMap (fun e => (if e.2 = 0 then [] else Config.cardGap n e.2) ++ e.1)

/-- The ten text lines of the card. Lines 3, 4 and 8 are spelled as the example of R482 prints them; what stands between the parts of
the others is left open, and their numbers are decimal. (DESIGN CHOICE, assumption 18.) -/
def cardLines (s : State) (v : Nat) : List (List Nat) :=
  [ cardJoin 1 [codesOf "ZN-816", codesOf (if s.gradeX then "X" else "I"), Config.steppingText (fld s Reg.GEN_ID 23 20)],
    cardJoin 2 [codesOf "DEVICE", ((deviceId s).take 8).flatMap (fun b => hexCodes 2 b.toNat)],
    codesOf "REASON 0x" ++ hexCodes 2 s.sec.reason ++ codesOf " " ++ codesOf (reasonName s.sec.reason),
    codesOf "FAILED " ++ digits s.sec.failed,
    cardJoin 5 [codesOf "FW", codesOf "built-in", digits s.sec.fwMin],
    cardJoin 6 [codesOf "PLAN", codesOf (if s.sec.benchF then "slot F" else "bench"), digits s.fab.plan.id, digits s.fab.plan.version],
    cardJoin 7 [codesOf "OWNER", if s.sec.ownerKey.isEmpty then codesOf "NONE"
      else (keyId s.sec.ownerKey).flatMap (fun b => hexCodes 2 b.toNat)],
    codesOf "MXE FAIL_MASK 0x" ++ hexCodes 4 s.slv.engineFail,
    cardJoin 9 [codesOf "SLV FAILED", digits s.slv.checkFailed, codesOf "LOST", digits (s.slv.squads.filter (fun q => q.2.lost)).length],
    cardJoin 10 [[], digits v] ]

/-! ## The Kickoff plan's mosaic (R86) -/

/-- What the tiles show: the latest complete frame of each port that has signal. -/
def mosaicTiles (s : State) : List (Option KickPic) :=
  (List.range 16).map (fun p => if (camPort s p).noSignal then none else (Map.get s.cam.kick p).bind (fun k => k.last))

/-! ## The pictures (R287, R292) -/

/-- The picture of a fixed path for view start V: 1920 × 1080 XRGB8888 (R361), drawn anew for every picture. -/
def fixedPic (s : State) (v : Nat) : PicInfo :=
  let d : FixedPic := if s.sec.bench then .card (cardLines s v) else .mosaic (mosaicTiles s)
  let crc := crcRows ((List.range 1080).map (fixedRow d))
  { slot := 3, addr := 0, seq := (s.vw.fixed + 1) % 2 ^ 32, start := v, epoch := s.com.epoch % 65536, crc := crc, width := 1920,
    height := 1080, stride := 7680, format := 2, drawn := some d,
    static := match s.vw.shown with | some i => i.slot == 3 && i.crc == crc | none => false }

/-- The header of a fixed path's picture, whose MODE reads KICKOFF or CARD (R287, R292); it has no tiles. (DESIGN CHOICE, assumption
120.) -/
def fixedHeader (s : State) (i : PicInfo) : List Byte :=
  leBytes 4 i.seq ++ [if s.sec.bench then 3 else 2, 0] ++ leBytes 2 (16 * b2n i.static) ++ leBytes 8 i.start ++ leBytes 2 i.epoch
    ++ leBytes 1 s.vw.dv ++ leBytes 1 i.format ++ leBytes 2 i.width ++ leBytes 2 i.height ++ leBytes 4 i.stride ++ leBytes 4 i.crc
    ++ List.replicate 988 0 ++ leBytes 4 i.seq

/-! ## The selection at a view start (R288, R349) -/

/-- A slot reads whole with the view start V (R288). -/
def slotReads (s : State) (i : PicInfo) (v : Nat) : Bool :=
  let b := unitRead s i.addr 1024
  fieldLE b 0 4 == fieldLE b 0x3FC 4 && fieldLE b 0 4 != 0xFFFFFFFF && fieldLE b 8 8 == v

/-- The view head reads the newest slot's header: zero bytes outside, and reported, as is a poisoned line, which reads as no picture
(R405, R547). (DEDUCED, assumption 156.) -/
def slotLooked (s : State) (i : PicInfo) : State × Bool :=
  match (linesOf i.addr 1024).find? (fun l => s.mem.poison.contains l) with
  | some l => (memUncorr s l 62, false)
  | none => (if rangeOk s i.addr 1024 false then s else protect s, true)

/-- The picture selected at view start V (R288, R349). -/
def viewSelect (s0 : State) (v : Nat) : State :=
  let x := match s0.vw.newest with
    | some i => if fixedView s0 || i.start != v then (s0, true) else slotLooked s0 i
    | none => (s0, true)
  let s := x.1
  if fixedView s then
    let i := fixedPic s v
    { s with vw := { s.vw with shown := some i, repeated := false, fixed := i.seq, fixedHdr := fixedHeader s i } }
  else
    match s.vw.newest.filter (fun i => i.start == v && x.2 && slotReads s i v) with
    | some i => { s with vw := { s.vw with shown := some i, repeated := false } }
    | none =>
      countReg (event { s with vw := { s.vw with repeated := true } } Reg.SYN_VW_EVENTS 0) Reg.SYN_VW_REPEATS 1

/-- The view pipeline at Whistle w, once the motion model has published: the settlement of the up-scale, the stages that are
due, and at a view start the selection. (DEDUCED, assumption 82.) -/
def viewWhistle (s : State) (w : Nat) : State :=
  let s1 := settleUps s w
  let s2 := match s1.vw.pic.filter (fun _ => !orderlyStop s1) with
    | some p => pushSlice s1 p w (ifld s1 p.image Reg.SYN_VW_CTRL 15 8)
    | none => s1
  let s3 := genDue s2 w
  if isViewStart s3 w then viewSelect s3 w else s3

end Sys2Proof.Machine
end

