-- ==== Sys2Proof/Machine/VRaster.lean ====
section
/-! DEFINITION. The view head (chapter 13): the commit checks on display timing, values that take force at a frame start, the frames of
the DisplayPort output and of the LVDS clone, underruns, read-back CRCs, link training, hot plug, the shedding blank, and the pads. -/

namespace Sys2Proof.Machine

/-! ## Checks (R347) -/

/-- Bits per second of a lane rate. -/
def laneRate (rate : Nat) : Nat :=
  if rate = 0 then 1620000000 else if rate = 1 then 2700000000 else if rate = 2 then 5400000000 else 8100000000

/-- The bandwidth condition of R347. -/
def bandwidthOk (pclk lanes rate : Nat) (ssc : Bool) : Bool :=
  decide (pclk * 24 * 1000 ≤ 2 ^ lanes * laneRate rate * (if ssc then 780 else 784))

/-- The lock conditions of R347 for one view period: VTOTAL_MIN and a trim within ±200 ppm. -/
def lockOk (v : VTiming) (dv per : Nat) : Bool :=
  let n := v.vtotal dv per
  let a := n * v.htotal * 1000000000 * tuNs
  let b := dv * per * v.pclk
  decide (v.vtotalMin ≤ n) && decide (a * 10000 ≤ b * 10002) && decide (b * 9998 ≤ a * 10000)

/-- R347 on a register image that would be in force: every condition of each enabled output holds. With DIV = 0 no view starts but under the
30 Hz step (R46, R271), and its Dv alone is checked. -/
def displayOk (s : State) (img : Map Word) : Bool :=
  let ctrl := ireg s img Reg.VRS_CTRL
  let link := ireg s img Reg.VRS_LINK
  let per := periodTu (ireg s img Reg.WHS_PERIOD)
  let div := ifld s img Reg.SYN_VW_CTRL 23 16
  let slow := ifld s img Reg.VRS_STATIC 12 8
  let lvc := ireg s img Reg.VRS_LV_CTRL
  let v := timingOf s img false
  let l := timingOf s img true
  let dvs := (if div = 0 then [] else [(div, bits lvc 5 2)]) ++ [(max div (d30 per), min 1 (bits lvc 5 2))]
  let dp := !bit ctrl 0 ||
    (bandwidthOk v.pclk (bits link 3 2) (bits link 1 0) (bit ctrl 3) && dvs.all (fun e =>
      if bit ctrl 2 then
        decide ((v.vtotalMin + 1) * v.htotal * 1000000000 * tuNs ≤ e.1 * per * v.pclk)
          && decide (e.1 * slow * per * v.pclk ≤ 1048575 * v.htotal * 1000000000 * tuNs)
      else lockOk v e.1 per))
  let size := if bit lvc 0 then l.hact * 2 == v.hact && l.vact * 2 == v.vact else l.hact == v.hact && l.vact == v.vact
  let lv := !bit ctrl 1 || (size && dvs.all (fun e => e.2 == 0 || lockOk l (e.1 * e.2) per))
  dp && lv

/-! ## Values in force (R351) -/

/-- Registers whose values an output takes up at a frame start. -/
def vrsAddrs : List Nat := (upTo 0 10).map (fun i => 0xF0000 + 4 * i) ++ (upTo 16 22).map (fun i => 0xF0000 + 4 * i)

/-- The committed values, as an output takes them into force. -/
def vrsImage (s : State) : Map Word := s.regs.filter (fun e => decide (0xF0000 ≤ e.1) && decide (e.1 < 0xF0080))

/-- A word with the fields of the DisplayPort output alone: LVDS_EN is the clone's. -/
def dpFields (a w : Nat) : Nat := if a = Reg.VRS_CTRL then setBits w 1 1 0 else w

/-- A DisplayPort value is pending. -/
def vrsPending (s : State) : Bool :=
  ((upTo 0 10).map (fun i => 0xF0000 + 4 * i)).any (fun a => dpFields a (reg s a) != dpFields a (ireg s s.vrs.dp a))

/-- The value that a read of a VRS register returns: for each output the one in force (R351). -/
def vrsRead (s : State) (a : Nat) : Nat :=
  if a = Reg.VRS_CTRL then setBits (ireg s s.vrs.dp a) 1 1 (ifld s s.vrs.lv a 1 1)
  else if a < 0xF0040 then ireg s s.vrs.dp a
  else ireg s s.vrs.lv a

/-! ## Frame starts (R343–R345, R350–R353) -/

/-- The picture does not fit the output's active area (R350). -/
def misfits (i : Option PicInfo) (v : VTiming) (double : Bool) : Bool :=
  let k := if double then 2 else 1
  match i with
  | some i => i.width != k * v.hact || i.height != k * v.vact
  | none => false

/-- The DisplayPort output sends video. -/
def dpVideo (s : State) : Bool := bit (dpReg s Reg.VRS_CTRL) 0 && s.vrs.up && !s.vrs.training && !s.vrs.blanked

/-- The DisplayPort output stops sending video; a frame that has been compared keeps its record to be written. -/
def stopVideo (s : State) : State :=
  let done (f : Option ViewFrame) : Option ViewFrame := f.filter (fun f => f.stage == 2)
  tolChanged { s with vrs := { s.vrs with frame := none, prev := match done s.vrs.prev with | some f => some f | none => done s.vrs.frame } }

/-- MSA_TIMING_PAR_IGNORE_EN is written to a sink as ADAPTIVE in force says (R341). -/
def writeMsa (s : State) : State :=
  { s with vrs := { s.vrs with msaIgnore := if s.vrs.hpd then bit (dpReg s Reg.VRS_CTRL) 2 else s.vrs.msaIgnore } }

/-- Link training starts: the idle pattern replaces video (R352). -/
def startTraining (s : State) : State :=
  if s.vrs.hpd && bit (dpReg s Reg.VRS_CTRL) 0 && !s.vrs.blanked then
    stopVideo (writeMsa { s with vrs := { s.vrs with training := true, up := false, d3 := false } })
  else s

/-- A change of DP_EN, RATE, LANES or SSC that took force retrains the link, or stops the output (R352, R360). -/
def linkApplied (s : State) (old : Map Word) : State :=
  let key (img : Map Word) : Nat := ireg s img Reg.VRS_CTRL % 2 + bits (ireg s img Reg.VRS_CTRL) 3 3 * 2
    + bits (ireg s img Reg.VRS_LINK) 3 0 * 4
  if key old = key s.vrs.dp then s
  else if bit (dpReg s Reg.VRS_CTRL) 0 then startTraining s
  else stopVideo { s with vrs := { s.vrs with training := false, up := false } }

/-- The lines of a DisplayPort frame (R343): with ADAPTIVE those up to the frame start that the view start due, or else the next one,
brings (R344). (DEDUCED, assumption 87.) -/
def frameLines (s : State) (f : ViewFrame) : Nat :=
  let t := frameTiming s false f
  if adaptiveFrame s f then
    match (match s.vrs.dpDue with | some d => some d.2 | none => nextView s 1) with
    | some v => t.lineFrom (v + 1000 * tuNs - f.base) - f.line0
    | none => f.lines
  else if f.lines = 0 then t.vtotal s.vw.dv (period s) else f.lines

/-- The lines of the present DisplayPort frame as they now stand: VRS_VTOTAL, and its record where that is written (R363, R364). -/
def setLines (s : State) : State :=
  match s.vrs.frame with
  | none => s
  | some f =>
    let n := frameLines s f
    let s1 := poke { s with vrs := { s.vrs with frame := some { f with lines := n } } } Reg.VRS_VTOTAL n
    if f.stage = 3 then stat4 s1 (statBase 10 + 0x10) n else s1

/-- The frame start of a DisplayPort frame on its line grid: the pending values take force and, where the output sends video, the frame
begins and its first four lines are fetched. A new timing begins a new grid (R343, R344, R349–R351, R353, R354). -/
def dpFrame (s : State) (v start : Nat) (grid : Nat × Nat) : State :=
  let old := s.vrs.dp
  let s1 := writeMsa (linkApplied { s with vrs := { s.vrs with dp := vrsImage s, passed := 0 } } old)
  if !dpVideo s1 then s1
  else
    let t := timingOf s1 s1.vrs.dp false
    let g := if timingOf s1 old false = t then grid else (start, 0)
    let adaptive := bit (dpReg s1 Reg.VRS_CTRL) 2
    let quiet := s1.vw.repeated || (match s1.vw.shown with | some i => i.static | none => false)
    let run := if quiet then min 65535 (s1.vrs.run + 1) else 0
    let st := dpReg s1 Reg.VRS_STATIC
    let n := bits st 7 0
    let slowNow := s1.vrs.slow && quiet && adaptive
    let slow := adaptive && n != 0 && bits st 12 8 != 0 && (slowNow || decide (n ≤ run)) && quiet
    let f0 : ViewFrame := { view := v, base := g.1, line0 := g.2, img := s1.vrs.dp, pic := s1.vw.shown, again := s1.vw.repeated,
                            misfit := misfits s1.vw.shown t false, slow := slowNow }
    let x := fetchLines s1 false f0 4
    let f := x.2
    let s2 := if f.misfit then event x.1 Reg.VRS_EVENTS 6 else x.1
    let prev := match s2.vrs.frame.filter (fun f => f.stage == 1 || f.stage == 2) with
      | some f => some f
      | none => s2.vrs.prev
    tolChanged (setLines { s2 with vrs := { s2.vrs with frame := some f, prev := prev, run := run, slow := slow } })

/-- VIEW_FRAME_START: the DisplayPort output starts a frame for the latest view start, unless slow mode stretches the porch
through it (R343, R344, R353). (DEDUCED, assumption 87.) -/
def viewFrameStart (s : State) : State :=
  match s.vrs.dpDue with
  | none => s
  | some (v, inst) =>
    let start := dpStartInst s inst
    let s0 := advance s start
    let s1 := { s0 with vrs := { s0.vrs with dpDue := none } }
    let quiet := s1.vw.repeated || (match s1.vw.shown with | some i => i.static | none => false)
    let wait := s1.vrs.slow && bit (dpReg s1 Reg.VRS_CTRL) 2 && quiet && s1.vrs.frame.isSome
      && decide (s1.vrs.passed + 1 < bits (dpReg s1 Reg.VRS_STATIC) 12 8)
    if wait then
      tolChanged (setLines { s1 with vrs := { s1.vrs with passed := s1.vrs.passed + 1 } })
    else dpFrame s1 v start (dpGrid s0 inst)

/-- VIEW_FRAME_START. -/
def execViewFrameStart (s : State) : Out := .next (viewFrameStart s)

/-- CLONE_FRAME_START: the clone starts a frame at V + 1,000 ns; its pending values take force (R345, R351). -/
def cloneFrameStart (s : State) : State :=
  match s.vrs.lvDue with
  | none => s
  | some (v, inst) =>
    let s0 := advance s (inst + 1000 * tuNs)
    let s1 := { s0 with vrs := { s0.vrs with lvDue := none, lv := vrsImage s0 } }
    let c := lvReg s1 Reg.VRS_LV_CTRL
    let div := bits c 5 2
    if !bit (lvReg s1 Reg.VRS_CTRL) 1 || div == 0 then
      tolChanged { s1 with vrs := { s1.vrs with clone := none, clonePrev := none } }
    else
      let t := timingOf s1 s1.vrs.lv true
      let k := if shedStep s1 1 then 1 else div
      let lines := t.vtotal (k * s1.vw.dv) (period s1)
      let f0 : ViewFrame := { view := v, base := inst + 1000 * tuNs, img := s1.vrs.lv, pic := s1.vw.shown, again := s1.vw.repeated,
                              misfit := misfits s1.vw.shown t (bit c 0), lines := lines }
      let x := fetchLines s1 true f0 4
      let prev := match x.1.vrs.clone.filter (fun f => f.stage == 0) with
        | some f => some f
        | none => x.1.vrs.clonePrev
      tolChanged (poke { x.1 with vrs := { x.1.vrs with clone := some x.2, clonePrev := prev } } Reg.VRS_LV_VTOTAL lines)

/-- CLONE_FRAME_START. -/
def execCloneFrameStart (s : State) : Out := .next (cloneFrameStart s)

/-- The clone starts a frame at view start w (R345); a value that would let it start again counts while it is stopped. -/
def cloneStarts (s : State) (w : Nat) : Bool :=
  let inForce := bits (lvReg s Reg.VRS_LV_CTRL) 5 2
  let stopped := inForce == 0 || !bit (lvReg s Reg.VRS_CTRL) 1
  let d := if stopped then fld s Reg.VRS_LV_CTRL 5 2 else inForce
  let k := if d = 0 then 0 else if shedStep s 1 then 1 else d
  match s.vw.began with
  | some a => k != 0 && ((w - a) / max 1 s.vw.dv) % k == 0
  | none => false

/-- At a Whistle: at a view start the frame starts of both outputs become due; the lines of the present frame, and the tolerances, follow the
view start that comes next. -/
def vrsWhistle (s : State) (w : Nat) : State :=
  let s1 := if isViewStart s w && !orderlyStop s then
      { s with vrs := { s.vrs with dpDue := some (w, s.clk.inst),
                                   lvDue := if cloneStarts s w then some (w, s.clk.inst) else none } }
    else s
  if s1.vrs.frame.isNone && s1.vrs.clone.isNone then s1 else tolChanged (setLines s1)

/-! ## Underrun (R356) -/

/-- VIEW_UNDERRUN: an active pixel is due and not in the line buffer: the rest of the line is abandoned, and the fetch of the next line
starts at once. (DEDUCED, assumption 91.) -/
def viewUnderrun (s : State) (clone : Bool) (line px : Nat) : State :=
  match outFrame s clone with
  | none => s
  | some f0 =>
    let t := frameTiming s clone f0
    let s1 := advance s (activeInst t f0 line + t.pixelsTu px)
    match outFrame s1 clone with
    | none => s
    | some f =>
      if f.stage != 0 || f.misfit || decide (line < f.sent) || decide (t.vact ≤ line) || decide (t.hact ≤ px) || Map.has f.bad line then s
      else
        match f.pic with
        | none => s
        | some i =>
          let n := px * packBytes i.format * (if halves s clone f then 2 else 1)
          let kept := (Map.getD f.buf line []).map (fun r => r.take n)
          let x := lostLine s1 clone { f with buf := Map.set [] line kept, next := line + 1 } line px
          let y := fetchLines x.1 clone x.2 (line + 5)
          tolChanged (setOutFrame y.1 clone (some y.2))

/-- VIEW_UNDERRUN. -/
def execViewUnderrun (clone : Bool) (line pixel : BitVec 12) (s : State) : Out :=
  .next (viewUnderrun s clone line.toNat pixel.toNat)

/-! ## The end of a frame and read-back (R357, R358, R364) -/

/-- VIEW_SOB: the last active line has ended (R355, R358). -/
def viewSob (s : State) : State :=
  match s.vrs.frame with
  | none => s
  | some f =>
    if f.stage != 0 then s
    else
      let t := frameTiming s false f
      let s1 := advance s (activeInst t f t.vact)
      let ended := s1.vrs.frame.map (fun f => { f with stage := 1 })
      tolChanged (event { s1 with vrs := { s1.vrs with frame := ended } } Reg.VRS_EVENTS 0)

/-- VIEW_SOB. -/
def execViewSob (s : State) : Out := .next (viewSob s)

/-- The frame of an output that has come to a stage, the older one first, with whether it is the older one. -/
def frameAt (s : State) (clone : Bool) (stage : Nat) : Option (Bool × ViewFrame) :=
  match (if clone then s.vrs.clonePrev else s.vrs.prev).filter (fun f => f.stage == stage) with
  | some f => some (true, f)
  | none => ((outFrame s clone).filter (fun f => f.stage == stage)).map (fun f => (false, f))

/-- A frame goes on to its next stage; an older one of the clone goes with its read-back, one of DisplayPort with its record. -/
def setFrameAt (s : State) (clone older : Bool) (f : ViewFrame) : State :=
  if !older then setOutFrame s clone (some f)
  else if clone then { s with vrs := { s.vrs with clonePrev := none } }
  else { s with vrs := { s.vrs with prev := if f.stage = 3 then none else some f } }

/-- EXP and FETCH of a frame whose lines have been sent (R357). -/
def ViewFrame.expCrc (f : ViewFrame) : Nat := f.exp ^^^ 0xFFFFFFFF
def ViewFrame.fetchCrc (f : ViewFrame) : Nat := f.fetch ^^^ 0xFFFFFFFF

/-- FRAME_DONE: the CRCs of an output's frame are compared; `act` is what the read-back receiver recovered (R357). -/
def frameDone (s : State) (clone : Bool) (act : Nat) : State :=
  let stage := if clone then 0 else 1
  match (frameAt s clone stage).bind (fun x =>
      let t := frameTiming s clone x.2
      let s1 := advance s (activeInst t x.2 (t.vact + 2))
      (frameAt s1 clone stage).map (fun y => (s1, y))) with
  | none => s
  | some (s0, older, f0) =>
    let y := sendLines s0 clone f0 (frameTiming s clone f0).vact
    let s1 := y.1
    let f := y.2
    let ex := f.expCrc
    let fe := f.fetchCrc
    let skip := !f.bad.isEmpty || f.misfit || f.pic.isNone || halves s clone f
    let miss := !skip && fe != ((f.pic.map (·.crc)).getD fe)
    let bad := ex != act
    let was := if clone then s.vrs.lvBad else s.vrs.dpBad
    let s2 := poke (poke s1 (if clone then Reg.VRS_LV_CRC_EXP else Reg.VRS_CRC_EXP) ex)
      (if clone then Reg.VRS_LV_CRC_ACT else Reg.VRS_CRC_ACT) act
    let s3 := if miss && !clone then event s2 Reg.VRS_EVENTS 5 else s2
    let s4 := if bad then event s3 Reg.VRS_EVENTS (if clone then 11 else 4) else s3
    let s5 := if bad && !was then logEvent s4 0x59 10 WARN (arg1 (b2n clone) ++ argN 4 f.view) else s4
    let s6 := if clone then s5 else event s5 Reg.VRS_EVENTS 2
    let flags := b2n f.again + 2 * b2n f.misfit + 4 * b2n f.slow + 8 * b2n skip + 16 * b2n miss + 32 * b2n bad
    let s7 := setFrameAt s6 clone older { f with stage := 2, flags := flags, crcs := [fe, ex, act] }
    tolChanged { s7 with vrs := if clone then { s7.vrs with lvBad := bad } else { s7.vrs with dpBad := bad } }

/-- FRAME_DONE. -/
def execFrameDone (clone : Bool) (act : BitVec 32) (s : State) : Out := .next (frameDone s clone act.toNat)

/-- The frame record (R364). -/
def frameRecordBytes (f : ViewFrame) : List Byte :=
  leBytes 8 f.view ++ leBytes 4 (if f.misfit then 0xFFFFFFFF else (f.pic.map (·.seq)).getD 0xFFFFFFFF)
    ++ leBytes 2 ((f.pic.map (·.epoch)).getD 0) ++ leBytes 2 f.flags ++ leBytes 4 f.lines ++ leBytes 4 f.bad.length
    ++ f.crcs.flatMap (leBytes 4)

/-- FRAME_RECORD: the record of the latest DisplayPort frame, 1,000 ns after FRAME_DONE (R358, R364). -/
def frameRecord (s : State) : State :=
  match frameAt s false 2 with
  | none => s
  | some (older, f) =>
    let t := frameTiming s false f
    let s1 := advance s (activeInst t f (t.vact + 2) + 1000 * tuNs)
    setFrameAt (statWrite s1 (statBase 10) (frameRecordBytes f)) false older { f with stage := 3 }

/-- FRAME_RECORD. -/
def execFrameRecord (s : State) : Out := .next (frameRecord s)

/-! ## Link and hot plug (R352, R359) -/

/-- TPS of equalisation: TPS4 at HBR3, else the highest that the sink's DPCD names as supported. (PRESUMED, assumption 133.) -/
def eqPattern (s : State) (rate : Nat) : Nat :=
  if rate = 3 ∨ fld s (Reg.VRS_DPCD 0) 31 31 = 1 then 4 else if fld s (Reg.VRS_DPCD 0) 22 22 = 1 then 3 else 2

/-- A rate trains: clock recovery and equalisation each succeed within 5 iterations (R341). -/
def trains (recovery equalisation rate : Nat) : Bool :=
  let within (w : Nat) : Bool := let k := w / 16 ^ rate % 16; decide (1 ≤ k) && decide (k ≤ 5)
  within recovery && within equalisation

/-- LINK_TRAINING_END: the requested rate, or with FALLBACK the first lower one that trains and carries the video, is taken (R352).
(DEDUCED, assumption 90.) -/
def linkTrainingEnd (s : State) (recovery equalisation : Nat) : State :=
  if !s.vrs.training then s
  else
    let link := dpReg s Reg.VRS_LINK
    let ctrl := dpReg s Reg.VRS_CTRL
    let want := bits link 1 0
    let lanes := bits link 3 2
    let pclk := dpReg s Reg.VRS_PCLK
    let lower := ((List.range want).reverse).filter (fun r => bandwidthOk pclk lanes r (bit ctrl 3))
    let tries := want :: (if bit link 4 then lower else [])
    match tries.find? (trains recovery equalisation) with
    | some r => { s with vrs := { s.vrs with training := false, up := true, rate := r, lanes := lanes, tps := eqPattern s r } }
    | none => event { s with vrs := { s.vrs with training := false, up := false } } Reg.VRS_EVENTS 9

/-- LINK_TRAINING_END. -/
def execLinkTrainingEnd (trained : Training) (s : State) : Out :=
  .next (linkTrainingEnd s trained.recovery.toNat trained.equalisation.toNat)

/-- Words of a register window from bytes. -/
def pokeBytes (s : State) (a : Nat) (d : List Byte) (n : Nat) : State :=
  (List.range n).foldl (fun s i => poke s (a + 4 * i) (fieldLE d (4 * i) 4)) s

/-- HPD: a sink is present; its DPCD and EDID are read over AUX and the link trains (R359). Until the boot sequence enables the view head, AUX
is high-Z and nothing is read (R362). -/
def execHpd (dpcd edid : List Byte) (s : State) : Out :=
  let s1 := event { s with vrs := { s.vrs with hpd := true } } Reg.VRS_EVENTS 7
  .next (if s.vrs.on then startTraining (writeMsa (pokeBytes (pokeBytes s1 (Reg.VRS_DPCD 0) dpcd 4) (Reg.VRS_EDID 0) edid 128)) else s)

/-- HPD_IRQ: the link status is read; a link that lost lock, or that is down, trains again (R352, R359). -/
def execHpdIrq (locked : Bool) (s : State) : Out :=
  if s.vrs.hpd then
    if s.vrs.up && !locked then .next (startTraining (event s Reg.VRS_EVENTS 8))
    else if !s.vrs.up && !s.vrs.training then .next (startTraining s)
    else .next s
  else .next s

/-- UNPLUG: LINK_UP clears and LINK_LOST is set; a frame stops at once (R359, R360). -/
def execUnplug (s : State) : Out :=
  .next (stopVideo (event { s with vrs := { s.vrs with hpd := false, up := false, training := false, msaIgnore := false } }
    Reg.VRS_EVENTS 8))

/-! ## Shedding (R360) -/

/-- The step that blanks the view output takes force or ends at a Whistle: the link goes to D3 and the PHY powers down (R360); the orderly
stop stops both outputs (R511). -/
def vrsShed (s0 : State) : State :=
  let on := shedStep s0 3 || orderlyStop s0
  let s := if orderlyStop s0 then tolChanged { s0 with vrs := { s0.vrs with clone := none, clonePrev := none, dpDue := none, lvDue := none } } else s0
  if on && !s.vrs.blanked then
    stopVideo { s with vrs := { s.vrs with blanked := true, training := false, up := false, d3 := true } }
  else if !on && s.vrs.blanked then startTraining { s with vrs := { s.vrs with blanked := false, d3 := false } }
  else s

/-- VRS_STATUS (R363). -/
def vrsStatus (s : State) : Nat :=
  b2n s.vrs.hpd + b2n s.vrs.up * 2 + s.vrs.rate % 4 * 4 + s.vrs.lanes % 4 * 16 + b2n s.vrs.slow * 64 + b2n s.vrs.blanked * 128
    + b2n (vrsPending s) * 256 + (s.vrs.run % 65536) * 65536

/-! ## Pads (R342, R362) -/

/-- The DisplayPort main-link lanes are in electrical idle until the boot sequence enables the view head (R362), and the PHY is powered
where the output is on and not blanked (R360). -/
def dpIdle (s : State) : Bool := !s.vrs.on
def dpPowered (s : State) : Bool := s.vrs.on && !s.vrs.d3 && bit (dpReg s Reg.VRS_CTRL) 0

/-- AUX and the LVDS pairs are high-Z until the boot sequence enables the view head (R362). -/
def auxHighZ (s : State) : Bool := !s.vrs.on
def lvdsHighZ (s : State) : Bool := !s.vrs.on

/-- The seven bits, first bit highest, that each of the four data pairs of an LVDS link sends in a clock, for a pixel and the control bits
DE, VSYNC and HSYNC, in the VESA or the JEIDA mapping (R342). (PRESUMED, assumption 134.) -/
def lvdsPairs (jeida : Bool) (c : Nat × Nat × Nat) (de vs hs : Bool) : List (List Bool) :=
  let k (n : Nat) (l : List Nat) : List Bool := l.map (fun i => n.testBit i)
  let lo := if jeida then 2 else 0
  let x := if jeida then 0 else 6
  [ k c.2.1 [lo] ++ k c.1 [lo + 5, lo + 4, lo + 3, lo + 2, lo + 1, lo],
    k c.2.2 [lo + 1, lo] ++ k c.2.1 [lo + 5, lo + 4, lo + 3, lo + 2, lo + 1],
    [de, vs, hs] ++ k c.2.2 [lo + 5, lo + 4, lo + 3, lo + 2],
    [false] ++ k c.2.2 [x + 1, x] ++ k c.2.1 [x + 1, x] ++ k c.1 [x + 1, x] ]

/-- The clock pair of an LVDS link sends the same seven bits in every clock (R342). (PRESUMED, assumption 134.) -/
def lvdsClockPair : List Bool := [true, true, false, false, false, true, true]

/-- DE, VSYNC and HSYNC at column x of line n of a frame, the polarities applied: lines run VSW, VBP, VACT and the front porch, columns
active pixels, HFP, HSW and HBP (R342, R358, R363). (PRESUMED, assumption 134.) -/
def controlBits (s : State) (f : ViewFrame) (n x : Nat) : Bool × Bool × Bool :=
  let t := frameTiming s true f
  let c := ireg s f.img Reg.VRS_CTRL
  let h := decide (t.hact + t.hfp ≤ x) && decide (x < t.hact + t.hfp + t.hsw)
  (decide (t.vsw + t.vbp ≤ n) && decide (n < t.vsw + t.vbp + t.vact) && decide (x < t.hact), decide (n < t.vsw) != bit c 7, h != bit c 6)

/-- What a link of the clone sends in one clock for column x of line n of a frame: its four data pairs. Outside the active area the pixel
reads 0. (PRESUMED, assumption 134.) -/
def lvdsPixel (s : State) (f : ViewFrame) (n x : Nat) : List (List Bool) :=
  let t := frameTiming s true f
  let y := n - (t.vsw + t.vbp)
  let b := controlBits s f n x
  let c := if b.1 then sentPixel s true f (Map.getD f.buf y []) x y else (0, 0, 0)
  lvdsPairs (bit (ireg s f.img Reg.VRS_LV_CTRL) 1) c b.1 b.2.1 b.2.2

/-- What links A and B of the clone send in clock k of line n: even pixels on link A, odd ones on link B (R342). -/
def lvdsClock (s : State) (f : ViewFrame) (n k : Nat) : List (List Bool) × List (List Bool) :=
  (lvdsPixel s f n (2 * k), lvdsPixel s f n (2 * k + 1))

end Sys2Proof.Machine
end

