-- ==== Sys2Proof/Machine/Power.lean ====
section
/-! DEFINITION. Supply and temperature monitoring (R503–R505), the shedding level (R506–R510), the orderly stop (R511) and
the PWR registers (R515). -/

namespace Sys2Proof.Machine

/-! ## Monitoring (R503–R505) -/

/-- The mean of the conversions held, rounded to nearest with ties to even (R161). (DEDUCED, assumption 38.) -/
def meanOf (l : List Nat) : Nat := (rneDiv (sumN l) l.length).toNat

/-- The bus value in mV of a filtered code: ⌊code × 9.375⌋. -/
def busMv (code : Nat) : Nat := code * 75 / 8

/-- BUS_SAMPLE: a conversion enters the mean of the latest 16, and the filtered value is updated. -/
def execBusSample (code : BitVec 12) (s : State) : Out :=
  let ring := (code.toNat :: s.pwr.busRing).take 16
  .next (if s.pwr.phase = .reset then s
    else { s with pwr := { s.pwr with
      busRing := ring, samples := s.pwr.samples ++ [(s.clk.now, some (busMv (meanOf ring)), none)] } })

/-- CORE_SAMPLE. -/
def execCoreSample (mv : BitVec 10) (s : State) : Out :=
  let ring := (mv.toNat :: s.pwr.coreRing).take 16
  .next (if s.pwr.phase = .reset then s
    else { s with pwr := { s.pwr with
      coreRing := ring, samples := s.pwr.samples ++ [(s.clk.now, none, some (meanOf ring))] } })

/-- The highest reading and the lowest sensor that gives it. -/
def hottest (l : List Int) : Int × Nat :=
  let m := l.foldl max (l.headD 0)
  (m, l.findIdx (· == m))

/-- Thresholds of the thermal conditions. -/
def tjShed (s : State) : Int := (fld s Reg.PWR_THERM 7 0 : Nat)
def tjStop (s : State) : Int := (fld s Reg.PWR_THERM 15 8 : Nat)
def tjHyst (s : State) : Int := (fld s Reg.PWR_THERM 19 16 : Nat)

/-- A current report of LPDDR6 dies above their range meets the thermal condition. -/
def memHot (s : State) : Bool := s.mem.hot && bit (reg s Reg.MEM_EVENTS) 7

/-- The thermal and the stop condition. -/
def thermalMet (s : State) : Bool :=
  (!s.pwr.temps.isEmpty && decide (tjShed s ≤ (hottest s.pwr.temps).1)) || memHot s
def stopMet (s : State) : Bool := !s.pwr.temps.isEmpty && decide (tjStop s ≤ (hottest s.pwr.temps).1)

/-- THERMAL is set when the thermal condition begins to be met. -/
def thermalEvent (before s : State) : State :=
  if thermalMet s && !thermalMet before then event s Reg.PWR_EVENTS 3 else s

/-- TEMPERATURE_SAMPLE: the sixteen sensors are read, sensor 0 in the low bits. -/
def execTemperatureSample (temps : BitVec 256) (s : State) : Out :=
  let l := (List.range 16).map (fun i => sgn 16 (temps.toNat / 2 ^ (16 * i)))
  .next (if s.pwr.phase = .reset then s
    else thermalEvent s { s with pwr := { s.pwr with
      temps := l, tempSamples := s.pwr.tempSamples ++ [(s.clk.now, (hottest l).1)] } })

/-! ## The level (R507–R510) -/

/-- Thresholds and hysteresis of step k (R507). -/
def busThr (s : State) (k : Nat) : Nat := fld s (Reg.PWR_STEP_BUS k) 15 0
def busHyst (s : State) (k : Nat) : Nat := fld s (Reg.PWR_STEP_BUS k) 27 16
def coreThr (s : State) (k : Nat) : Nat := fld s (Reg.PWR_STEP_CORE k) 9 0
def coreHyst (s : State) (k : Nat) : Nat := fld s (Reg.PWR_STEP_CORE k) 23 16

/-- What calls for a step: the step, the instant of the sample, the decider (0 bus, 1 core, 2 thermal, 3 stop) and the sample. -/
structure StepCall where
  step : Nat
  at_ : Nat
  decider : Nat
  value : Int
  deriving DecidableEq, Repr

/-- The highest step whose test a value fails. -/
def highestStep (f : Nat → Bool) : Nat := (upTo 1 8).foldl (fun a k => if f k then k else a) 0

/-- The steps that the samples before an instant, and the conditions that stand, call for. (DEDUCED, assumption 39.) -/
def stepCalls (s : State) (hi : Nat) : List StepCall :=
  let win := s.pwr.samples.filter (fun x => decide (x.1 < hi))
  let heat (t : Nat) (v : Int) : List StepCall :=
    [{ step := if tjShed s ≤ v then 4 else 0, at_ := t, decider := 2, value := v },
     { step := if tjStop s ≤ v then 7 else 0, at_ := t, decider := 3, value := v }]
  let top := (hottest s.pwr.temps).1
  win.flatMap (fun x =>
    (match x.2.1 with
      | some v => [{ step := highestStep (fun k => decide (v < busThr s k)), at_ := x.1, decider := 0, value := (v : Int) }]
      | none => [])
    ++ (match x.2.2 with
      | some v => [{ step := highestStep (fun k => decide (v < coreThr s k)), at_ := x.1, decider := 1, value := (v : Int) }]
      | none => []))
  ++ (s.pwr.tempSamples.filter (fun x => decide (x.1 < hi))).flatMap (fun x => heat x.1 x.2)
  ++ [{ step := if thermalMet s then 4 else 0, at_ := hi, decider := 2, value := top },
      { step := if stopMet s then 7 else 0, at_ := hi, decider := 3, value := top }]

/-- The call that decides: the highest step, at its earliest sample, in the order of the deciders. -/
def topCall (l : List StepCall) : Option StepCall :=
  l.foldl (fun a c => match a with
    | none => some c
    | some b =>
      if b.step < c.step ∨ (b.step = c.step ∧ (c.at_ < b.at_ ∨ (c.at_ = b.at_ ∧ c.decider < b.decider))) then some c
      else some b) none

/-- The tick before an instant was stable for step n. -/
def tickStable (s : State) (n hi : Nat) : Bool :=
  let win := s.pwr.samples.filter (fun x => decide (x.1 < hi))
  let temps := (s.pwr.tempSamples.filter (fun x => decide (x.1 < hi))).map (·.2)
    ++ (if s.pwr.temps.isEmpty then [] else [(hottest s.pwr.temps).1])
  win.all (fun x => (match x.2.1 with | some v => busThr s n == 0 || decide (busThr s n + busHyst s n ≤ v) | none => true)
    && (match x.2.2 with | some v => coreThr s n == 0 || decide (coreThr s n + coreHyst s n ≤ v) | none => true))
  && (decide (4 < n) || (!memHot s && temps.all (fun v => decide (v < tjShed s - tjHyst s))))
  && temps.all (fun v => decide (v < tjStop s - tjHyst s))

/-- The level moves to n at Whistle w: the epoch, the event, the counts and the log entry. -/
def levelTo (s : State) (n decider : Nat) (value : Int) : State :=
  let old := s.pwr.level
  let up := decide (old < n)
  let s1 := { s with pwr := { s.pwr with level := n, stable := 0,
                                         entries := if n = 0 then s.pwr.entries
                                           else setNth s.pwr.entries (n - 1) (((s.pwr.entries[n - 1]?).getD 0 + 1) % 2 ^ 32) },
                     com := { s.com with epochUp := true } }
  let s2 := event (if up then countReg s1 Reg.PWR_SHEDS 1 else s1) Reg.PWR_EVENTS (if up then 0 else 1)
  logEvent s2 0x7C 16 WARN (arg1 old ++ arg1 n ++ arg1 decider ++ argN 2 (wrap 16 value))

/-- The evaluation of a Whistle that falls at an instant (R509): entry before recovery, and entry alone at the first one. The
samples up to 2 µs before the Whistle are used up. -/
def shedEvaluate (s : State) (inst : Nat) : State :=
  let hi := inst - 2000 * tuNs
  let n := s.pwr.level
  let stable := if s.pwr.evaluated && tickStable s n hi then s.pwr.stable + 1 else 0
  let s1 := match topCall (stepCalls s hi) with
    | some c =>
      if n < c.step then levelTo s c.step c.decider c.value
      else if n = 0 then s
      else if 64 ≤ stable then levelTo (drawFree s) (n - 1) 4 (freeValue s : Nat)
      else { s with pwr := { s.pwr with stable := stable } }
    | none => s
  { s1 with pwr := { s1.pwr with evaluated := true, samples := s1.pwr.samples.filter (fun x => decide (hi ≤ x.1)),
                                 tempSamples := s1.pwr.tempSamples.filter (fun x => decide (hi ≤ x.1)) } }

/-! ## The orderly stop (R511) -/

/-- Every job is released or stops, and none is left to resume or due. -/
def stopAllJobs (s : State) : State :=
  let s1 := s.sch.hud.foldl (fun s e => releaseGroup s e.1 false) s
  let s2 := (s1.sch.hud.flatMap (fun e => e.2.rom)).foldl romStopped s1
  { s2 with sch := { s2.sch with
      hud := s2.sch.hud.map (fun e => (e.1, { e.2 with
        romDue := [], taken := none, takenUps := false, ups := none, preempted := [], rerun := [], isRerun := false })),
      ctxs := s2.sch.ctxs.map (fun c => (c.1, { c.2 with preempted := [] })) } }

/-- Step 7 takes force. (DEDUCED, assumption 40.) -/
def orderlyEnter (s : State) : State :=
  let s1 := stopAllJobs (abandonPic s)
  let s2 := (List.range s1.sch.old.length).foldl (fun s i => swapOld (stopAllJobs (swapOld s i)) i) s1
  let s3 := { s2 with sch := { s2.sch with old := [] },
                      cam := { s2.cam with ports := s2.cam.ports.map (fun e => (e.1, { e.2 with high := false })) } }
  event ((List.range 8).foldl srEnter (vrsShed s3)) Reg.PWR_EVENTS 2

/-! ## What a change of the steps in force brings (R506, R511) -/

/-- Step 6 has passed its HOLD_TICKS at Whistle w. -/
def holdDone (s : State) (w : Nat) : Bool :=
  shedStep s 6 && (match s.pwr.step6At with | some a => decide (a + fld s Reg.PWR_SHED_CTRL 15 8 ≤ w) | none => false)

/-- The steps in force at Whistle w against those before it: step 6's Whistle, HOLD_DONE, suspension, blanking and the orderly
stop. -/
def shedEffects (before s : State) (w : Nat) : State :=
  let at6 := if !shedStep s 6 then none else if shedStep before 6 then s.pwr.step6At else some w
  let s1 := { s with pwr := { s.pwr with step6At := at6 } }
  let s2 := if holdDone s1 w && !holdDone before (w - 1) then event s1 Reg.PWR_EVENTS 4 else s1
  let s3 := vrsShed (suspendBE s2)
  if orderlyStop s && !orderlyStop before then orderlyEnter s3 else s3

/-! ## Power states and pins (R513, R514) -/

/-- The power states of R513. -/
inductive PowerState where
  | off | reset | boot | run | shed | stopped
  deriving DecidableEq, Repr

/-- Every rail of groups C to E is up: PG[5:2] are high (R495, R497). -/
def railsUp (s : State) : Bool := bits s.pwr.pg 5 2 == 15

/-- The power state: OFF where a rail of groups C to E is absent. -/
def powerState (s : State) : PowerState :=
  match s.pwr.phase with
  | .reset => if railsUp s then .reset else .off
  | .boot => .boot
  | .run => if s.pwr.level = 0 then .run else if s.pwr.level = 7 then .stopped else .shed

/-- IRQ_N and PWR_ALERT_N, open-drain outputs: driven low, or released (R58, R510, R514). -/
def irqN (s : State) : Pin := if irqAsserted s then .low else .highZ
def pwrAlertN (s : State) : Pin := if 1 ≤ s.pwr.level then .low else .highZ

/-- CAMp_FSYNC: high-Z in RESET and BOOT, then the level of the pulse (R104, R514). -/
def camFsync (s : State) (p : Nat) : Pin := if s.pwr.phase ≠ .run then .highZ else if fsyncPin s p then .high else .low

/-- The sensor buses and the IMU's outputs are high-Z in RESET and BOOT (R514). -/
def sensorHighZ (s : State) : Bool := s.pwr.phase != .run

/-- A pin group of R514, in the order of its table. -/
inductive PinGroup where
  | chainSync | chainData | direct | takeover | alerts | hostPort | flash | sensorControl | fsync | motionInputs | imuOutputs | cameras
  | displayPort | lvds | lysba | clockResetSense | straps
  deriving DecidableEq, Repr

/-- What a pin group does: high-Z, an input, in electrical idle, its receivers off, the straps' sampling, or what its own chapter says of
a part that runs, or of a port or a flash that is driven. -/
inductive PadState where
  | highZ | input | electricalIdle | receiversOff | sampled | active
  deriving DecidableEq, Repr

/-- A pin group while its rails are absent (R514); inputs have no state of their own there. -/
def padsUnpowered (g : PinGroup) : Option PadState :=
  match g with
  | .motionInputs | .clockResetSense | .straps => none
  | _ => some .highZ

/-- A pin group in RESET, and in BOOT (R514). The flash pins are driven from boot step 3 on; the host port's DQ are high-Z but for its
answers (R423). -/
def padsReset (booting : Bool) (g : PinGroup) : PadState :=
  match g with
  | .motionInputs | .clockResetSense => .input
  | .straps => .sampled
  | .cameras => .receiversOff
  | .displayPort | .lysba => .electricalIdle
  | .flash => if booting then .active else .highZ
  | .hostPort => if booting then .active else .highZ
  | _ => .highZ

/-- What each pin group does (R513, R514). -/
def padState (s : State) (g : PinGroup) : Option PadState :=
  match powerState s with
  | .off => padsUnpowered g
  | .reset => some (padsReset false g)
  | .boot => some (padsReset true g)
  | _ => some (match g with
    | .motionInputs | .clockResetSense | .straps => .input
    | _ => .active)

/-- The transmitters of Lysba link n are in electrical idle: DOWN and FAIL, and always in RESET and BOOT (R435, R514). -/
def lysIdle (s : State) (n : Nat) : Bool := (linkOf s n).state == 0 || (linkOf s n).state == 6

/-! ## Registers (R515) -/

/-- A PWR register that shows state. (DEDUCED, assumption 102.) -/
def pwrView (s : State) (a : Nat) : Option Nat :=
  let p := s.pwr
  let code := meanOf p.busRing
  let hot := hottest p.temps
  if a = Reg.PWR_STATUS then
    some (p.level + 8 * b2n (holdDone s (tickNow s)) + 16 * b2n (thermalMet s) + 32 * b2n (stopMet s) + (p.pg % 64) * 2 ^ 8
      + (p.stable % 65536) * 2 ^ 16)
  else if a = Reg.PWR_BUS then some (code + busMv code * 2 ^ 16)
  else if a = Reg.PWR_CORE then some (meanOf p.coreRing)
  else if a = Reg.PWR_TJ then
    some ((if -128 ≤ hot.1 ∧ hot.1 ≤ 127 then wrap 8 hot.1 else Config.unstated 9 hot.1 % 256)
      + (if p.temps.isEmpty then 0 else hot.2) * 2 ^ 8)
  else if a = Reg.PWR_RESET then some (p.cause + (p.pgFell % 64) * 2 ^ 8)
  else none

/-- The PWR status page. -/
def pwrPage (s : State) : State :=
  let base := statBase 16
  let regs := (List.range 25).flatMap (fun i => leBytes 4 ((pwrView s (0x150000 + 4 * i)).getD (reg s (0x150000 + 4 * i))))
  statWrite (statWrite s base regs) (base + 0x100) (s.pwr.entries.flatMap (leBytes 4))

end Sys2Proof.Machine
end

