-- ==== Sys2Proof/Machine/Boot.lean ====
section
/-! DEFINITION. Resets (R498–R502), the boot sequence (R472–R478, R205, R241, R549), failed starts and bench mode (R479–R481). -/

namespace Sys2Proof.Machine

/-! ## What a reset clears (R500) -/

/-- The log as a reset leaves it: its queue written, the rest as it stood (R518, R541). -/
def logKept (s : State) : Log := { (logDrain s 64).log with queue := [], tickCodes := [] }

/-- The state while a power-on reset is asserted: the flash, the log's SRAM and the pins alone remain. -/
def porState (s0 : State) (cause fell : Nat) (porN : Bool) : State :=
  let s := secReset s0
  { State.reset with
    gradeX := s.gradeX, free := s.free, pending := s.pending, log := logKept s,
    sec := { flash := s.sec.flash, flashOn := s.sec.flashOn },
    pwr := { cause := cause, pgFell := fell, pg := s.pwr.pg, porN := porN, straps := s.pwr.straps } }

/-- A power-on reset is asserted. While one lasts, further causes leave CAUSE as it is, and a brown-out adds the inputs that
fell. (DEDUCED, assumption 37.) -/
def porAssert (s : State) (cause fell : Nat) (porN : Bool) : State :=
  if s.pwr.phase = .reset ∧ s.pwr.cause ≤ 2 then
    { s with pwr := { s.pwr with porN := porN,
                                 pgFell := if s.pwr.cause = 1 ∧ cause = 1 then s.pwr.pgFell ||| fell else s.pwr.pgFell,
                                 causeAt := s.clk.now } }
  else porState s cause fell porN

/-- POR_N_LOW (R498): cause 0. -/
def execPorNLow (s : State) : Out := .next (porAssert s 0 0 false)

/-- POR_N_RISE: the straps are sampled (R501); the board has every PG input high by then (R499). (DESIGN CHOICE, assumption 2.) -/
def execPorNRise (straps : BitVec 4) (s : State) : Out :=
  .next (if s.pwr.porN then s
    else { s with pwr := { s.pwr with porN := true, straps := straps.toNat, pg := 0x3F, causeAt := s.clk.now } })

/-- BROWN_OUT (R498): cause 1, with the PG inputs that fell. -/
def execBrownOut (fell : BitVec 6) (s : State) : Out :=
  let s1 := porAssert s 1 fell.toNat s.pwr.porN
  .next (if fell = 0 then s
    else { s1 with pwr := { s1.pwr with pg := s1.pwr.pg - (s1.pwr.pg &&& fell.toNat) } })

/-- VDD_CORE_LOW (R498): cause 2. -/
def execVddCoreLow (s : State) : Out := .next (porAssert s 2 0 s.pwr.porN)

/-- The state while a warm reset is asserted. (DEDUCED, assumption 42.) -/
def warmState (s0 : State) (cause : Nat) : State :=
  let s := secReset s0
  { State.reset with
    gradeX := s.gradeX, free := s.free, pending := s.pending, log := logKept s, clk := { s.clk with corr := 0 },
    com := { epoch := s.com.epoch },
    hpt := { s.hpt with banks := [], out := [], dq := [], readTick := 0, writeTick := 0 },
    pages := s.pages,
    mem := { bytes := Mem.clear s.mem.bytes 0 0x4000000, poison := s.mem.poison.filter (fun l => decide (0x4000000 ≤ l)), sr := 0xFF },
    fab := { switches := s.fab.switches },
    sch := { arb := s.sch.arb, seed := s.sch.seed },
    sec := { flash := s.sec.flash, flashOn := s.sec.flashOn, root := s.sec.root },
    pwr := { cause := cause, pg := s.pwr.pg, porN := s.pwr.porN, straps := s.pwr.straps, causeAt := s.clk.now },
    cam := { encs := s.cam.encs.map (fun e => { a := e.a, b := e.b }) },
    vsn := { ids := s.vsn.ids },
    trk := { nextId := s.trk.nextId } }

/-- A warm reset is asserted, unless a power-on reset lasts. -/
def warmAssert (s : State) (cause : Nat) : State :=
  if s.pwr.phase = .reset ∧ s.pwr.cause ≤ 2 then s else warmState s cause

/-- WARM_RST_N (R498): cause 3. -/
def execWarmRstN (s : State) : Out := .next (warmAssert s 3)

/-- The key of WARM_RESET (R502). -/
def warmKey : Nat := 0x574D

/-- WARM_RESET at the commit of a Whistle that fell at `inst`: the reset follows 1.0 ms later. (DEDUCED, assumptions 32, 40.) -/
def takeWarm (s : State) (key inst : Nat) : CmdResult :=
  if key ≠ warmKey then rejected s causeRANGE
  else
    let at_ := inst + 1000000 * tuNs
    { state := { s with pwr := { s.pwr with warmAt := some (match s.pwr.warmAt with | some t => min t at_ | none => at_) } },
      code := codeOK }

/-- WARM_RESET: an accepted one leaves no completion record. -/
def execWarmReset (page : Fin 64) (entry : Fin 55) (key : Word) (s : State) : Out :=
  let x := takeWarm s key.toNat s.clk.inst
  .next (if x.code = codeOK then x.state else settle ⟨page.val, entry.val⟩ x)

/-- WARM_RESET_DUE: the reset of an accepted command, cause 5. -/
def execWarmResetDue (s : State) : Out :=
  .next (match s.pwr.warmAt with
    | some t => warmAssert (advance s t) 5
    | none => s)

/-! ## The steps of a start (R477) -/

/-- One step: a start that has failed runs no other. -/
def bootStep (f : State → State × Option Nat) (s : State) : State :=
  if s.sec.failing.isSome then s
  else
    let x := f s
    { x.1 with sec := { x.1.sec with failing := x.2 } }

/-- The part of a copy of the helper data that its CRC-32 covers, and whether it passes. (DESIGN CHOICE, assumption 160.) -/
def helperBody (s : State) (a : Nat) : List Byte := flashRead s a (Config.helperSize % 0x7FFC)
def helperPasses (s : State) (a : Nat) : Bool :=
  crc32 (helperBody s a) == ofLE (flashRead s (a + Config.helperSize % 0x7FFC) 4)

/-- Step 2, after power-on reset: the identity, from the first copy of the helper data that passes its CRC-32 and rebuilds (R472, R473). -/
def bootIdentity (f : BootFacts) (s : State) : State × Option Nat :=
  let none_ := { s with sec := { s.sec with root := none } }
  let with_ (a : Nat) : State := { s with sec := { s.sec with root := some (Config.rootOf (helperBody s a)) } }
  if s.pwr.cause > 2 then (s, none)
  else if copiesErased s 0x10000 then (none_, none)
  else if f.rebuildA && helperPasses s 0x10000 then (with_ 0x10000, none)
  else if f.rebuildB && helperPasses s 0x18000 then (with_ 0x18000, none)
  else (none_, some 0x20)

/-- Step 3: the flash (R470). -/
def bootFlash (f : BootFacts) (s : State) : State × Option Nat := (s, if f.flashAnswers && !f.flashReads then some 0x22 else none)

/-- Step 4: the failed-start check (R480). A start that finds three failures enters bench mode, whatever failed before. -/
def bootCount (s : State) : State :=
  let r := recordFound s
  if 3 ≤ r.1 then
    event { s with sec := { s.sec with bench := true, failed := r.1, reason := r.2, failing := none } } Reg.SEC_EVENTS 4
  else
    let s1 := { s with sec := { s.sec with failNext := r.1 + 1 } }
    if s1.sec.failing.isSome then s1 else recordStart s1 (r.1 + 1) 0x2F

/-- The START entry (R526, R528). (DEDUCED, assumption 35.) -/
def bootLog (s : State) : State × Option Nat :=
  (logEvent s 0x01 17 NOTE (arg1 s.pwr.cause ++ arg1 s.sec.failed ++ arg1 s.sec.reason
    ++ arg1 (b2n (bit (reg s Reg.LOG_EVENTS) 4) + 2 * b2n s.sec.bench)), none)

/-- A step's failure counts outside bench mode only (R481). -/
def unlessBench (s : State) (c : Bool) (code : Nat) : Option Nat := if c && !s.sec.bench then some code else none

/-- Step 5: the key store, and the owner's measurement (R485, R487). -/
def bootKeys (s : State) : State × Option Nat :=
  let x := storeLoad s
  (extendMeas x.1 2 (ownerDigest x.1), unlessBench s (!x.2) 0x21)

/-- Step 6: Court zero, LPDDR6 trained, its device region zero after power-on reset (R393, R398, R550). -/
def bootMemory (f : BootFacts) (s : State) : State × Option Nat :=
  let m := if s.pwr.cause ≤ 2 then [] else Mem.clear s.mem.bytes 0 0x4000000
  ({ s with mem := { s.mem with bytes := m, courtReady := true, trained := f.trained.toNat, sr := 0 } },
    unlessBench s (f.trained.toNat != 0xFF) 0x23)

/-- The non-empty firmware slots by descending FW_VERSION, slot A first on equal versions (R476). -/
def fwSlots (s : State) : List Nat :=
  let v (t : Nat) : Nat := ofLE (flashRead s (slotAt t + 0x10) 4)
  sortBy (fun a b => decide (v b ≤ v a)) ([0, 1].filter (fun t => !slotEmpty s t))

/-- Step 7: the firmware (R476, R487). -/
def bootFirmware (s : State) : State × Option Nat :=
  let slots := if s.sec.bench then [] else fwSlots s
  let tries := slots.map (fun t => (t, fwCheck s (slotImage s t) (slotImage s t).length))
  let err := match tries with | (_, some c) :: _ => c | _ => 0
  let s1 := extendMeas { s with sec := { s.sec with fwErr := err } } 0 Config.romDigest
  match tries.find? (fun t => t.2.isNone) with
  | some (t, _) =>
    let b := slotImage s t
    (extendMeas { s1 with sec := { s1.sec with fwSlot := t, fwVersion := fieldLE b 0x10 4, fwRaiseMin := bit (fieldLE b 0xC 2) 0 } } 0
      (sha384 (b.take (b.length - 96))), none)
  | none =>
    if slots.isEmpty then
      (extendMeas { s1 with sec := { s1.sec with fwSlot := 2, fwVersion := 0 } } 0 Config.builtinFwDigest, none)
    else (s1, some err)

/-- Step 8: the engines and the cores are checked (R205, R241). -/
def bootChecks (f : BootFacts) (s : State) : State × Option Nat :=
  let s1 := f.engineChecks.foldl (fun s e =>
    match engineChecked s e.2 with
    | (s, none) => s
    | (s, some (step, crc)) =>
      logEvent { s with slv := { s.slv with engineFail := s.slv.engineFail ||| 2 ^ e.1.val } } 0x24 5 FAULT
        (arg1 e.1.val ++ argN 4 crc ++ arg1 step)) s
  let cs := f.coreFails.eraseDups
  let s2 := applySubstitution (cs.foldl (fun s c => benchSlot s c.1.val c.2.val 2) s1)
  let s3 := { s2 with slv := { s2.slv with engineDone := true, checkDone := true, checkFailed := cs.length } }
  (s3, if s.sec.bench then none
    else if s3.slv.engineFail ≠ 0 then some 0x24
    else if s3.slv.squads.any (fun q => q.2.lost) then some 0x25
    else none)

/-- The image in a plan slot, by its own TOTAL_SIZE (R61), and its verdict. -/
def slotPlan (s : State) (t : Nat) : Option Nat × Plan :=
  let size := min (slotSize t) (ofLE (flashRead s (slotAt t + 8) 4))
  let b := flashRead s (slotAt t) size
  (planVerdict s b size, parsePlan b)

/-- Step 9: the plan (R478, R481). -/
def bootPlan (s : State) : State × Option Nat :=
  let ready (s : State) (p : Plan) (src : Nat) : State := { s with sec := { s.sec with ready := some (p, src) } }
  let fill (s : State) (t : Nat) : State :=
    devWrite s activeSlot (flashRead s (slotAt t) (min (slotSize t) (ofLE (flashRead s (slotAt t + 8) 4))))
  if s.sec.bench then
    let x := slotPlan s 3
    if !slotEmpty s 3 && x.1.isNone && x.2.benchEligible then
      (ready { fill s 3 with sec := { s.sec with benchF := true } } x.2 3, none)
    else (ready s benchPlan 3, none)
  else if slotEmpty s 2 then (ready s kickoffPlan 2, none)
  else
    let x := slotPlan s 2
    match x.1 with
    | some c => (s, some c)
    | none => (ready (fill s 2) x.2 0, none)

/-- RESET_RELEASE: 1 ms after a warm reset's cause, or after the last of a power-on reset's causes is over, the start runs its steps 1 to 9
(R499). Step 10, or the failure, comes at the instant that the facts give. (DESIGN CHOICE, assumption 36.) -/
def resetRelease (s : State) (f : BootFacts) : State :=
  let por := decide (s.pwr.cause ≤ 2)
  if s.pwr.phase ≠ .reset ∨ (por && !(s.pwr.porN && f.suppliesUp)) = true then s
  else
    let ends := if por then max s.pwr.causeAt (f.upAt.toNat * tuStep) else s.pwr.causeAt
    let at_ := advance s (ends + 1000000 * tuNs)
    -- The timestamp counts from the release of power-on reset (R8).
    let s0 := if por then { at_ with clk := {}, hpt := { at_.hpt with acceptFrom := at_.hpt.acceptFrom - at_.clk.now } } else at_
    let s1 := logStart { s0 with sec := { s0.sec with flashOn := f.flashAnswers } } (!por || f.logKept)
    let s2 := bootCount (bootStep (bootFlash f) (bootStep (bootIdentity f) s1))
    let s3 := bootStep (bootChecks f) (bootStep bootFirmware (bootStep (bootMemory f) (bootStep bootKeys (bootStep bootLog s2))))
    let s4 := bootStep bootPlan s3
    { s4 with pwr := { s4.pwr with phase := .boot, pg := 0x3F },
              sec := { s4.sec with readyAt := s0.clk.now + f.steps.toNat * tuStep } }

/-- RESET_RELEASE. -/
def execResetRelease (facts : BootFacts) (s : State) : Out := .next (resetRelease s facts)

/-! ## Step 10 (R477, R478, R481, R361, R337, R549) -/

/-- The plan of step 9 takes force at Whistle w, without an epoch of its own; its contexts become resident. (DEDUCED, assumption 33.) -/
def stepTen (s : State) (w : Nat) : State :=
  match s.sec.ready with
  | none => s
  | some (p, src) =>
    let s1 := takeForce s p src (fun _ => false)
    let s2 := match declaredJoins s1 p.contexts with
      | some x => stampJoins x (p.contexts.map (fun c : CtxRec => c.id))
      | none => s1
    let s3 := { s2 with
      com := { s2.com with epochUp := false, reshapes := [] },
      frs := { s2.frs with drive := true },
      vrs := { s2.vrs with on := true },
      cam := { s2.cam with originDue := true },
      sec := { s2.sec with ready := none, okAt := if s2.sec.bench then none else some (w + 1024) },
      pwr := { s2.pwr with phase := .run } }
    let s4 := if src = 2 ∨ s.sec.bench = true then pokeF s3 Reg.VRS_CTRL 1 0 3 else s3
    if src = 2 then (List.range 16).foldl (fun s p => setPort s p { camPort s p with lastEnd := w })
      (pokeF (pokeF s4 Reg.FRS_CTRL 0 0 1) Reg.FRS_CHAIN_EN 7 0 0xFF) else s4

/-! ## The end of a start (R476, R480) -/

/-- FAILED_START: the failure is recorded, and a warm reset is due. -/
def execFailedStart (s : State) : Out :=
  .next (match s.sec.failing with
    | none => s
    | some c =>
      let s1 := recordStart (advance s s.sec.readyAt) s.sec.failNext c
      { s1 with sec := { s1.sec with failing := none, resetDue := true } })

/-- FAILED_START_WARM_RESET: 100 ms after the failure, cause 4. -/
def execFailedStartWarmReset (s : State) : Out :=
  .next (if s.sec.resetDue then warmAssert (advance s (s.sec.readyAt + 100000000 * tuNs)) 4 else s)

/-- START_OK: the start succeeds at the 1,024th Whistle after the one at which its plan took force; an image with RAISE_MIN raises
FW_MIN. (DEDUCED, assumption 102.) -/
def execStartOk (s : State) : Out :=
  .next (match s.sec.okAt with
    | none => s
    | some t =>
      if tickNow s < t then s
      else
        let s1 := recordStart { s with sec := { s.sec with okAt := none, startOk := true } } 0 0
        let s2 := event s1 Reg.SEC_EVENTS 5
        if s2.sec.fwRaiseMin && decide (s2.sec.fwMin < s2.sec.fwVersion) then
          storeWrite { s2 with sec := { s2.sec with fwMin := s2.sec.fwVersion } }
        else s2)

end Sys2Proof.Machine
end

