-- ==== Sys2Proof/Machine/Lysba.lean ====
section
/-! DEFINITION. The Lysba links (chapter 17): bring-up, frames with their sequence numbers and replays, forwarding, remote requests
on the target's side and replies, mirroring, heartbeats, takeover and Whistle alignment. -/

namespace Sys2Proof.Machine

/-! ## Link states (R432–R436) -/

/-- LINKn_EN with SIZE ≥ 2: the link may leave DOWN. -/
def linkEnabled (s : State) (n : Nat) : Bool := fld s Reg.LYS_RING (9 + n) (9 + n) == 1 && decide (2 ≤ ringSize s)

/-- PAIR is 1, and the partner's ID (R433). -/
def isPaired (s : State) : Bool := fld s Reg.LYS_RING 8 8 == 1
def partnerId (s : State) : Nat := ringId s ^^^ 1

/-- A saturating count of a 16-bit number. -/
def sat16 (n : Nat) : Nat := min n 65535

/-- A link enters a state: the trouble-log entry, RETRAIN or LINK_DOWN, and the loss of its frames on FAIL, DOWN and DETECT
(R435, R436, R439). (DEDUCED, assumption 92.) -/
def setLinkState (s : State) (n st cause : Nat) : State :=
  let l := linkOf s n
  if l.state = st then s
  else
    let keep := st = 2 ∨ 3 ≤ st ∧ st ≤ 5
    let l1 := { l with state := st, cause := if st = 6 then cause else 0, nakCount := 0,
                       retrains := if st = 2 ∧ l.state = 5 then sat16 (l.retrains + 1) else l.retrains,
                       fails := if st = 6 then sat16 (l.fails + 1) else l.fails }
    let l2 := if keep then l1 else { l1 with buffer := [], queue := [], control := [], txSeq := 0, rxSeq := 0 }
    let s1 := setLink s n l2
    let s2 := if st = 2 ∧ l.state = 5 then event s1 Reg.LYS_EVENTS 1 else if st = 6 then event s1 Reg.LYS_EVENTS 0 else s1
    logEvent s2 0x70 14 WARN (arg1 n ++ arg1 l.state ++ arg1 st ++ arg1 l2.cause)

/-- DETECT: the pattern is found on every lane or on a group of four; the link trains. -/
def execLinkDetect (link : Fin 2) (signal : Byte) (s : State) : Out :=
  let v := signal.toNat
  .next (if (linkOf s link.val).state = 1 ∧ (v % 16 = 15 ∨ v / 16 = 15) then setLinkState s link.val 2 0 else s)

/-- TRAIN: the lanes that locked within 2 ms give the full width, a NARROW link, or FAIL. -/
def execLinkTrain (link : Fin 2) (locked : Byte) (s : State) : Out :=
  let n := link.val
  let v := locked.toNat
  .next (if (linkOf s n).state ≠ 2 then s
    else
      let l := linkOf s n
      let s1 := setLink s n { l with laneOk := v, narrow := v ≠ 255 ∧ (v % 16 = 15 ∨ v / 16 = 15) }
      if v = 255 ∨ v % 16 = 15 ∨ v / 16 = 15 then setLinkState s1 n 3 0 else setLinkState s1 n 6 1)

/-- A control frame goes ahead of arbitration on a link that carries frames (R438). -/
def controlOn (s : State) (n : Nat) (f : LFrame) : State := if linkUp s n then sendControl s n f else s

/-- The HELLO frame of R436. -/
def helloFrame (s : State) : LFrame :=
  { typ := 1, dst := 0, src := ringId s, ctx := 0xFF, hops := 0,
    info := ringId s + (ringSize s - 1) * 16 + b2n (isPaired s) * 256, payload := List.replicate 64 0 }

/-- ALIGN: block lock and deskew complete, and HELLO goes out; or the link fails. -/
def execLinkAlign (link : Fin 2) (ok : Bool) (s : State) : Out :=
  let n := link.val
  .next (if (linkOf s n).state ≠ 3 then s
    else if ok then sendControl (setLinkState s n 4 0) n (helloFrame s) else setLinkState s n 6 2)

/-- FAIL: 100 ms have passed, and the link detects again. -/
def execLinkFail (link : Fin 2) (s : State) : Out :=
  .next (if (linkOf s link.val).state = 6 then setLinkState s link.val 1 0 else s)

/-- BLOCK_LOCK_LOSS on an UP link returns it to TRAIN. -/
def execBlockLockLoss (link : Fin 2) (s : State) : Out :=
  .next (if linkUp s link.val then setLinkState s link.val 2 0 else s)

/-! ## Receiving (R439) -/

/-- The peer has received every frame up to a SEQ: they leave the replay buffer. -/
def LLink.acked (l : LLink) (a : Nat) : LLink :=
  { l with buffer := l.buffer.filter (fun e => decide (0 < (e.1 + 65536 - a) % 65536 ∧ (e.1 + 65536 - a) % 65536 < 32768)) }

/-- An ACKNAK with NAK for the expected SEQ; it has no SEQ of its own and is not kept. -/
def sendNak (s : State) (n : Nat) : State :=
  let l := linkOf s n
  setLink s n { l with control := { typ := 2, dst := 0, src := ringId s, ctx := 0xFF, hops := 0, info := l.rxSeq + 65536,
                                    payload := List.replicate 64 0, ackNo := l.ackSeq } :: l.control }

/-- The frames kept from a SEQ on are sent again in order; data frames take slots (R439). -/
def replayFrom (s : State) (n from_ : Nat) : State :=
  let l := linkOf s n
  let fs := l.buffer.filter (fun e => decide ((e.1 + 65536 - from_) % 65536 < 32768))
  let data := (fs.filter (fun e => decide (5 ≤ e.2.typ))).length
  let ctl := (fs.filter (fun e => decide (e.2.typ < 5))).map (fun e => { e.2 with ackNo := l.ackSeq })
  pmcAdd (setLink s n { l with slotTick := l.slotTick + data, control := ctl.reverse ++ l.control }) 0x59 fs.length

/-- A link that carries frames takes one in: the acknowledgement, and the SEQ in order; an answer of false means that the frame
was discarded and a NAK sent. -/
def takeFrame (s : State) (n sq ack : Nat) : State × Bool :=
  let l := linkOf s n
  if l.state ≠ 5 ∧ l.state ≠ 4 then (s, false)
  else
    let l1 := l.acked ack
    if sq = l1.rxSeq then (setLink s n { l1 with rxSeq := (l1.rxSeq + 1) % 65536 }, true)
    else (sendNak (setLink s n l1) n, false)

/-- A frame's effect where its link takes it in. (DEDUCED, assumption 95.) -/
def onFrame (s : State) (h : FrameHead) (f : State → State) : Out :=
  let r := takeFrame s h.link.val h.seqNo.toNat h.ackNo.toNat
  .next (if r.2 then f r.1 else r.1)

/-- IDLE is discarded; its ACKSEQ acknowledges. -/
def execIdleFrame (link : Fin 2) (ackNo : BitVec 16) (s : State) : Out :=
  .next (if (linkOf s link.val).state = 5 ∨ (linkOf s link.val).state = 4 then
    setLink s link.val ((linkOf s link.val).acked ackNo.toNat) else s)

/-- HELLO: the peer's ID, SIZE and PAIR are checked, and a match brings the link UP (R435, R436); after a retraining the frames
of the replay buffer go again. -/
def execHello (head : FrameHead) (id sizeM1 : BitVec 3) (pair : Bool) (trip : BitVec 16) (s : State) : Out :=
  onFrame s head (fun s =>
    let n := head.link.val
    let z := ringSize s
    let want := if n = 0 then (ringId s + z - 1) % z else (ringId s + 1) % z
    if (linkOf s n).state ≠ 4 then s
    else
      let l := linkOf s n
      let s1 := setLink s n { l with peer := id.toNat, delay := (rneDiv (trip.toNat : Nat) 2).toNat }
      if id.toNat ≠ want then setLinkState s1 n 6 3
      else if sizeM1.toNat + 1 ≠ z ∨ pair ≠ isPaired s then setLinkState s1 n 6 4
      else
        let s2 := setLinkState s1 n 5 0
        match (linkOf s2 n).buffer.head? with
        | some e => replayFrom s2 n e.1
        | none => s2)

/-- ACKNAK: acknowledges, or calls for a replay; the third NAK for one SEQ retrains the link (R439). -/
def execAcknak (link : Fin 2) (ackNo replay : BitVec 16) (nak : Bool) (s : State) : Out :=
  let n := link.val
  .next (if (linkOf s n).state ≠ 5 ∧ (linkOf s n).state ≠ 4 then s
    else
      let l := (linkOf s n).acked ackNo.toNat
      if !nak then setLink s n l
      else
        let q := replay.toNat
        let k := if l.nakSeq = q ∧ 0 < l.nakCount then l.nakCount + 1 else 1
        let s1 := setLink s n { l with nakSeq := q, nakCount := k, replays := sat16 (l.replays + 1) }
        if 3 ≤ k then setLinkState s1 n 2 0 else replayFrom s1 n q)

/-- BAD_FRAME: a frame with a bad CRC is discarded and counted, and a NAK answers it (R439). -/
def execBadFrame (link : Fin 2) (s : State) : Out :=
  let n := link.val
  let l := linkOf s n
  .next (if l.state = 5 ∨ l.state = 4 then sendNak (setLink s n { l with crc := sat16 (l.crc + 1) }) n else s)

/-- DROPPED_FRAME: a frame of an unknown TYPE or with a reserved bit set is dropped and counted (R438). -/
def execDroppedFrame (link : Fin 2) (seqNo ackNo : BitVec 16) (s : State) : Out :=
  let r := takeFrame s link.val seqNo.toNat ackNo.toNat
  .next (if r.2 then countFieldSat r.1 Reg.LYS_DROPS 31 16 1 else r.1)

/-! ## Forwarding and remote requests (R441–R445) -/

/-- A data frame takes the link that leads to its device. -/
def sendData (s : State) (f : LFrame) : State :=
  match routeTo s f.dst with
  | some n => queueFrame s n f
  | none => s

/-- A REPLY toward a device (R438, R440). -/
def replyFrame (s : State) (f : LFrame) (status : Nat) (data : List Byte) : LFrame :=
  { typ := 7, dst := f.src, src := ringId s, ctx := f.ctx, hops := 0, info := f.info % 2 ^ 28 + status * 2 ^ 28,
    payload := slice data 0 64, input := 64, tag := 32 }

/-- A frame for another device goes on over the other link, or is dropped and counted; a dropped request is answered UNREACHABLE
(R441). -/
def forward (s : State) (n : Nat) (f : LFrame) : State :=
  let g := { f with hops := f.hops + 1, input := 64, tag := min f.ctx 32 }
  if ringSize s ≤ g.hops ∨ linkUp s (1 - n) = false then
    let s1 := countFieldSat s Reg.LYS_DROPS 15 0 1
    if f.typ = 5 ∨ f.typ = 6 then sendData s1 (replyFrame s1 f 2 []) else s1
  else queueFrame s (1 - n) g

/-- A frame as it came in. -/
def asFrame (h : FrameHead) (typ info : Nat) (payload : List Byte) : LFrame :=
  { typ := typ, dst := h.dst.toNat, src := h.src.toNat, ctx := h.ctx.toNat, hops := h.hops.toNat, info := info, payload := payload }

/-- A frame with a destination: forwarded, or taken by this device. -/
def deliver (s : State) (h : FrameHead) (f : LFrame) (here : State → State) : State :=
  if f.dst = ringId s then here s else forward s h.link.val f

/-- A remote request waits for its service. -/
def queueServed (s : State) (n : Nat) (f : LFrame) : State := { s with lys := { s.lys with served := s.lys.served ++ [(n, f)] } }

/-- RGET. -/
def execRget (head : FrameHead) (entry : BitVec 12) (join : BitVec 16) (addr : BitVec 40) (s : State) : Out :=
  let f := asFrame head 5 (entry.toNat + join.toNat * 4096) (leBytes 8 addr.toNat ++ List.replicate 56 0)
  onFrame s head (fun s => deliver s head f (fun s => queueServed s head.link.val f))

/-- RPUT. -/
def execRput (head : FrameHead) (entry : BitVec 12) (join : BitVec 16) (addr : BitVec 40) (data : BitVec 256) (s : State) : Out :=
  let f := asFrame head 6 (entry.toNat + join.toNat * 4096)
    (leBytes 8 addr.toNat ++ List.replicate 24 0 ++ leBytes 32 data.toNat)
  onFrame s head (fun s => deliver s head f (fun s => queueServed s head.link.val f))

/-- REMOTE_REQUEST_SERVED: the oldest request is served on local memory under R390, and its REPLY is queued (R444). -/
def remoteServed (s : State) : State :=
  match s.lys.served with
  | [] => s
  | (n, f) :: rest =>
    let s0 := { s with lys := { s.lys with served := rest } }
    let a := fieldLE f.payload 0 8
    let write := f.typ = 6
    if rangeOk s0 a (if write then 32 else 64) write = false then sendData s0 (replyFrame s0 f 1 [])
    else if write then sendData (jobWrite s0 a (slice f.payload 32 32)) (replyFrame s0 f 0 [])
    else
      let s1 := match (linesOf a 64).find? (fun l => s0.mem.poison.contains l) with
        | some l => memUncorr s0 l (56 + n)
        | none => s0
      sendData s1 (replyFrame s1 f 0 (devRead s1 a 64))

/-- REMOTE_REQUEST_SERVED. -/
def execRemoteRequestServed (s : State) : Out := .next (remoteServed s)

/-- A reply reaches its entry, or is counted as an orphan or stale; a failed one ends a running job (R444, R445). -/
def takeReply (s : State) (ctx entry join status : Nat) (data : List Byte) : State :=
  match Map.get s.sch.ctxs ctx with
  | none => event (countFieldSat s Reg.LYS_STATS 15 0 1) Reg.LYS_EVENTS 7
  | some c =>
    if c.epoch % 65536 ≠ join then event (countFieldSat s Reg.LYS_STATS 15 0 1) Reg.LYS_EVENTS 7
    else
      match s.lys.rx.find? (fun x => x.ctx == ctx && x.entry == entry) with
      | none => countFieldSat s Reg.LYS_STATS 31 16 1
      | some x =>
        let s1 := rxReply s ctx entry status data
        if status = 0 then s1
        else
          let s2 := if status = 2 then event s1 Reg.LYS_EVENTS 6 else s1
          match jobOfCore s2 x.lcn with
          | some (h, j) =>
            if j.ctx = ctx ∧ j.huddle = x.huddle then
              let s3 := logEvent s2 0x71 14 FAULT (arg1 ctx ++ arg1 x.device ++ arg1 status ++ argN 2 entry)
              coreEnds (slvEvent s3 4) h stFAULT
            else s2
          | none => s2

/-- REPLY. -/
def execReply (head : FrameHead) (entry : BitVec 12) (join : BitVec 16) (status : BitVec 3) (data : BitVec 512) (s : State) : Out :=
  let d := leBytes 64 data.toNat
  let f := asFrame head 7 (entry.toNat + join.toNat * 4096 + status.toNat * 2 ^ 28) d
  onFrame s head (fun s => deliver s head f (fun s => takeReply s head.ctx.toNat entry.toNat join.toNat status.toNat d))

/-! ## Mirroring, the sender (R446–R448) -/

/-- The route block of a route (R447). -/
def routeBlock (s : State) (r : Route) : List Byte :=
  let c := seqOf r
  let w (a : Nat) : List Byte := leBytes 4 (reg s a)
  leBytes 1 r.route ++ leBytes 1 c ++ leBytes 2 r.chanFirst ++ leBytes 2 r.chanCount
    ++ leBytes 1 (fld s (Reg.SYN_RT_CTRL r.route) 15 8) ++ [0] ++ w (Reg.SYN_RT_PITCH r.route) ++ w (Reg.SYN_RT_GEOM r.route)
    ++ leBytes 2 (leadOf s s.regs r.route) ++ List.replicate 6 0
    ++ (List.range 7).flatMap (fun k => w (Reg.TRK_RT_CTRL r.route + 4 * k))
    ++ w (Reg.CAM_MOUNT_XY c) ++ w (Reg.CAM_MOUNT_Z c) ++ w (Reg.CAM_MOUNT_YP c)

/-- The route blocks of the plan in force. -/
def routeBlocks (s : State) : Map (List Byte) := s.fab.plan.routes.map (fun r => (r.route, routeBlock s r))

/-- Lists of at most k elements. -/
def chunksGo {α : Type} (k : Nat) : Nat → List α → List (List α)
  | 0, _ => []
  | _, [] => []
  | n + 1, l => l.take k :: chunksGo k n (l.drop k)
def chunks {α : Type} (k : Nat) (l : List α) : List (List α) := chunksGo k l.length l

/-- The beats of section TRACKS: slots two by two. -/
def trackBeats (s : State) : List MirrorBeat :=
  let slots := if s.lys.sendFull then s.trk.slots.map (·.1) else s.trk.changed
  (chunks 2 slots).map (fun l =>
    let a := (l[0]?).getD 0
    let b := (l[1]?).getD a
    { sect := 1, info := a + b * 4096, payload := trackBytes (Map.get s.trk.slots a) ++ trackBytes (Map.get s.trk.slots b) })

/-- The beats of section POSE: the machine's record and those of the cameras that routes name, both of a pair, in ascending order. -/
def poseBeats (s : State) : List MirrorBeat :=
  let named := s.fab.plan.routes.flatMap (fun r => portsOf r.source)
  let cams := (List.range 16).filter named.contains
  { sect := 2, info := 0, payload := poseBytes s.cam.pose }
    :: cams.map (fun c => { sect := 2, info := 1 + c, payload := poseBytes (cameraPose s c s.cam.pose) })

/-- The beats of section SHIFTS: the offsets of the tick's guarded tensors in tensor order. (DEDUCED, assumption 96.) -/
def shiftBeats (s : State) : List MirrorBeat :=
  let l := s.slv.guards.filter (fun e => e.1 / 4096 == tickNow s)
  (chunks 64 l).map (fun c =>
    let b := c.flatMap (fun e => leBytes 1 (wrap 8 ((e.2.offs.getLast?).getD 0)))
    { sect := 3, info := ((c.head?).map (·.1 % 4096)).getD 0, payload := b ++ List.replicate (64 - b.length) 0 })

/-- The beats of section LOG: at most 16,384 words. -/
def logBeats (s : State) : List MirrorBeat :=
  let l := chunks 8 (s.lys.logWords.take 16384)
  (l.zip (List.range l.length)).map (fun c =>
    let b := c.1.flatMap (fun e => leBytes 4 e.1 ++ leBytes 4 e.2.toNat)
    { sect := 4, info := c.2, payload := b ++ List.replicate (64 - b.length) 0 })

/-- The beats of section ROUTES: at a plan switch, after a change of a field, and in a FULL batch. -/
def blockBeats (s : State) : List MirrorBeat :=
  let bs := routeBlocks s
  if s.lys.routesDue || s.lys.sendFull || bs != s.lys.blocks then
    bs.map (fun e => { sect := 5, info := e.1, payload := e.2 }) else []

/-- A mirror frame to the partner. -/
def mirrorFrame (s : State) (typ info : Nat) (payload : List Byte) : LFrame :=
  { typ := typ, dst := partnerId s, src := ringId s, ctx := 0xFF, hops := 0, info := info, payload := payload, input := 65, tag := 32 }

/-- The MIRROR_END payload of a batch (R447). -/
def endPayload (s : State) (beats : List MirrorBeat) : List Byte :=
  let n (k : Nat) : List Byte := leBytes 2 (beats.filter (fun b => b.sect == k)).length
  let body := leBytes 8 (tickNow s) ++ leBytes 4 s.com.epoch ++ n 1 ++ n 2 ++ n 3 ++ n 4 ++ n 5 ++ leBytes 2 beats.length
    ++ leBytes 4 (b2n s.lys.sendFull + 2 * b2n (decide (16384 < s.lys.logWords.length))) ++ List.replicate 32 0
  body ++ leBytes 4 (crc32 (beats.flatMap (·.payload)))

/-- Section TRACKS waits for the tick's decision jobs. -/
def decisionsOpen (s : State) : Bool :=
  s.sch.hud.any (fun e => e.2.romDue.any (fun d => d.1 == 3) || e.2.rom.any (fun j => j.kind == 3))

/-- MIRROR_SECTION_SEND: the next section of the tick's batch is queued, and MIRROR_END after the last (R446). -/
def mirrorSectionSend (s : State) : State :=
  let k := s.lys.sendSect
  if !isPaired s || decide (5 < k) || (k == 1 && decisionsOpen s) then s
  else
    let bs := if k = 1 then trackBeats s else if k = 2 then poseBeats s else if k = 3 then shiftBeats s
      else if k = 4 then logBeats s else blockBeats s
    let s1 := bs.foldl (fun s b => sendData s (mirrorFrame s 8 (b.sect + b.info * 256) b.payload)) s
    let all := s.lys.sendBeats ++ bs
    let s2 := { s1 with lys := { s1.lys with sendSect := k + 1, sendBeats := all },
                        trk := { s1.trk with changed := if k = 1 then [] else s1.trk.changed } }
    if k < 5 then s2
    else
      let s3 := sendData s2 (mirrorFrame s2 9 0 (endPayload s2 all))
      { s3 with lys := { s3.lys with sent := all.length, blocks := routeBlocks s, routesDue := false } }

/-- MIRROR_SECTION_SEND. -/
def execMirrorSectionSend (s : State) : Out := .next (mirrorSectionSend s)

/-! ## Mirroring, the receiver (R448) -/

/-- A beat joins the batch; a section below the latest one opens a new batch, and the one before it had no END. -/
def takeBeat (s : State) (b : MirrorBeat) : State :=
  let old := s.lys.batch
  let back := match old.getLast? with | some x => decide (b.sect < x.sect) | none => false
  { s with lys := { s.lys with batch := if back then [b] else old ++ [b] } }

/-- MIRROR. -/
def execMirror (head : FrameHead) (sect : Byte) (info : BitVec 24) (data : BitVec 512) (s : State) : Out :=
  let d := leBytes 64 data.toNat
  let f := asFrame head 8 (sect.toNat + info.toNat * 256) d
  onFrame s head (fun s => deliver s head f (fun s =>
    if isPaired s ∧ f.src = partnerId s then takeBeat s { sect := sect.toNat, info := info.toNat, payload := d } else s))

/-- A batch is missing or fails its check: MIRROR_GAP (R448). -/
def mirrorGap (s : State) : State := event { s with lys := { s.lys with gap := true } } Reg.LYS_EVENTS 5

/-- A MIRROR_END closes the batch, which is checked and waits for the next Whistle. -/
def takeEnd (s : State) (d : List Byte) : State :=
  let beats := s.lys.batch
  let n (k : Nat) : Nat := (beats.filter (fun b => b.sect == k)).length
  let w := fieldLE d 0 8
  let flags := fieldLE d 0x18 4
  let ok := (List.range 5).all (fun k => fieldLE d (0x0C + 2 * k) 2 == n (k + 1)) && fieldLE d 0x16 2 == beats.length
    && beats.all (fun b => decide (1 ≤ b.sect ∧ b.sect ≤ 5)) && fieldLE d 0x3C 4 == crc32 (beats.flatMap (·.payload))
  let missing := match s.lys.lastEnd with | some v => w != (v + 1) % 2 ^ 48 | none => false
  let s1 := { s with lys := { s.lys with batch := [], lastEnd := some w, received := beats.length } }
  let s2 := if missing || !ok then mirrorGap s1 else s1
  if !ok then s2
  else { s2 with lys := { s2.lys with ready := s2.lys.ready ++ [(w, flags, beats)],
                                      gap := if bit flags 0 then false else s2.lys.gap } }

/-- MIRROR_END. -/
def execMirrorEnd (head : FrameHead) (data : BitVec 512) (s : State) : Out :=
  let d := leBytes 64 data.toNat
  let f := asFrame head 9 0 d
  onFrame s head (fun s => deliver s head f (fun s => if isPaired s ∧ f.src = partnerId s then takeEnd s d else s))

/-- One beat applied to the mirror copy. The offsets stand in it as they were sent, by the first tensor ID of each beat.
(DEDUCED, assumption 96.) -/
def Mirror.apply (m : Mirror) (b : MirrorBeat) : Mirror :=
  if b.sect = 1 then
    { m with tracks := Map.set (Map.set m.tracks (b.info % 4096) (slice b.payload 0 32)) (b.info / 4096) (slice b.payload 32 32) }
  else if b.sect = 2 then { m with poses := Map.set m.poses (b.info % 256) b.payload }
  else if b.sect = 3 then
    { m with offsets := Map.set m.offsets b.info b.payload }
  else if b.sect = 5 then { m with routes := Map.set m.routes b.info b.payload }
  else m

/-- A complete batch is applied at a Whistle (R448, R453). A batch that carries route blocks carries them all. -/
def applyBatch (s : State) (b : Nat × Nat × List MirrorBeat) : State :=
  let m0 := s.lys.mirror
  let m1 := if bit b.2.1 0 then { m0 with tracks := [] } else m0
  let m2 := if b.2.2.any (fun x => x.sect == 5) then { m1 with routes := [] } else m1
  let m3 := if b.2.2.any (fun x => x.sect == 3) then { m2 with offsets := [] } else m2
  let m := b.2.2.foldl Mirror.apply m3
  let head := (poseOf ((Map.get m.poses 0).getD [])).heading
  { s with lys := { s.lys with mirror := m, batchW := b.1, batchAt := s.clk.next - 1, ownPose := s.cam.pose,
                               headDiff := wrap 32 ((head : Int) - s.cam.pose.heading) } }

/-- Every complete batch is applied in order. -/
def applyBatches (s : State) : State := s.lys.ready.foldl applyBatch { s with lys := { s.lys with ready := [] } }

/-! ## Heartbeats (R449) -/

/-- STATE of the heartbeat that the device sends. -/
def beatState (s : State) : Nat :=
  if s.sec.bench || s.frs.faultSafe || shedStep s 6 || shedStep s 7 then 1 else if s.lys.gap then 2 else 0

/-- HEARTBEAT_SEND: at W + 4.0 µs, on both links. -/
def execHeartbeatSend (s : State) : Out :=
  .next (if !isPaired s || !s.clk.started then s
    else
      let s1 := advance s (s.clk.inst + 4000 * tuNs)
      let f : LFrame := { typ := 4, dst := partnerId s1, src := ringId s1, ctx := 0xFF, hops := 0,
                          info := tickNow s1 % 65536 + beatState s1 * 65536, payload := List.replicate 64 0 }
      controlOn (controlOn s1 0 f) 1 f)

/-- A heartbeat's number is that of the present tick or a later one: it runs on from the latest one that counted as the own ticks do, so that
a replayed or a late one does not count. The first one sets the count. (DEDUCED, assumption 93.) -/
def beatCounts (s : State) (tick : Nat) : Bool :=
  match s.lys.beatAt with
  | none => true
  | some (n, t) => decide ((tick + 65536 + t % 65536 + 65536 - n % 65536 - tickNow s % 65536) % 65536 < 32768)

/-- HEARTBEAT: the partner's heartbeat (R449, R450). (DEDUCED, assumption 93.) -/
def execHeartbeat (head : FrameHead) (tick : BitVec 16) (state : BitVec 4) (s : State) : Out :=
  let f := asFrame head 4 (tick.toNat + state.toNat * 65536) (List.replicate 64 0)
  onFrame s head (fun s => deliver s head f (fun s =>
    if !isPaired s || f.src != partnerId s then s
    else
      let st := state.toNat
      let s1 := if st = 2 then { s with lys := { s.lys with fullNext := true } } else s
      if (st = 0 ∨ st = 2) ∧ beatCounts s1 tick.toNat = true then
        let s2 := if s1.lys.takeover && !s1.lys.partnerOk then event s1 Reg.LYS_EVENTS 8 else s1
        { s2 with lys := { s2.lys with heard := true, partnerOk := true, beatAt := some (tick.toNat, tickNow s2) } }
      else s1))

/-- HEARTBEAT_DEADLINE: at W_{T+1} − 10 µs a heartbeat of T that has not arrived is missed; after two in a row the takeover is due
(R449, R450). -/
def execHeartbeatDeadline (s : State) : Out :=
  .next (if !isPaired s || !s.clk.started then s
    else
      let s1 := advance s (nextInst s - 10000 * tuNs)
      if s1.lys.heard then { s1 with lys := { s1.lys with missed := 0 } }
      else
        let n := min 3 (s1.lys.missed + 1)
        { s1 with lys := { s1.lys with missed := n, partnerOk := false, beatAt := if 2 ≤ n then none else s1.lys.beatAt,
                                       tkDue := s1.lys.tkDue || (decide (2 ≤ n) && !s1.lys.takeover) } })

/-! ## Takeover (R450–R453) -/

/-- The takeover that is due applies at a Whistle, or is refused (R450); a batch that is incomplete then is discarded (R455). -/
def takeoverWhistle (s : State) (w : Nat) : State :=
  if !s.lys.tkDue then s
  else
    let s1 := { s with lys := { s.lys with tkDue := false } }
    if fld s Reg.LYS_TK 0 0 = 0 ∨ fld s Reg.LYS_TK 15 8 = 0xFF ∨ s.lys.mirror.routes.isEmpty = true then
      event (event s1 Reg.LYS_EVENTS 2) Reg.LYS_EVENTS 9
    else
      let s2 := { s1 with lys := { s1.lys with takeover := true, tkOn := 0, tkRun := [], batch := [] },
                          frs := { s1.frs with takeoverAt := some w }, com := { s1.com with epochUp := true } }
      logEvent (event s2 Reg.LYS_EVENTS 3) 0x72 14 FAULT (arg1 (partnerId s2) ++ argN 2 s2.lys.batchW)

/-- The takeover job of each tick becomes due (R453). -/
def takeoverDue (s : State) (w : Nat) : State :=
  if s.lys.takeover then romPush s 6 (fld s Reg.LYS_TK 15 8) w (s.clk.inst + 2000 * tuNs) else s

/-- Every mirrored pose advances by the change of the own machine pose, rotated by the difference of the headings (R453). -/
def advanceMirror (s : State) : State :=
  let now := s.cam.pose
  let was := s.lys.ownPose
  let d := rotZ (fTurns (s.lys.headDiff : Nat)) { x := fInt (now.x - was.x), y := fInt (now.y - was.y), z := 0 }
  let step (b : List Byte) : List Byte :=
    let p := poseOf b
    poseBytes { p with x := p.x + fRound d.x, y := p.y + fRound d.y, pitch := p.pitch + now.pitch - was.pitch,
                       roll := p.roll + now.roll - was.roll,
                       heading := wrap 32 ((p.heading : Int) + now.heading - was.heading) }
  { s with lys := { s.lys with ownPose := now, mirror := { s.lys.mirror with
      poses := s.lys.mirror.poses.map (fun e => (e.1, step e.2)) } } }

/-- A mirrored route as the takeover job sees it: its block's fields, in the registers of its route and camera. -/
def mirrorImage (s : State) (b : List Byte) : Map Word :=
  let r := fieldLE b 0 1
  let c := fieldLE b 1 1
  let put (m : Map Word) (e : Nat × Nat) : Map Word := Map.set m e.1 (BitVec.ofNat 32 e.2)
  ([(Reg.SYN_RT_PITCH r, fieldLE b 8 4), (Reg.SYN_RT_GEOM r, fieldLE b 0xC 4), (Reg.SYN_RT_CTRL r, fieldLE b 6 1 * 256),
    (Reg.CAM_MOUNT_XY c, fieldLE b 0x34 4), (Reg.CAM_MOUNT_Z c, fieldLE b 0x38 4), (Reg.CAM_MOUNT_YP c, fieldLE b 0x3C 4),
    (Reg.CAM_MOUNT_ROLL c, 0)]
    ++ (List.range 7).map (fun k => (Reg.TRK_RT_CTRL r + 4 * k, fieldLE b (0x18 + 4 * k) 4))).foldl put s.regs

/-- The survivor's channels for a partner channel: one on every takeover chain that carries it (R452). -/
def tkChannels (s : State) (ch : Nat) : List Nat :=
  let tk := fld s Reg.FRS_CHAIN_EN 15 8
  ((List.range 8).filter (fun m => tk.testBit m && bits (reg s Reg.LYS_TK_MAP) (3 * m + 2) (3 * m) == ch / 128)).map
    (fun m => 128 * m + ch % 128)

/-- The partner's Whistle counter at own Whistle w. -/
def partnerTick (s : State) (w : Nat) : Nat := s.lys.batchW + 1 + w - s.lys.batchAt

/-- A mirrored route: passage of its tracks, and the words of its channels in the entry of line W + 1 (R304, R453). -/
def takeoverRoute (s : State) (w : Nat) (e : Nat × List Byte) : State :=
  let b := e.2
  let r := fieldLE b 0 1
  let c := fieldLE b 1 1
  let img := mirrorImage s b
  let machine := poseOf ((Map.get s.lys.mirror.poses 0).getD [])
  let cam := poseOf ((Map.get s.lys.mirror.poses (1 + c)).getD [])
  let pass := sweepGeom s img r c cam
  let pw := partnerTick s w
  let upd (t : List Byte) : List Byte :=
    match trackOf t with
    | none => t
    | some x =>
      if x.route ≠ r then t
      else
        let z := if passedTrack s img r pass x = true then { x with state := 3 } else x
        trackBytes (retained s img pw z)
  let tracks := s.lys.mirror.tracks.map (fun t => (t.1, upd t.2))
  let s1 := { s with lys := { s.lys with mirror := { s.lys.mirror with tracks := tracks } } }
  let g := sweepGeom s img r c (cameraPose { s with regs := img } c (poseAhead machine 1))
  let k := { chanCtl s img r with blind := fld s Reg.LYS_TK 2 1 }
  let per := periodF (reg s Reg.WHS_PERIOD)
  let v := cam.speed
  let span := lineSpan v k.adv per
  let w0 := fsub span.1 k.back
  let w1 := fadd span.2 k.front
  let conf := (tracks.filterMap (fun t => trackOf t.2)).filter (fun t => t.route == r && t.state == 2)
  (List.range (fieldLE b 4 2)).foldl (fun s n =>
    let ch := fieldLE b 2 2 + n
    let own := tkChannels s ch
    if own.isEmpty then s
    else
      let st := stripOf k n
      let ev : Evidence := { known := 0, r := 0, q := 0, spans := [], tracks := conf.filterMap (trackSpan g st.1 st.2 w0 w1) }
      let o := decideChan k v per span.1 ev (s.lys.tkOn.testBit ch) (Map.getD s.lys.tkRun ch 255)
      let s1 := { s with lys := { s.lys with tkOn := setBits s.lys.tkOn ch ch (b2n o.on), tkRun := Map.set s.lys.tkRun ch o.run } }
      own.foldl (fun s c => entryWrite s (w + 1) (0x40 + 4 * c) (leBytes 4 o.word)) s1) s1

/-- TAKEOVER_JOB: the job of the tick starts on LYS_TK.HUD ahead of its other work (R453). (DEDUCED, assumption 97.) -/
def takeoverJob (s0 : State) (h : Nat) : State :=
  match romDueOf s0 6 h with
  | none => s0
  | some d =>
    let room := romMakeRoom (advance s0 d.2.2.2) h
    let s2 := room.1
    if !room.2 then s2
    else romStart (advanceMirror (romTaken s2 d)) { newRom s2 6 h (fld s2 Reg.LYS_TK_JOB 23 0) with tick := d.2.2.1 }

/-- TAKEOVER_JOB. -/
def execTakeoverJob (huddle : Byte) (s : State) : Out := .next (takeoverJob s huddle.toNat)

/-- The end of the takeover job: the words of line W + 1 are in its entry. -/
def endTakeover (s : State) (j : Job) : State :=
  let s1 := s.lys.mirror.routes.foldl (fun s e => takeoverRoute s j.tick e) s
  romRemove { s1 with lys := { s1.lys with tkLine := some (j.tick + 1) } } j true

/-! ## Whistle alignment (R454) -/

/-- The link over which a follower reads SYNC: the one with fewer hops toward device 0, link 0 on a tie. -/
def syncLink (s : State) : Nat := if ringId s ≤ ringSize s - ringId s then 0 else 1

/-- LOCKED is lost. -/
def syncLost (s : State) : State :=
  let s1 := { s with lys := { s.lys with syncRun := 0, locked := false } }
  if s.lys.locked then logEvent (event s1 Reg.LYS_EVENTS 4) 0x73 14 WARN (arg1 (wrap 8 (clampI (-128) 127 s.lys.syncErr))) else s1

/-- A follower takes a SYNC: e, the correction of its next Whistle, LOCKED and COUNT_OFFSET. (DEDUCED, assumption 94.) -/
def takeSync (s : State) (n period count arrival : Nat) : State :=
  if ringId s = 0 ∨ n ≠ syncLink s ∨ s.clk.started = false then s
  else if period ≠ reg s Reg.WHS_PERIOD then { s with lys := { s.lys with mismatch := true } }
  else
    let s0 := advance s (arrival * tuEdge)
    let t : Int := ((arrival * tuEdge : Nat) : Int) - ((linkOf s0 n).delay * tuEdge : Nat) - s0.clk.inst
    let early := (period_ s0 : Int) < 2 * t
    let e := rneDiv (if early then t - period_ s0 else t) tuEdge
    let own := if early then s0.clk.next else s0.clk.next - 1
    let near := decide (e.natAbs ≤ 8)
    let run := if near then min 16 (s0.lys.syncRun + 1) else 0
    let s1 := if near then s0 else syncLost { s0 with lys := { s0.lys with syncErr := e } }
    let lock := decide (16 ≤ run)
    { s1 with
      clk := { s1.clk with corr := clampI (-(128 * tuNs : Nat)) (128 * tuNs : Nat) (e * tuEdge) },
      lys := { s1.lys with syncErr := e, syncRun := run, synced := true, mismatch := false, locked := s1.lys.locked || lock,
                           offset := if lock && !s1.lys.locked then (count + 2 ^ 48 - own % 2 ^ 48) % 2 ^ 48 else s1.lys.offset } }
where
  /-- The period in force in time units. -/
  period_ (s : State) : Nat := Sys2Proof.Machine.period s

/-- SYNC. -/
def execSyncFrame (head : FrameHead) (period : Word) (count : BitVec 48) (arrival : BitVec 64) (s : State) : Out :=
  onFrame s head (fun s => takeSync s head.link.val period.toNat count.toNat arrival.toNat)

/-! ## At a Whistle -/

/-- SYNC goes out on both links after each Whistle, with the master counter of that Whistle (R454). -/
def sendSync (s : State) : State :=
  let count := if ringId s = 0 then tickNow s else (tickNow s + s.lys.offset) % 2 ^ 48
  let f : LFrame := { typ := 3, dst := 0, src := ringId s, ctx := 0xFF, hops := 0, info := reg s Reg.WHS_PERIOD,
                      payload := leBytes 8 count ++ List.replicate 56 0 }
  controlOn (controlOn s 0 f) 1 f

/-- The links after a commit: enabled ones leave DOWN, disabled ones return to it, and a change of ID, SIZE or PAIR sends enabled
links back to DETECT (R433, R435). -/
def linksApplied (s before : State) : State :=
  let changed := fld s Reg.LYS_RING 8 0 != fld before Reg.LYS_RING 8 0
  [0, 1].foldl (fun s n =>
    if !linkEnabled s n then setLinkState s n 0 0
    else if changed || (linkOf s n).state == 0 then setLinkState s n 1 0
    else s) s

/-- The status page of the block (R456). -/
def lysPage (s : State) (read : State → Nat → Nat) : List Byte :=
  (upTo 4 11).flatMap (fun k => leBytes 4 (read s (0x130000 + 4 * k)))
    ++ [0, 1].flatMap (fun n => (List.range 8).flatMap (fun k => leBytes 4 (read s (0x130100 + 0x20 * n + 4 * k))))

/-- The block at Whistle w, after the commit: batches apply, slot counts close, a tick without SYNC loses LOCKED, and a new batch
begins. -/
def lysWhistle (s : State) : State :=
  let s1 := applyBatches s
  let s2 := [0, 1].foldl (fun s n => let l := linkOf s n; setLink s n { l with slots := l.slotTick, slotTick := 0, control := [] }) s1
  let s3 := if !s2.lys.synced && ringId s2 != 0 then syncLost s2 else s2
  sendSync { s3 with lys := { s3.lys with synced := false, heard := false, sendSect := if isPaired s3 then 1 else 6, sendBeats := [],
                                          sendFull := s3.lys.fullNext, fullNext := false } }

/-! ## Registers (R456) -/

def lysSyncStatus (s : State) : Nat :=
  b2n (ringId s == 0 && decide (2 ≤ ringSize s)) + 2 * b2n s.lys.locked + 4 * b2n s.lys.mismatch
    + wrap 8 (clampI (-128) 127 s.lys.syncErr) * 256
def lysPairStatus (s : State) : Nat :=
  b2n s.lys.partnerOk + 2 * b2n s.lys.takeover + (min 3 s.lys.missed) * 4 + (s.lys.batchW % 65536) * 65536
def linkStatus (l : LLink) : Nat := l.state + 8 * b2n l.narrow + l.cause * 16 + l.peer * 256 + l.laneOk * 65536

/-- A register of the block that shows state. -/
def lysView (s : State) (a : Nat) : Option Nat :=
  if a = Reg.LYS_SYNC_STATUS then some (lysSyncStatus s)
  else if a = Reg.LYS_SYNC_OFFSET_LO then some (s.lys.offset % 2 ^ 32)
  else if a = Reg.LYS_SYNC_OFFSET_HI then some s.lys.offsetLatch
  else if a = Reg.LYS_PAIR_STATUS then some (lysPairStatus s)
  else if a = Reg.LYS_MIRROR_BEATS then some (s.lys.sent % 65536 + (s.lys.received % 65536) * 65536)
  else
    [0, 1].findSome? (fun n =>
      let l := linkOf s n
      let o := 0x130100 + 0x20 * n
      if a = o then some (linkStatus l) else if a = o + 4 then some l.delay
      else if a = o + 8 then some (l.crc + l.replays * 65536) else if a = o + 0xC then some (l.retrains + l.fails * 65536)
      else if a = o + 0x10 then some l.slots else none)

end Sys2Proof.Machine
end

