-- ==== Sys2Proof/Machine/Views.lean ====
section
/-! DEFINITION. What a register reads (R11, R30, R32, R423): the registers that show state, and every other as it is stored. -/

namespace Sys2Proof.Machine

/-- The state as each plan's jobs see it: the plan in force first, then the plans left by a switch (R84). -/
def planViews (s : State) : List State := s :: (List.range s.sch.old.length).map (swapOld s)

/-! ## Matrix Engines (R206) -/

/-- The job of an engine with its place among the leaf's engines. -/
def engineJob (s : State) (e : Nat) : Option (Nat × Job × Nat × Nat) := (planViews s).findSome? (fun v => jobOfEngine v e)

/-- The leaf that owns an engine. -/
def engineOwner (s : State) (e : Nat) : Nat :=
  if s.fab.inForce then
    ((s.fab.plan.huddles.find? (fun h => !h.composite && h.engineMask.testBit e)).map (·.id)).getD 0xFF
  else 0xFF

/-- The word at offset `o` of engine e's registers that shows state. -/
def engineView (s : State) (e o : Nat) : Option Nat :=
  let j := engineJob s e
  let desc := (j.map (fun x => x.2.1.desc)).getD 0
  if o = 0 then
    some (b2n j.isSome + 2 * b2n (shedStep s 4) + 4 * b2n (s.slv.engineFail.testBit e) + engineOwner s e * 2 ^ 8
      + ((j.map (fun x => x.2.1.epoch % 65536)).getD 0) * 2 ^ 16)
  else if o = 4 then some (desc % 2 ^ 32)
  else if o = 8 then some (desc / 2 ^ 32 % 256)
  else if o = 0xC then some (match j with
    | some (_, x, k, n) => (nextTile x (parseMe x.bytes).ncb n k).getD 0 % 2 ^ 32
    | none => 0)
  else none

/-! ## Sliver cores (R244) -/

/-- The sliver or ROM stage job that runs on a squad. -/
def squadJob (s : State) (q : Nat) : Option Job :=
  (planViews s).findSome? (fun v => (v.sch.hud.flatMap (fun e => runningJobs e.2)).find? (fun j =>
    j.kind != 0 && j.cores.any (fun l => l / 16 == q)))

/-- The word at offset `o` of squad q's registers. -/
def squadView (s : State) (q o : Nat) : Nat :=
  let x := squadOf s q
  let a := squadActive s q
  if o = 0 then
    a + 32 * b2n x.spare + 64 * b2n (a == 15) + 128 * b2n x.lost + ((squadOwner s q).map (·.id)).getD 0xFF * 2 ^ 8
      + ((squadJob s q).map (fun j => j.epoch % 65536)).getD 0 * 2 ^ 16
  else if o = 4 then x.bench
  else if o = 8 then x.sub.getD 0 + 16 * b2n x.sub.isSome + (x.off.getD 0) * 2 ^ 8 + b2n x.off.isSome * 2 ^ 12
  else x.jobs

/-- The league's counts: active cores, squads of 15, benched cores, LOST squads. -/
def leagueView (s : State) (a : Nat) : Option Nat :=
  let qs := s.slv.squads
  if a = Reg.SLV_SUMMARY then
    some (4096 - sumN (qs.map (fun e => 16 - squadActive s e.1))
      + (qs.filter (fun e => squadActive s e.1 == 15)).length * 2 ^ 16)
  else if a = Reg.SLV_DUGOUT then
    some (sumN (qs.map (fun e => popcount 17 e.2.bench)) + (qs.filter (fun e => e.2.lost)).length * 2 ^ 16)
  else if a = Reg.SLV_CHECK then some (b2n s.slv.checkDone + s.slv.checkFailed * 2 ^ 16)
  else none

/-! ## Contexts (R387) -/

/-- A job of the context runs. -/
def ctxRuns (s : State) (c : Nat) : Bool :=
  (planViews s).any (fun v => v.sch.hud.any (fun e => e.2.group.any (fun j => j.ctx == c)))

/-- The word at offset `o` of context c's registers that shows state. -/
def ctxView (s : State) (c o : Nat) : Option Nat :=
  match Map.get s.sch.ctxs c with
  | none => if o = 0x10 then some 0xFF00 else if o = 0x14 then some 0 else none
  | some x =>
    let r := x.record
    if o = 0x10 then
      some (1 + 2 * r.role + 4 * b2n (ctxRuns s c) + 8 * b2n (!x.preempted.isEmpty) + 16 * b2n x.suspended + r.huddle * 2 ^ 8
        + (x.epoch % 65536) * 2 ^ 16)
    else if o = 0x14 then some (x.banks.length + r.rx4k * 2 ^ 16)
    else if r.role = 0 ∧ 4 ≤ o ∧ o ≤ 0xC then some (reg s (Reg.HUD_JOB_LO r.huddle + (o - 4)))
    else none

/-! ## Memories and the host port (R406, R431) -/

/-- A MEM register that shows state. -/
def memView (s : State) (a : Nat) : Option Nat :=
  let m := s.mem
  if a = Reg.MEM_STATUS then
    some (m.sr % 256 + b2n (m.courtReady && m.trained == 0xFF) * 2 ^ 8 + m.copies.length * 2 ^ 16)
  else if a = Reg.MEM_TOL then some ((tolInForce s).getD 0xFFFFFFFF)
  else if a = Reg.MEM_ERR_ADDR_HI then some m.errHi
  else if a = Reg.MEM_ERR_INFO then some m.errInfo
  else (List.range 8).findSome? (fun k =>
    if a = Reg.MEM_CH_STATUS k then
      some (b2n (m.sr.testBit k) + 2 * b2n (m.trained.testBit k) + fld s (Reg.MEM_CH_STATUS k) 10 8 * 2 ^ 8)
    else none)

/-- Mode register n in force: the operating set point's copy where it has copies. -/
def modeReg (s : State) (key : Nat) (n : Nat) : Nat :=
  (Map.getD s.hpt.mr key (Config.modeRegisterDefault n).toNat)

/-- The number under which set point f's copy of mode register n is kept. -/
def fspKey (f n : Nat) : Nat := 256 * (f + 1) + n

/-- A set-point register as the port follows it: from the latest switch of set points on (R418). -/
def inForceReg (s : State) (n : Nat) : Nat := Map.getD s.hpt.inUse n (Config.modeRegisterDefault n).toNat

/-- HPT_STATUS: the bank organisation is BG where MR3 OP[4:3] in force is 0. (PRESUMED, assumption 15.) -/
def hptStatus (s : State) : Nat :=
  reg s Reg.HPT_STATUS % 64 + b2n (s.pwr.phase == .run) * 2 ^ 8 + b2n s.hpt.asleep * 2 ^ 9 + (s.hpt.fspOp % 4) * 2 ^ 10
    + b2n (bits (inForceReg s 3) 4 3 == 0) * 2 ^ 12
    + ofPositions (s.hpt.banks.map (·.1)) * 2 ^ 16

/-! ## WHS, FRS, LOG, PMC -/

/-- The timestamp of the latest Whistle. -/
def whistleTs (s : State) : Nat := s.clk.inst / tuStep

/-- A WHS register that shows state (R49, R59). -/
def whsView (s : State) (a : Nat) : Option Nat :=
  let page (lo : Nat) : Nat :=
    if s.com.checking then ofPositions ((s.com.pages.filter (fun p => decide (lo ≤ p) && decide (p < lo + 32))).map (· - lo)) else 0
  if a = Reg.WHS_IRQ_STATUS then some (irqStatus s)
  else if a = Reg.WHS_EPOCH then some s.com.epoch
  else if a = Reg.WHS_COUNT_LO then some (tickNow s % 2 ^ 32)
  else if a = Reg.WHS_COUNT_HI then some s.clk.countHi
  else if a = Reg.WHS_TS_LO then some (whistleTs s % 2 ^ 32)
  else if a = Reg.WHS_TS_HI then some s.clk.tsHi
  else if a = Reg.WHS_STATUS then some (b2n s.com.checking + 2 * b2n (s.com.lateWait || decide (0 < s.com.late)))
  else if a = Reg.WHS_SUBMIT_LO then some (page 0)
  else if a = Reg.WHS_SUBMIT_HI then some (page 32)
  else none

/-- A LOG register that shows state (R542). -/
def logView (s : State) (a : Nat) : Option Nat :=
  if a = Reg.LOG_COUNT then some s.log.count
  else if a = Reg.LOG_DROPPED then some s.log.dropped
  else if a = Reg.LOG_FILTERED then some s.log.filtered
  else if a = Reg.LOG_PERSIST then some s.log.persist
  else none

/-- The time until the next fetch point, less 1,000 ns: the tolerance of the line-ring banks (R338). (DESIGN CHOICE, assumption 58.) -/
def frsTol (s : State) : Nat :=
  let next := if s.clk.now < fetchInst s then fetchInst s else fetchInst s + period s
  if s.clk.started then (next - s.clk.now) / tuNs - 1000 else 0

/-- A register that shows state, by its row of the register tables. -/
def stateView (s : State) (a : Nat) : Option Nat :=
  let o := a % 0x10000
  match a / 0x10000 with
  | 0x1 => whsView s a
  | 0x2 => fabView s a
  | 0x3 => fabView s a
  | 0x4 =>
    if o < 0x800 ∧ o % 0x80 = 0x50 then some (portStatus s (o / 0x80))
    else if 0x1000 ≤ o ∧ o < 0x1060 ∧ o % 0x20 = 4 then some (busStatus s ((o - 0x1000) / 0x20))
    else if a = Reg.CAM_PPS_TS_HI then some s.cam.ppsHi
    else none
  | 0x6 =>
    if o < 0x400 ∧ o % 0x40 = 0x14 then some (visNeed s (o / 0x40) 0 + visNeed s (o / 0x40) 1 * 2 ^ 16)
    else if o < 0x400 ∧ o % 0x40 = 0x18 then some (visStatus s (o / 0x40))
    else if a = Reg.VSN_ENG_BUSY then some (visBusy s)
    else if a = Reg.VSN_PB_INFO then
      some (if s.fab.inForce then s.fab.plan.playbooks.length % 256 + b2n s.fab.plan.pattern.isSome * 2 ^ 8 else 0)
    else none
  | 0x8 =>
    if o < 0x400 then engineView s (o / 0x40) (o % 0x40)
    else if a = Reg.MXE_CHECK then some (s.slv.engineFail % 2 ^ 16 + b2n s.slv.engineDone * 2 ^ 16)
    else none
  | 0xA => if o < 0x1000 then some (squadView s (o / 0x10) (o % 0x10)) else none
  | 0xB => leagueView s a
  | 0xC => if a = Reg.SYN_VW_STATUS then some (viewStatus s) else none
  | 0xE =>
    if a = Reg.FRS_EHOLD then some (s.frs.ehold % 4 + 4 * b2n s.frs.releasePending)
    else if a = Reg.FRS_TOL then some (frsTol s)
    else if a = Reg.FRS_STATUS then some (setBits (reg s a) 0 0 (fld s Reg.FRS_CTRL 0 0))
    else none
  | 0xF =>
    if a = Reg.VRS_STATUS then some (vrsStatus s)
    else if a = Reg.VRS_TOL then some (viewTol s)
    else if vrsAddrs.contains a then some (vrsRead s a)
    else none
  | 0x10 =>
    if o < 0x400 then ctxView s (o / 0x20) (o % 0x20)
    else if a = Reg.SCH_POOL then
      some (if s.fab.inForce then (poolOf s.fab.plan).length + (poolFree s.fab.plan s.sch.ctxs).length * 2 ^ 16 else 0)
    else if a = Reg.SCH_RESIDENT then some (ofPositions (s.sch.ctxs.map (·.1)))
    else none
  | 0x11 => memView s a
  | 0x12 =>
    if a = Reg.HPT_STATUS then some (hptStatus s) else if a = Reg.HPT_RATE then some Config.hostRate.toNat else none
  | 0x13 => lysView s a
  | 0x14 => secView s a
  | 0x15 => pwrView s a
  | 0x16 => logView s a
  | 0x17 =>
    if o < 0x400 ∧ o % 0x10 = 8 then some (Map.getD s.pmc.count (o / 0x10) 0 % 2 ^ 32)
    else if o < 0x400 ∧ o % 0x10 = 0xC then some (Map.getD s.pmc.hiLatch (o / 0x10) 0)
    else none
  | _ => none

/-- A control-space register during reset and the boot sequence: its reset value, which for some is the value kept or found. -/
def bootRead (s : State) (a : Nat) : Nat :=
  if a = Reg.LOG_READ then logOldest s
  else if a = Reg.PWR_RESET then (pwrView s a).getD 0
  else match logView s a with
    | some v => v
    | none => resetValue s.gradeX s.pwr.straps a

/-- What a register reads. An offset without a register reads zero (R30). -/
def readReg (s : State) (a : Nat) : Nat :=
  if s.pwr.phase ≠ .run then bootRead s a
  else if (findReg a).isNone then 0
  else match stateView s a with
    | some v => v
    | none => reg s a

/-- What the read of a register latches (R59, R108, R406, R455, R534). -/
def readLatch (s : State) (a : Nat) : State :=
  if s.pwr.phase ≠ .run then s
  else if a = Reg.WHS_COUNT_LO then { s with clk := { s.clk with countHi := tickNow s / 2 ^ 32 % 2 ^ 16 } }
  else if a = Reg.WHS_TS_LO then { s with clk := { s.clk with tsHi := whistleTs s / 2 ^ 32 } }
  else if a = Reg.CAM_PPS_TS_LO then ppsTsRead s
  else if a = Reg.MEM_ERR_ADDR_LO then memErrRead s
  else if a = Reg.LYS_SYNC_OFFSET_LO then { s with lys := { s.lys with offsetLatch := s.lys.offset / 2 ^ 32 } }
  else if 0x170000 ≤ a ∧ a < 0x170400 ∧ a % 0x10 = 8 then pmcReadLo s ((a - 0x170000) / 0x10)
  else s

end Sys2Proof.Machine
end

