-- ==== Sys2Proof/Machine/HostPort.lean ====
section
/-! DEFINITION. The host port (R407–R423, R430): the words and bytes a host reads and writes, the row buffers, the mode registers
and training, and the port's own reset. -/

namespace Sys2Proof.Machine

/-! ## Writes (R11, R30, R31, R38–R40, R416) -/

/-- A WC word enters the shadow; in the check interval it is late (R38). (DEDUCED, assumption 30.) -/
def shadowWrite (s : State) (a v : Nat) : State :=
  let s1 := if s.com.checking then
      event { s with com := { s.com with late := s.com.late + b2n (!Map.has s.com.shadow a) } } Reg.WHS_IRQ_STATUS 1
    else s
  { s1 with com := { s1.com with shadow := Map.set s1.com.shadow a (BitVec.ofNat 32 v) } }

/-- A write of WHS_SUBMIT adds pages to those submitted at the next close. (DEDUCED, assumption 27.) -/
def submitWrite (s : State) (lo v : Nat) : State :=
  let ps := (setPositions 32 v).map (lo + ·)
  let s1 := if s.com.checking then
      event { s with com := { s.com with
        late := s.com.late + b2n (!s.com.submit.any (fun p => decide (lo ≤ p) && decide (p < lo + 32))) } } Reg.WHS_IRQ_STATUS 1
    else s
  { s1 with com := { s1.com with submit := ps.foldl setInsert s1.com.submit } }

/-- W1C bits clear where the written word has ones. -/
def w1cWrite (s : State) (a m v : Nat) : State := poke s a (reg s a - (reg s a &&& m &&& v))

/-- A whole word written to a control-space register. Writes are discarded during reset and the boot sequence (R423), where no
register is defined, and in the block of a huddle that the plan does not define (R30). -/
def writeReg (s : State) (a v : Nat) : State :=
  match (if s.pwr.phase = .run then findReg a else none) with
  | none => s
  | some (d, _) =>
    if 0x30000 ≤ a ∧ a < 0x40000 ∧ huddleDefined s ((a - 0x30000) / 0x100) = false then s
    else if a = Reg.FRS_EHOLD then eholdWrite s (v % 4) (v / 2 ^ 16)
    else if a = Reg.LOG_READ then logReadWrite s v
    else if a = Reg.LOG_CTRL then poke s a (v &&& d.rw)
    else if a = Reg.WHS_SUBMIT_LO then submitWrite s 0 v
    else if a = Reg.WHS_SUBMIT_HI then submitWrite s 32 v
    else if 0x30000 ≤ a ∧ a < 0x40000 ∧ a % 0x100 = 0x24 then hudClear s ((a - 0x30000) / 0x100) v
    else
      let s1 := if d.w1c = 0 then s else w1cWrite s a d.w1c v
      if d.wc = 0 then s1 else shadowWrite s1 a v

/-- Bytes with their enables, as one number and whether each of the bytes is enabled. -/
def maskedWord (d : List (Byte × Bool)) : Nat := ofLE (d.map (·.1))

/-- A register stands at an address: none in the block of a huddle that the plan does not define (R30). -/
def regThere (s : State) (a : Nat) : Bool :=
  (findReg a).isSome && (!(decide (0x30000 ≤ a) && decide (a < 0x40000)) || huddleDefined s ((a - 0x30000) / 0x100))

/-- One aligned word of a burst that lands on a register (R416). -/
def wordWrite (s : State) (a : Nat) (d : List (Byte × Bool)) : State :=
  if d.all (fun b => !b.2) then s
  else if d.all (fun b => b.2) then writeReg s a (maskedWord d)
  else if s.pwr.phase = .run ∧ regThere s a = true then poke (event s Reg.HPT_STATUS 1) Reg.HPT_PARTIAL_ADDR a
  else s

/-- An access that lands nowhere (R410, R416). -/
def unmapped (s : State) (a : Nat) : State :=
  logOncePerTick (poke (event s Reg.HPT_STATUS 0) Reg.HPT_UNMAPPED_ADDR a) 0x68 13 NOTE (argN 4 a)

/-- Bytes written to a command page, unless it is frozen (R40). (DEDUCED, assumption 42.) -/
def pageWrite (s : State) (a : Nat) (d : List (Byte × Bool)) : State :=
  if s.pwr.phase ≠ .run then s
  else if s.com.checking && s.com.pages.contains ((a - 0x400000) / 0x10000) then
    event { s with com := { s.com with locked := s.com.locked + 1 } } Reg.WHS_IRQ_STATUS 5
  else { s with pages := Mem.writeMasked 0 s.pages a d }

/-- The words of a burst, rising. -/
def burstWords : Nat → Nat → List (Byte × Bool) → List (Nat × List (Byte × Bool))
  | 0, _, _ => []
  | k + 1, a, d => if d.isEmpty then [] else (a, d.take 4) :: burstWords k (a + 4) (d.drop 4)

/-- A burst written to control space. -/
def controlWrite (s : State) (a : Nat) (d : List (Byte × Bool)) : State :=
  if a < 0x180000 then (burstWords d.length a d).foldl (fun s w => wordWrite s w.1 w.2) s
  else if a < 0x400000 then (if s.pwr.phase = .run then unmapped s a else s)
  else if a < 0x800000 then pageWrite s a d
  else s

/-! ## Reads -/

/-- Bytes of a status page (R47): the LOG page is the trouble log's ring (R517). -/
def statusRead (s : State) (a n : Nat) : List Byte :=
  if statBase 17 ≤ a ∧ a < statBase 18 then Mem.read 0 s.log.ring (a - statBase 17) n else Mem.read 0 s.status a n

/-- A burst read from control space: its bytes, each word with what its read latches. -/
def controlRead (s : State) (a n : Nat) : State × List Byte :=
  if a < 0x180000 then
    (List.range (n / 4)).foldl (fun (x : State × List Byte) i =>
      (readLatch x.1 (a + 4 * i), x.2 ++ leBytes 4 (readReg x.1 (a + 4 * i)))) (s, [])
  else if s.pwr.phase ≠ .run then (s, List.replicate n 0)
  else if a < 0x400000 then (unmapped s a, List.replicate n 0xFF)
  else if a < 0x800000 then (s, Mem.read 0 s.pages a n)
  else (s, statusRead s a n)

/-! ## Rows (R409–R412, R415–R417, R430) -/

/-- The port address of a bank and row. -/
def rowAddr (bank row : Nat) : Nat := row * 0x8000 + bank * 0x800

/-- The port accepts commands. -/
def portAccepts (s : State) : Bool := !s.hpt.resetLow && !s.hpt.asleep && decide (s.hpt.acceptFrom ≤ s.clk.now)

/-- A command against the state of a bank (R430): 0 ACT to an open one, 1 READ, 2 a write, to a closed one. -/
def protocolErr (s : State) (bank kind : Nat) : State :=
  logOncePerTick (event s Reg.HPT_STATUS 4) 0x69 13 WARN (arg1 bank ++ arg1 kind)

/-- A bank's open row replaced. -/
def setRow (s : State) (bank : Nat) (r : OpenRow) : State :=
  { s with hpt := { s.hpt with banks := Map.set s.hpt.banks bank r } }

/-- ACT: the row is classified, and a lent aperture row is fetched. -/
def act (s : State) (bank row : Nat) : State :=
  if !portAccepts s then s
  else if Map.has s.hpt.banks bank then protocolErr s bank 0
  else
    let a := rowAddr bank row
    let lent := decide (0x1000000 ≤ a) && decide (a < 0x1000000 + lentSize s)
    pmcAdd (countReg (setRow s bank { row := row, aperture := lent, filled := false, stale := false, buf := [] }) Reg.HPT_ACTS 1) 0x50 1

/-- ACT. -/
def execAct (bank : Fin 16) (row : BitVec 17) (s : State) : Out := .next (act s bank.val row.toNat)

/-- The device address of an aperture row, which lies within one bank. -/
def rowDevice (s : State) (bank : Nat) (r : OpenRow) : Option Nat := apertureAddr s (rowAddr bank r.row - 0x1000000)

/-- The fetch of an aperture row completes with the lines that are not in yet; each poisoned one is reported and reads all-ones (R405,
R411). -/
def fillDone (s : State) (bank : Nat) : State :=
  match Map.get s.hpt.banks bank with
  | none => s
  | some r =>
    match (if r.aperture && !r.filled && !r.stale then rowDevice s bank r else none) with
    | none => s
    | some d =>
      let bad := (List.range 32).filter (fun i => s.mem.poison.contains (d + 64 * i) && !Map.has r.early i)
      let s1 := bad.foldl (fun s i => memUncorr s (d + 64 * i) 58) s
      let buf := r.early.foldl (fun b e => overwrite b (64 * e.1) e.2) (devRead s d 2048)
      setRow s1 bank { r with filled := true, buf := buf, bad := r.bad ++ bad, early := [] }

/-- APERTURE_FILL_DONE. -/
def execApertureFillDone (bank : Fin 16) (s : State) : Out := .next (fillDone s bank.val)

/-- The column and the bytes of a burst: a BL32 burst covers the pair of columns that holds its column (R409). (DEDUCED, assumption 41.) -/
def burstOf (col : Nat) (bl32 : Bool) : Nat × Nat := if bl32 then (col / 2 * 64, 64) else (col * 32, 32)

/-- Before a fill is complete any of its lines may be in: whether line i is by now is left open, and then stays so (R412). (DESIGN CHOICE,
assumption 157.) -/
def lineFill (s : State) (bank : Nat) (r : OpenRow) (i : Nat) : State × OpenRow :=
  match (if r.filled || r.stale || Map.has r.early i then none else rowDevice s bank r) with
  | none => (s, r)
  | some d =>
    let s1 := drawFree s
    if freeValue s % 2 = 0 then (s1, r)
    else
      let poison := s.mem.poison.contains (d + 64 * i)
      let q := { r with early := Map.set r.early i (devRead s (d + 64 * i) 64), bad := if poison then i :: r.bad else r.bad }
      let s2 := if poison then memUncorr s1 (d + 64 * i) 58 else s1
      (setRow s2 bank q, q)

/-- A burst read from a lent aperture row: a line not yet filled reads all ones and sets EARLY (R412). -/
def rowRead (s0 : State) (bank : Nat) (r0 : OpenRow) (o n : Nat) : State × List Byte :=
  let x := lineFill s0 bank r0 (o / 64)
  let s := x.1
  let r := x.2
  let ones := List.replicate n 0xFF
  if r.stale then (event s Reg.HPT_STATUS 3, ones)
  else if r.bad.contains (o / 64) then (event s Reg.MEM_EVENTS 6, ones)
  else if r.filled then (s, slice r.buf o n)
  else
    match Map.get r.early (o / 64) with
    | some d => (s, slice d (o % 64) n)
    | none => (event s Reg.HPT_STATUS 2, ones)

/-- The ones of a byte. -/
def onesOf (b : Byte) : Nat := ((List.range 8).filter b.getLsbD).length

/-- Data as the port drives it: under read DBI a byte with more than four ones goes out inverted, with its DMI high (R408).
(PRESUMED, assumption 15.) -/
def driven (s : State) (d : List Byte) : List (Byte × Bool) :=
  d.map (fun b => if bit (inForceReg s 3) 6 && decide (4 < onesOf b) then (~~~b, true) else (b, false))

/-- Data that the port receives under WR: with write DBI enabled DMI carries the inversion flag (R414). (PRESUMED, assumption 15.) -/
def received (s : State) (d : List (Byte × Bool)) : List Byte :=
  d.map (fun p => if bit (inForceReg s 3) 7 && p.2 then ~~~p.1 else p.1)

/-- READ. -/
def hostRead (s : State) (bank col : Nat) (bl32 : Bool) : State :=
  if !portAccepts s then s
  else
    match Map.get s.hpt.banks bank with
    | none => protocolErr s bank 1
    | some r =>
      let b := burstOf col bl32
      let a := rowAddr bank r.row + b.1
      let x := if a < 0x1000000 then controlRead s a b.2
        else if r.aperture then rowRead s bank r b.1 b.2
        else (unmapped s a, List.replicate b.2 0xFF)
      let s1 := pmcAdd x.1 0x51 (b.2 / 32) { addr := if r.aperture then (rowDevice s bank r).map (fun d => (d + b.1) / 64 * 64) else none }
      { s1 with hpt := { s1.hpt with out := x.2, dq := driven s x.2, readTick := s1.hpt.readTick + b.2 } }

/-- READ. (DESIGN CHOICE, assumption 43.) -/
def execRead (bank : Fin 16) (col : Fin 64) (bl32 : Bool) (s : State) : Out := .next (hostRead s bank.val col.val bl32)

/-- A burst written through an aperture row: the Court bank and the row buffer take the enabled bytes. -/
def rowWrite (s : State) (bank : Nat) (r : OpenRow) (o : Nat) (d : List (Byte × Bool)) : State :=
  if r.stale then event s Reg.HPT_STATUS 3
  else
    match rowDevice s bank r with
    | none => s
    | some base =>
      let s1 := devWriteMasked s (base + o) d
      let old := slice r.buf o d.length
      let new := (d.zip old).map (fun p => if p.1.2 then p.1.1 else p.2)
      let whole := d.length == 64 && d.all (fun b => b.2)
      let line (l : List Byte) : List Byte :=
        overwrite l (o % 64) ((d.zip (slice l (o % 64) d.length)).map (fun p => if p.1.2 then p.1.1 else p.2))
      setRow s1 bank { r with
        buf := if r.filled then overwrite r.buf o new else r.buf,
        early := r.early.map (fun e => if e.1 = o / 64 then (e.1, line e.2) else e),
        bad := if whole then setErase r.bad (o / 64) else r.bad }

/-- WR or MWR: an accepted write goes to its destination (R416). -/
def hostWrite (s : State) (bank col : Nat) (bl32 : Bool) (d : List (Byte × Bool)) : State :=
  if !portAccepts s then s
  else
    match Map.get s.hpt.banks bank with
    | none => protocolErr s bank 2
    | some r =>
      let o := (burstOf col bl32).1
      let a := rowAddr bank r.row + o
      let s1 := if a < 0x1000000 then controlWrite s a d
        else if r.aperture then rowWrite s bank r o d
        else unmapped s a
      let s2 := pmcAdd s1 0x52 (d.length / 32) { addr := if r.aperture then (rowDevice s bank r).map (fun d => (d + o) / 64 * 64) else none }
      { s2 with hpt := { s2.hpt with writeTick := s2.hpt.writeTick + (d.filter (·.2)).length } }

/-- WR. -/
def execWr (bank : Fin 16) (col : Fin 64) (bl32 : Bool) (data : List (Byte × Bool)) (s : State) : Out :=
  if data.length ≠ (burstOf col.val bl32).2 then .fault (.illFormed "WR")
  else .next (hostWrite s bank.val col.val bl32 ((received s data).map (fun b => (b, true))))

/-- MWR. -/
def execMwr (bank : Fin 16) (col : Fin 64) (bl32 : Bool) (data : List (Byte × Bool)) (s : State) : Out :=
  if data.length ≠ (burstOf col.val bl32).2 then .fault (.illFormed "MWR")
  else .next (hostWrite s bank.val col.val bl32 data)

/-- PRE: a bank, or all, closes. -/
def execPre (bank : Fin 16) (all : Bool) (s : State) : Out :=
  .next (if portAccepts s then
      { s with hpt := { s.hpt with banks := if all then [] else Map.erase s.hpt.banks bank.val } }
    else s)

/-! ## The host's accesses as such -/

/-- REGISTER_WRITE: one word of control space with its byte enables. -/
def execRegisterWrite (addr : BitVec 24) (value : Word) (mask : BitVec 4) (s : State) : Out :=
  let d := (leBytes 4 value.toNat).zip ((List.range 4).map (fun i => mask.toNat.testBit i))
  .next (controlWrite s (addr.toNat / 4 * 4) d)

/-- COMMAND_PAGE_WRITE. -/
def execCommandPageWrite (page : Fin 64) (offset : BitVec 16) (data : List (Byte × Bool)) (s : State) : Out :=
  if 0x10000 < offset.toNat + data.length then .fault (.illFormed "COMMAND_PAGE_WRITE")
  else .next (pageWrite s (0x400000 + page.val * 0x10000 + offset.toNat) data)

/-- SUBMIT_PAGE: the page's WHS_SUBMIT bit is written. -/
def execSubmitPage (page : Fin 64) (s : State) : Out :=
  .next (writeReg s (if page.val < 32 then Reg.WHS_SUBMIT_LO else Reg.WHS_SUBMIT_HI) (2 ^ (page.val % 32)))

/-- A register read alone: its latch, and the word that it gives. -/
def readWord (s : State) (a : Nat) : State :=
  let s1 := readLatch s a
  { s1 with hpt := { s1.hpt with out := leBytes 4 (readReg s a) } }

/-- WHS_COUNT_LO_READ. -/
def execWhsCountLoRead (s : State) : Out := .next (readWord s Reg.WHS_COUNT_LO)
/-- WHS_TS_LO_READ. -/
def execWhsTsLoRead (s : State) : Out := .next (readWord s Reg.WHS_TS_LO)
/-- CAM_PPS_TS_LO_READ. -/
def execCamPpsTsLoRead (s : State) : Out := .next (readWord s Reg.CAM_PPS_TS_LO)
/-- MEM_ERR_ADDR_LO_READ. -/
def execMemErrAddrLoRead (s : State) : Out := .next (readWord s Reg.MEM_ERR_ADDR_LO)
/-- LYS_SYNC_OFFSET_LO_READ. -/
def execLysSyncOffsetLoRead (s : State) : Out := .next (readWord s Reg.LYS_SYNC_OFFSET_LO)
/-- PMC_CNT_LO_READ. -/
def execPmcCntLoRead (n : Fin 64) (s : State) : Out := .next (readWord s (Reg.PMC_CNT_LO n.val))

/-! ## Mode registers and training (R418, R419) -/

/-- The mode registers with a copy for each set point. (PRESUMED, assumption 15.) -/
def fspRegs : List Nat := [1, 2, 3, 10, 11, 12, 14, 15, 17, 18, 19, 20, 24, 30, 41]

/-- A mode register that the port has. -/
def modeDefined (n : Nat) : Bool := n ≤ 8 || n == 16 || n == 26 || (31 ≤ n && n ≤ 36) || fspRegs.contains n || Config.modeRegisterDefined n

/-- The number under which mode register n is written and read. -/
def modeKey (s : State) (n : Nat) : Nat := if fspRegs.contains n then fspKey s.hpt.fspWr n else n

/-- What MRR gives (R418): MR4 the code of 1× refresh, MR5 0x9A, MR6 the stepping, MR7 0, MR8 LPDDR5X, 32 Gb, x16, and MR26 the duty-cycle
monitor's balanced. (PRESUMED, assumption 15.) -/
def mrrValue (s : State) (n : Nat) : Nat :=
  if n = 4 then 9 else if n = 5 then 0x9A else if n = 6 then fld s Reg.GEN_ID 23 20 else if n = 7 then 0
  else if n = 8 then 0x21 else if n = 26 then setBits (modeReg s 26 26) 5 2 Config.dcmBalanced.toNat
  else if modeDefined n then modeReg s (modeKey s n) n else 0

/-- MRR. -/
def execMrr (n : Byte) (s : State) : Out :=
  .next (if portAccepts s then { s with hpt := { s.hpt with out := leBytes 1 (mrrValue s n.toNat) } } else s)

/-- The set-point registers of a set point, as a switch to it takes them into force (R418). -/
def setPoint (h : HostPort) (f : Nat) : Map Nat :=
  fspRegs.filterMap (fun n => (Map.get h.mr (fspKey f n)).map (fun v => (n, v)))

/-- MRW: MR16 moves the set points, a switch of the operating one bringing its registers into force, and starts or ends command bus
training; MR18 starts or ends WCK2CK levelling. -/
def execMrw (n op : Byte) (s : State) : Out :=
  let k := n.toNat
  let v := op.toNat
  .next (if !portAccepts s || !modeDefined k || (4 ≤ k && k ≤ 8) then s
    else
      let h := { s.hpt with mr := Map.set s.hpt.mr (modeKey s k) v }
      let f := v / 4 % 4
      { s with hpt := if k = 16 then { h with fspWr := v % 4, fspOp := f, cbt := v / 16 % 4 != 0,
                                              inUse := if f = h.fspOp then h.inUse else setPoint h f }
                      else if k = 18 then { h with levelling := v.testBit 6 }
                      else h })

/-- The RDC pattern: sixteen beats of MR33 then MR34 on each lane, inverted where MR31 or MR32 says so, driven under the read DBI in
force. -/
def execRdc (s : State) : Out :=
  let m (n : Nat) : Nat := modeReg s n n
  let beats := (List.range 16).flatMap (fun b =>
    let on := if b < 8 then (m 33).testBit b else (m 34).testBit (b - 8)
    let lane (inv : Nat) : Byte := BitVec.ofNat 8 ((if on then 0xFF else 0) ^^^ inv)
    [lane (m 31), lane (m 32)])
  .next (if portAccepts s then { s with hpt := { s.hpt with out := beats, dq := driven s beats } } else s)

/-- WFF: the FIFO keeps the latest eight bursts. -/
def execWff (data : BitVec 256) (s : State) : Out :=
  let f := s.hpt.fifo ++ [leBytes 32 data.toNat]
  .next (if portAccepts s then { s with hpt := { s.hpt with fifo := f.drop (f.length - 8) } } else s)

/-- RFF: the oldest burst, or zeros. -/
def execRff (s : State) : Out :=
  let d := (s.hpt.fifo.head?).getD (List.replicate 32 0)
  .next (if portAccepts s then
      { s with hpt := { s.hpt with out := d, dq := driven s d, fifo := s.hpt.fifo.drop 1 } }
    else s)

/-- MPC_ZQ: accepted; the port calibrates continuously. -/
def execMpcZq (s : State) : Out := .next s

/-- COMMAND_BUS_TRAINING: the pattern sampled on CA goes onto DQ, and VREF(CA) follows the DQ7 input. -/
def execCommandBusTraining (sample : CbtSample) (s : State) : Out :=
  .next (if s.hpt.cbt then
      { s with hpt := { s.hpt with dq := [(BitVec.ofNat 8 sample.ca.toNat, false)], dq7 := sample.dq7 } }
    else s)

/-- WCK2CK_LEVELLING: the level of CK sampled goes onto DQ. -/
def execWck2ckLevelling (ck : Bool) (s : State) : Out :=
  .next (if s.hpt.levelling then { s with hpt := { s.hpt with dq := [(if ck then 1 else 0, false)] } } else s)

/-- WCK2DQ_OSCILLATOR: the count of a run stands in MR35 and MR36. -/
def execWck2dqOscillator (count : BitVec 16) (s : State) : Out :=
  .next (if portAccepts s then
      { s with hpt := { s.hpt with mr := Map.set (Map.set s.hpt.mr 35 (count.toNat % 256)) 36 (count.toNat / 256) } }
    else s)

/-! ## Refresh, power-down and the port's reset (R420–R422) -/

/-- REFRESH_COMMAND. -/
def execRefreshCommand (s : State) : Out := .next (if portAccepts s then countReg s Reg.HPT_REFRESH 1 else s)

/-- A row whose fill is in progress: an entry into self-refresh leaves it to complete (R430). -/
def filling (r : OpenRow) : Bool := r.aperture && !r.filled && !r.stale

/-- SRE: self-refresh, power-down or deep sleep, which of them the command's row leaves open; the row buffers hold nothing across it, but a
fill in progress completes (R421, R430). (DESIGN CHOICE, assumption 158.) -/
def execSre (s : State) : Out :=
  .next (if portAccepts s then
      drawFree { s with hpt := { s.hpt with asleep := true, sleepKind := freeValue s % 3,
                                            banks := s.hpt.banks.filter (fun e => filling e.2) } }
    else s)

/-- The time from the exit of self-refresh, power-down or deep sleep to the first command: tXSR, or the standard's (R413, R421). -/
def exitTime (kind : Nat) : Nat := if kind = 0 then 220 * tuNs else Config.portExitTime kind

/-- SRX: commands are accepted the exit time later. -/
def execSrx (s : State) : Out :=
  .next (if s.hpt.asleep then
      { s with hpt := { s.hpt with asleep := false, acceptFrom := s.clk.now + exitTime s.hpt.sleepKind } }
    else s)

/-- HOST_RESET_N_LOW: mode registers, training and row buffers are reset. -/
def execHostResetNLow (s : State) : Out :=
  let s1 := { s with hpt := { resetLow := true, readTick := s.hpt.readTick, writeTick := s.hpt.writeTick } }
  .next (logOncePerTick (event s1 Reg.HPT_STATUS 5) 0x6A 13 WARN [])

/-- HOST_PORT_READY: 2 ms after the rise of HOST_RESET_N the port accepts commands. -/
def execHostPortReady (s : State) : Out := .next { s with hpt := { s.hpt with resetLow := false } }

end Sys2Proof.Machine
end

