-- ==== Sys2Proof/Machine/JobEnd.lean ====
section
/-! DEFINITION. The end of a job as a decision point of its huddle (R374), the poison a ROM stage job meets in its inputs
(R405), and the shot clock (R56, R235). -/

namespace Sys2Proof.Machine

/-! ## What a ROM stage job reads (R405) -/

/-- The capture slot and the result slot of a source frame, as address and size. -/
def srcReads (s : State) (img : Map Word) (cam : Nat) (x : Src) : List (Nat × Nat) :=
  let fmt := if x.kind = 0 then Reg.CAM_PORT_FULL_FMT x.port else Reg.CAM_PORT_BAND_FMT x.port
  let sz := if x.kind = 0 then Reg.CAM_PORT_FULL_SIZE x.port else Reg.CAM_PORT_BAND_SIZE x.port
  (x.addr, captureSlot (ifld s img fmt 9 4) (ifld s img sz 13 0) (ifld s img sz 29 16))
    :: (match x.result with
        | some a => [(a, ifld s img (Reg.VSN_SEQ_RING cam) 23 8 * 65536)]
        | none => [])

/-- Bytes of a sweep slot (R258). -/
def sweepSize : Nat := 0x190000

/-- What a route of a synthesis job reads. -/
def synReads (s : State) (q : SynRoute) : List (Nat × Nat) :=
  let f := srcReads s q.image (camOf s q.route)
  q.srcs.flatMap f ++ (match q.height with | some h => f h.1 | none => [])
    ++ (match q.base with | some b => [(b.1, sweepSize)] | none => [])

/-- What a route of a decision job reads: its sweep and its class map. -/
def decReads (s : State) (q : DecRoute) : List (Nat × Nat) :=
  if q.hold then []
  else (match sweepAddr s q.image q.route q.w with | some a => [(a, sweepSize)] | none => [])
    ++ [(addr40 s q.image (Reg.TRK_RT_MAP_LO q.route) (Reg.TRK_RT_MAP_HI q.route) / 2 * 2, 0x20000)]

/-- What GEN reads for a picture. -/
def genReads (s : State) (p : Pic) : List (Nat × Nat) :=
  p.srcs.flatMap (fun e => let c := match tileRoute s e.1 with | some r => seqOf r | none => 0
                           e.2.flatMap (srcReads s p.image c)) ++ p.sweeps.map (fun e => (e.2, sweepSize))

/-- What a COMPOSE slice reads: its blocks and the rows of the host's overlay. -/
def composeReads (s : State) (p : Pic) (k : Nat) : List (Nat × Nat) :=
  let d := p.desc
  let w := 4 * vdWidth d
  (sliceBlocks s p k).flatMap (fun x =>
      [(x.2.2.1, (if x.1 = vd d 0xA 2 then vd d 0x12 2 else vd d 0x10 2) * 64), (x.2.2.2, 192)])
    ++ (if bit (vd d 2 2) 2 then (sliceRows p k).map (fun y => (vd d 0x60 8 + y * w, w)) else [])

/-- The ranges of Court and LPDDR6 that a ROM stage job reads. -/
def romReads (s : State) (j : Job) : List (Nat × Nat) :=
  if j.kind = 2 then j.syn.flatMap (synReads s)
  else if j.kind = 3 then j.dec.flatMap (decReads s)
  else match picOf s j with
    | none => []
    | some p => if j.kind = 4 then genReads s p else if j.kind = 5 then composeReads s p j.slice else []

/-- The first poisoned line among a ROM stage job's inputs. (DEDUCED, assumption 54.) -/
def romPoison (s : State) (j : Job) : Option Nat :=
  if s.mem.poison.isEmpty then none
  else
    let l := romReads s j
    s.mem.poison.find? (fun a => l.any (fun r => decide (r.1 < a + 64) && decide (a < r.1 + r.2)))

/-! ## The end of a job -/

/-- A ROM stage job ends: with its output, or without any where an input line is poisoned (R405); what it reads outside is zero, and
reported (R547); a job with a core that was fenced at its start cannot end but by its shot clock (R238). A decision point follows
(R374). -/
def endRom (s : State) (j : Job) : State :=
  if !j.dead.isEmpty then s
  else
    match romPoison s j with
    | some l =>
      let inp := match leavesOf s.fab.plan j.huddle with | x :: _ => readerOf x 1 | [] => 59
      romStopped (memUncorr s l inp) j
    | none =>
      let s := if (romReads s j).any (fun r => !rangeOk s r.1 r.2 false) then protect s else s
      let s1 := if j.kind = 2 then endSynthesis s j
        else if j.kind = 3 then endDecision s j
        else if j.kind = 4 then endGen s j
        else if j.kind = 5 then endCompose s j
        else endTakeover s j
      decisionPoint s1 (topOf s.fab.plan j.huddle)

/-- The list job of a leaf has done all its work: every tile complete, or every core at END and no result to write.
(DESIGN CHOICE, assumption 107.) -/
def leafFinished (s : State) (j : Job) : Bool :=
  if j.kind = 0 then meDone j else coresEnded s j && !reduces j

/-- The job that runs under a huddle's name ends: a leaf's list job, or a ROM stage job (R374). -/
def endJob (s : State) (h : Nat) : State :=
  let top := topOf s.fab.plan h
  match (hudOf s top).group.find? (fun j => j.huddle == h) with
  | some j => if leafFinished s j then endLeafOk s top j else s
  | none =>
    match romOf s h with
    | some j => endRom s j
    | none => s

/-- A job runs under a huddle's name. -/
def jobAt (h : Nat) (s : State) : Bool := runsOn h s || (romOf s h).isSome

/-- JOB_END: the job ends, and its top-level huddle takes its next work. (DESIGN CHOICE, assumption 5.) -/
def execJobEnd (huddle : Byte) (s : State) : Out :=
  .next (underOld s (jobAt huddle.toNat) (fun s => endJob s huddle.toNat))

/-! ## The shot clock -/

/-- The job that runs under a huddle's name reaches its budget. -/
def shotJob (s : State) (h : Nat) (stuck : List Nat) : State :=
  if runsOn h s || (skewNow s (topOf s.fab.plan h) h).isSome then shotList s (topOf s.fab.plan h) h stuck
  else
    match romOf s h with
    | some j => shotRom s j stuck
    | none => s

/-- SHOT_CLOCK: the job stops, its outputs are not marked complete, and `stuck` lists the cores of it that retired no
instruction within the last 1,024 cycles. -/
def execShotClock (huddle : Byte) (stuck : List (BitVec 12)) (s : State) : Out :=
  .next (underOld s (fun s => jobAt huddle.toNat s || (skewNow s (topOf s.fab.plan huddle.toNat) huddle.toNat).isSome)
    (fun s => shotJob s huddle.toNat (stuck.map (·.toNat))))

end Sys2Proof.Machine
end

