-- ==== Sys2Proof/Machine/SliverExec.lean ====
section
/-! DEFINITION. The meanings of the sliver-core instructions (R552), one definition each, over the operations of
Machine/Sliver.lean. -/

namespace Sys2Proof.Machine

/-- An ALU operation on two 32-bit values (R552). -/
def aluVal (op : AluOp) (x y : Nat) : Nat :=
  let a := sgn 32 x
  let b := sgn 32 y
  match op with
  | .add => (x + y) % 2 ^ 32
  | .sub => (x + 2 ^ 32 - y) % 2 ^ 32
  | .and => x &&& y
  | .or => x ||| y
  | .xor => x ^^^ y
  | .sll => (x <<< (y % 32)) % 2 ^ 32
  | .srl => x >>> (y % 32)
  | .sra => wrap 32 (sar a (y % 32))
  | .mul => (x * y) % 2 ^ 32
  | .mulh => wrap 32 (sar (a * b) 32)
  | .mulhu => (x * y) / 2 ^ 32
  | .slt => b2n (decide (a < b))
  | .sltu => b2n (decide (x < y))
  | .seq => b2n (x == y)
  | .min => if b < a then y else x
  | .max => if a < b then y else x
  | .minu => min x y
  | .maxu => max x y
  | .adds => wrap 32 (clampI (-(2 ^ 31)) (2 ^ 31 - 1) (a + b))
  | .subs => wrap 32 (clampI (-(2 ^ 31)) (2 ^ 31 - 1) (a - b))

/-- An ALU instruction: sD = sA op sB. -/
def aluReg (w : BitVec 32) (op : AluOp) (lcn : BitVec 12) (d a b : BitVec 5) (s : State) : Out :=
  .next (onCore s lcn w (fun s l j c => coreNext s j l 1 (c.sset d.toNat (aluVal op (c.sget a.toNat) (c.sget b.toNat)))))

/-- The immediate of an ALUI operation: zero-extended for AND, OR, XOR, SLTU, MINU and MAXU, else sign-extended; shifts
take its low five bits (R552). -/
def aluImm (op : AluOp) (imm : BitVec 12) : Nat :=
  match op with
  | .and | .or | .xor | .sltu | .minu | .maxu => imm.toNat
  | _ => wrap 32 imm.toInt

/-- ALUI: sD = sA op IMM12. -/
def execAlui (lcn : BitVec 12) (op : AluOp) (d a : BitVec 5) (imm : BitVec 12) (s : State) : Out :=
  .next (onCore s lcn (wordOf (.alui lcn op d a imm)) (fun s l j c => coreNext s j l 2 (c.sset d.toNat (aluVal op (c.sget a.toNat) (aluImm op imm)))))

/-- LUI: sD = IMM12 × 2^20. -/
def execLui (lcn : BitVec 12) (d : BitVec 5) (imm : BitVec 12) (s : State) : Out :=
  .next (onCore s lcn (wordOf (.lui lcn d imm)) (fun s l j c => coreNext s j l 2 (c.sset d.toNat (imm.toNat * 2 ^ 20))))

/-- LMI: sD = sA OR (IMM12[7:0] × 2^12). -/
def execLmi (lcn : BitVec 12) (d a : BitVec 5) (imm : BitVec 12) (s : State) : Out :=
  .next (onCore s lcn (wordOf (.lmi lcn d a imm)) (fun s l j c =>
    coreNext s j l 2 (c.sset d.toNat (c.sget a.toNat ||| ((imm.toNat % 256) * 2 ^ 12)))))

/-- END. -/
def execEndCore (lcn : BitVec 12) (s : State) : Out := .next (onCore s lcn (wordOf (.endCore lcn)) coreEnd)

/-- NOP. -/
def execNop (lcn : BitVec 12) (s : State) : Out := .next (onCore s lcn (wordOf (.nop lcn)) (fun s l j c => coreNext s j l 0 c))

/-- FENCE: waits until every DMA and SEND of the core is complete. -/
def execFence (lcn : BitVec 12) (s : State) : Out :=
  .next (onCore s lcn (wordOf (.fence lcn)) (fun s l _ c => checkWait (setCore s l { c with wait := some .fence }) l))

/-- GSHIFT. -/
def execGshift (lcn : BitVec 12) (d a b : BitVec 5) (s : State) : Out :=
  .next (onCore s lcn (wordOf (.gshift lcn d a b)) (fun s l j c => coreGshift s l j c d.toNat a.toNat b.toNat))

/-- STST. -/
def execStst (lcn : BitVec 12) (a : BitVec 5) (s : State) : Out :=
  .next (onCore s lcn (wordOf (.stst lcn a)) (fun s l j c => coreStst s l j c a.toNat))

/-- A branch target: offsets count from the branch itself (R552). -/
def branchTo (c : Core) (offset : BitVec 12) : BitVec 13 := c.pc + offset.signExtend 13

/-- A conditional branch on a comparison of sA and sB. -/
def branchIf (w : BitVec 32) (p : Nat → Nat → Bool) (lcn : BitVec 12) (a b : BitVec 5) (offset : BitVec 12) (s : State) : Out :=
  .next (onCore s lcn w (fun s l j c =>
    coreJump s j l 3 c (if p (c.sget a.toNat) (c.sget b.toNat) then branchTo c offset else c.pc + 1)))

/-- JMP. -/
def execJmp (lcn : BitVec 12) (offset : BitVec 12) (s : State) : Out :=
  .next (onCore s lcn (wordOf (.jmp lcn offset)) (fun s l j c => coreJump s j l 3 c (branchTo c offset)))

/-- JAL: s31 = the index of the next instruction. -/
def execJal (lcn : BitVec 12) (offset : BitVec 12) (s : State) : Out :=
  .next (onCore s lcn (wordOf (.jal lcn offset)) (fun s l j c => coreJump s j l 3 (c.sset 31 (c.pc + 1).toNat) (branchTo c offset)))

/-- JR: to instruction sA + OFFSET. (DEDUCED, assumption 59.) -/
def execJr (lcn : BitVec 12) (a : BitVec 5) (offset : BitVec 12) (s : State) : Out :=
  .next (onCore s lcn (wordOf (.jr lcn a offset)) (fun s l j c =>
    coreJump s j l 3 c (BitVec.ofNat 13 (c.sget a.toNat) + offset.signExtend 13)))

/-- LOOP: sA = sA − 1; branches when the result is not 0. -/
def execLoop (lcn : BitVec 12) (a : BitVec 5) (offset : BitVec 12) (s : State) : Out :=
  .next (onCore s lcn (wordOf (.loop lcn a offset)) (fun s l j c =>
    let v := (c.sget a.toNat + 2 ^ 32 - 1) % 2 ^ 32
    coreJump s j l 3 (c.sset a.toNat v) (if v = 0 then c.pc + 1 else branchTo c offset)))

/-- A scalar load of `n` bytes, extended by `ext` (R552). -/
def loadN (w : BitVec 32) (n : Nat) (ext : Nat → Nat) (lcn : BitVec 12) (d a : BitVec 5) (imm : BitVec 12) (s : State) : Out :=
  .next (onCore s lcn w (fun s l j c =>
    let ea := c.ea a.toNat imm
    localAccess s l ea n n false (coreNext s j l 4 (c.sset d.toNat (ext (ofLE (localRead s j l c ea n)))))))

/-- A scalar store of the low `n` bytes of sD. -/
def storeN (w : BitVec 32) (n : Nat) (lcn : BitVec 12) (d a : BitVec 5) (imm : BitVec 12) (s : State) : Out :=
  .next (onCore s lcn w (fun s l j c =>
    let ea := c.ea a.toNat imm
    localAccess s l ea n n true (coreNext s j l 4 (c.store ea (leBytes n (c.sget d.toNat))))))

/-- VLD: vD = the 32 B at sA + IMM12. -/
def execVld (lcn : BitVec 12) (d a : BitVec 5) (imm : BitVec 12) (s : State) : Out :=
  .next (onCore s lcn (wordOf (.vld lcn d a imm)) (fun s l j c =>
    let ea := c.ea a.toNat imm
    localAccess s l ea 32 32 false (coreNext s j l 7
      (c.vset d.toNat (laneIx.map (fun i => fieldLE (localRead s j l c ea 32) (2 * i) 2))))))

/-- VST: the 32 B at sA + IMM12 = vD. -/
def execVst (lcn : BitVec 12) (d a : BitVec 5) (imm : BitVec 12) (s : State) : Out :=
  .next (onCore s lcn (wordOf (.vst lcn d a imm)) (fun s l j c =>
    let ea := c.ea a.toNat imm
    localAccess s l ea 32 32 true (coreNext s j l 7
      (c.store ea (laneIx.flatMap (fun i => leBytes 2 (c.lane d.toNat i)))))))

/-- The address of a lane of a gather or scatter. (DEDUCED, assumption 63.) -/
def laneAddr (c : Core) (a : Nat) (imm : BitVec 12) (r i : Nat) : Nat := (c.ea a imm + 2 * c.lane r i) % 2 ^ 32

/-- A gather or scatter whose lanes are checked first, lane by lane. -/
def lanesAccess (s : State) (l : Nat) (as : List Nat) (wr : Bool) (f : State) : State :=
  if as.any (fun x => localOk x 2 wr == false) then progFault s l 1
  else if as.any (fun x => x % 2 != 0) then progFault s l 3 else f

/-- VGATH: lane i of vD = the 2 B at sA + IMM12 + 2 × (lane i of vD). -/
def execVgath (lcn : BitVec 12) (d a : BitVec 5) (imm : BitVec 12) (s : State) : Out :=
  .next (onCore s lcn (wordOf (.vgath lcn d a imm)) (fun s l j c =>
    let ad (i : Nat) := laneAddr c a.toNat imm d.toNat i
    lanesAccess s l (laneIx.map ad) false (coreNext s j l 7
      (c.vset d.toNat (laneIx.map (fun i => ofLE (localRead s j l c (ad i) 2)))))))

/-- VSCAT: the 2 B at sA + IMM12 + 2 × (lane i of v(D+1)) = lane i of vD, in ascending lane order; D = 31 is undefined. -/
def execVscat (lcn : BitVec 12) (d a : BitVec 5) (imm : BitVec 12) (s : State) : Out :=
  .next (onCore s lcn (wordOf (.vscat lcn d a imm)) (fun s l j c =>
    let ad (i : Nat) := laneAddr c a.toNat imm (d.toNat + 1) i
    if d = 31 then progFault s l 0
    else lanesAccess s l (laneIx.map ad) true (coreNext s j l 7
      (laneIx.foldl (fun c i => c.store (ad i) (leBytes 2 (c.lane d.toNat i))) c))))

/-- A masked lane operation on two INT16 lanes. -/
def vecOp (w : BitVec 32) (cls : Nat) (f : Nat → Nat → Nat) (lcn : BitVec 12) (d a b : BitVec 5) (m : BitVec 3) (s : State) : Out :=
  .next (onCore s lcn w (fun s l j c =>
    coreNext s j l cls (c.vmask d.toNat m.toNat (fun i => f (c.lane a.toNat i) (c.lane b.toNat i)))))

/-- A lane comparison into a mask register. -/
def vecCmp (w : BitVec 32) (p : Nat → Nat → Bool) (lcn : BitVec 12) (d a b : BitVec 5) (s : State) : Out :=
  .next (onCore s lcn w (fun s l j c =>
    coreNext s j l 5 (c.mset d.toNat (ofPositions (laneIx.filter (fun i => p (c.lane a.toNat i) (c.lane b.toNat i)))))))

/-- VSEL: lane i of vA where the mask bit is 1, else lane i of vB. -/
def execVsel (lcn : BitVec 12) (d a b : BitVec 5) (m : BitVec 3) (s : State) : Out :=
  .next (onCore s lcn (wordOf (.vsel lcn d a b m)) (fun s l j c =>
    coreNext s j l 5 (c.vset d.toNat (laneIx.map (fun i =>
      if (c.mget m.toNat).testBit i then c.lane a.toNat i else c.lane b.toNat i)))))

/-- An INT8 dot product into the INT32 lanes of wD, saturating once (R168, R209); `ext` reads a code of vA. -/
def vecDot (w : BitVec 32) (ext : Nat → Int) (lcn : BitVec 12) (d a b : BitVec 5) (m : BitVec 3) (s : State) : Out :=
  .next (onCore s lcn w (fun s l j c =>
    let sum (i : Nat) : Int :=
      let x := c.lane a.toNat i
      let y := c.lane b.toNat i
      sgn 32 (c.acc d.toNat i) + ext (x % 256) * sgn 8 (y % 256) + ext (x / 256) * sgn 8 (y / 256)
    let clamped (i : Nat) : Bool := (c.mget m.toNat).testBit i && (satAdd32 (sum i) 0).2
    let k := d.toNat % 8
    let sat := (Map.getD c.wsat k 0).toNat ||| ofPositions (laneIx.filter clamped)
    let c1 := c.wmask d.toNat m.toNat (fun i => wrap 32 (satAdd32 (sum i) 0).1)
    coreNext s j l 5 { c1 with wsat := Map.set c1.wsat k (BitVec.ofNat 16 sat) }))

/-- An operation on two masks. -/
def maskOp (w : BitVec 32) (f : Nat → Nat → Nat) (lcn : BitVec 12) (d a b : BitVec 5) (s : State) : Out :=
  .next (onCore s lcn w (fun s l j c => coreNext s j l 5 (c.mset d.toNat (f (c.mget a.toNat) (c.mget b.toNat)))))

/-- MNOT. -/
def execMnot (lcn : BitVec 12) (d a : BitVec 5) (s : State) : Out :=
  .next (onCore s lcn (wordOf (.mnot lcn d a)) (fun s l j c => coreNext s j l 5 (c.mset d.toNat (0xFFFF - c.mget a.toNat))))

/-- VSHUF: lane i of vD = lane (lane i of vB, bits [3:0]) of vA. -/
def execVshuf (lcn : BitVec 12) (d a b : BitVec 5) (s : State) : Out :=
  .next (onCore s lcn (wordOf (.vshuf lcn d a b)) (fun s l j c =>
    coreNext s j l 5 (c.vset d.toNat (laneIx.map (fun i => c.lane a.toNat (c.lane b.toNat i % 16))))))

/-- VBCAST: every lane of vD = sA[15:0]; masked. -/
def execVbcast (lcn : BitVec 12) (d a : BitVec 5) (m : BitVec 3) (s : State) : Out :=
  .next (onCore s lcn (wordOf (.vbcast lcn d a m)) (fun s l j c => coreNext s j l 5 (c.vmask d.toNat m.toNat (fun _ => c.sget a.toNat % 65536))))

/-- VEXT: sD = lane C[3:0] of vA, sign-extended. -/
def execVext (lcn : BitVec 12) (d a : BitVec 5) (k : BitVec 4) (s : State) : Out :=
  .next (onCore s lcn (wordOf (.vext lcn d a k)) (fun s l j c => coreNext s j l 5 (c.sset d.toNat (wrap 32 (sgn 16 (c.lane a.toNat k.toNat))))))

/-- VINS: lane C[3:0] of vD = sA[15:0]. -/
def execVins (lcn : BitVec 12) (d a : BitVec 5) (k : BitVec 4) (s : State) : Out :=
  .next (onCore s lcn (wordOf (.vins lcn d a k)) (fun s l j c => coreNext s j l 5 (c.vset d.toNat (laneIx.map (fun i =>
    if i = k.toNat then c.sget a.toNat % 65536 else c.lane d.toNat i)))))

/-- VFMA: vD = vA × vB + vD in FP16, one rounding; masked. -/
def execVfma (lcn : BitVec 12) (d a b : BitVec 5) (m : BitVec 3) (s : State) : Out :=
  .next (onCore s lcn (wordOf (.vfma lcn d a b m)) (fun s l j c => coreNext s j l 6 (c.vmask d.toNat m.toNat (fun i =>
    fmaF16 (c.lane a.toNat i) (c.lane b.toNat i) (c.lane d.toNat i)))))

/-- VFMAW: wD = vA × vB + wD, the product exact, one rounding to FP32; masked. -/
def execVfmaw (lcn : BitVec 12) (d a b : BitVec 5) (m : BitVec 3) (s : State) : Out :=
  .next (onCore s lcn (wordOf (.vfmaw lcn d a b m)) (fun s l j c => coreNext s j l 6 (c.wmask d.toNat m.toNat (fun i =>
    fmaW (c.lane a.toNat i) (c.lane b.toNat i) (c.acc d.toNat i)))))

/-- VCVTHW: vD = FP16 of the FP32 lanes of wA. -/
def execVcvthw (lcn : BitVec 12) (d a : BitVec 5) (s : State) : Out :=
  .next (onCore s lcn (wordOf (.vcvthw lcn d a)) (fun s l j c => coreNext s j l 6 (c.vset d.toNat (laneIx.map (fun i =>
    fmtFP16.encode (fmtFP32.decode (c.acc a.toNat i)))))))

/-- VCVTWH: wD = FP32 of the FP16 lanes of vA, exact. -/
def execVcvtwh (lcn : BitVec 12) (d a : BitVec 5) (s : State) : Out :=
  .next (onCore s lcn (wordOf (.vcvtwh lcn d a)) (fun s l j c =>
    let c1 := c.wset d.toNat (laneIx.map (fun i => fmtFP32.encode (fmtFP16.decode (c.lane a.toNat i))))
    coreNext s j l 6 { c1 with wsat := Map.set c1.wsat (d.toNat % 8) 0 }))

/-- VCVTHI: vD = FP16 of the INT16 lanes of vA. -/
def execVcvthi (lcn : BitVec 12) (d a : BitVec 5) (s : State) : Out :=
  .next (onCore s lcn (wordOf (.vcvthi lcn d a)) (fun s l j c => coreNext s j l 6 (c.vset d.toNat (laneIx.map (fun i =>
    fmtFP16.encode (Fp.ofInt (sgn 16 (c.lane a.toNat i))))))))

/-- FP16 rounded to INT16 and clamped; a NaN has no stated integer. -/
def halfToInt (x : Nat) : Nat :=
  let f := fmtFP16.decode x
  wrap 16 (clampI (-32768) 32767 (match f with
    | .nan _ => Config.nanToInt
    | .inf n => if n then -32768 else 32767
    | .fin _ _ _ => (f.toIntRne).getD 0))

/-- VCVTIH: vD = INT16 of the FP16 lanes of vA, rounded and clamped. -/
def execVcvtih (lcn : BitVec 12) (d a : BitVec 5) (s : State) : Out :=
  .next (onCore s lcn (wordOf (.vcvtih lcn d a)) (fun s l j c =>
    coreNext s j l 6 (c.vset d.toNat (laneIx.map (fun i => halfToInt (c.lane a.toNat i))))))

/-- VPK8: the 32 INT16 lanes of vA then vB, each clamped to INT8, packed. -/
def execVpk8 (lcn : BitVec 12) (d a b : BitVec 5) (s : State) : Out :=
  .next (onCore s lcn (wordOf (.vpk8 lcn d a b)) (fun s l j c =>
    let code (k : Nat) : Nat := wrap 8 (clampI (-128) 127 (sgn 16 (if k < 16 then c.lane a.toNat k else c.lane b.toNat (k - 16))))
    coreNext s j l 6 (c.vset d.toNat (laneIx.map (fun i => code (2 * i) + code (2 * i + 1) * 256)))))

/-- Sixteen INT8 elements of vA from element `o`, sign-extended. -/
def unpack8 (w : BitVec 32) (o : Nat) (lcn : BitVec 12) (d a : BitVec 5) (s : State) : Out :=
  .next (onCore s lcn w (fun s l j c =>
    coreNext s j l 6 (c.vset d.toNat (laneIx.map (fun i =>
      let k := o + i
      wrap 16 (sgn 8 (c.lane a.toNat (k / 2) >>> (8 * (k % 2)))))))))

/-- VUPKL8 and VUPKH8. -/
def execVupkl8 (lcn : BitVec 12) (d a : BitVec 5) (s : State) : Out := unpack8 (wordOf (.vupkl8 lcn d a)) 0 lcn d a s
def execVupkh8 (lcn : BitVec 12) (d a : BitVec 5) (s : State) : Out := unpack8 (wordOf (.vupkh8 lcn d a)) 16 lcn d a s

/-- VQNT: the 16 lanes of wA requantised (R162, R171, R209); masked. An output format above 0x3 has no stated code: free
values. The lanes written count in the tile counters. -/
def execVqnt (lcn : BitVec 12) (d a b : BitVec 5) (m : BitVec 3) (s : State) : Out :=
  .next (onCore s lcn (wordOf (.vqnt lcn d a b m)) (fun s l j c =>
    let y := c.sget b.toNat
    let k := sgn 8 y
    let z : Int := bits y 23 16
    let fmt := bits y 27 24
    let on := laneIx.filter (fun i => (c.mget m.toNat).testBit i)
    if 3 < fmt then
      let v := freeValue s
      coreNext (drawFree s) j l 6 ((c.vmask d.toNat m.toNat (fun i => v >>> (16 * i))))
    else
      let sat := (Map.getD c.wsat (a.toNat % 8) 0).toNat
      let q (i : Nat) := requantInt (sgn 32 (c.acc a.toNat i)) k z fmt (sat.testBit i)
      let c1 := c.vmask d.toNat m.toNat (fun i => wrap 16 (q i).1)
      coreNext s j l 6 { c1 with sat := c.sat + (on.filter (fun i => (q i).2.1)).length,
                                 uflow := c.uflow + (on.filter (fun i => (q i).2.2)).length,
                                 elems := c.elems + on.length }))

/-- The binary tree of R184 over a list: adjacent pairs combine, an odd last entry passes up. -/
def treeStep (f : Nat → Nat → Nat) : List Nat → List Nat
  | a :: b :: r => f a b :: treeStep f r
  | l => l

/-- `n` levels of the tree. -/
def treeLevels (f : Nat → Nat → Nat) : Nat → List Nat → List Nat
  | 0, l => l
  | n + 1, l => treeLevels f n (treeStep f l)

/-- A lane reduction of wA into sD (R209). -/
def laneReduce (w : BitVec 32) (op : Nat) (lcn : BitVec 12) (d a : BitVec 5) (s : State) : Out :=
  .next (onCore s lcn w (fun s l j c =>
    coreNext s j l 8 (c.sset d.toNat (((treeLevels (redWord op) 4 (laneIx.map (c.acc a.toNat))).head?).getD 0))))

/-- GET, PUT and BLKGET. -/
def execGet (lcn : BitVec 12) (d a b k : BitVec 5) (s : State) : Out :=
  .next (onCore s lcn (wordOf (.get lcn d a b k)) (fun s l j c => dmaIssue s l j c 0 d.toNat a.toNat b.toNat k.toNat))
def execPut (lcn : BitVec 12) (d a b k : BitVec 5) (s : State) : Out :=
  .next (onCore s lcn (wordOf (.put lcn d a b k)) (fun s l j c => dmaIssue s l j c 1 d.toNat a.toNat b.toNat k.toNat))
def execBlkget (lcn : BitVec 12) (d a b k : BitVec 5) (s : State) : Out :=
  .next (onCore s lcn (wordOf (.blkget lcn d a b k)) (fun s l j c => dmaIssue s l j c 2 d.toNat a.toNat b.toNat k.toNat))

/-- WAIT: stalls until every DMA of the core is complete. -/
def execWait (lcn : BitVec 12) (s : State) : Out :=
  .next (onCore s lcn (wordOf (.wait lcn)) (fun s l _ c => checkWait (setCore s l { c with wait := some .dma }) l))

/-- SEND. -/
def execSend (lcn : BitVec 12) (a b : BitVec 5) (s : State) : Out :=
  .next (onCore s lcn (wordOf (.send lcn a b)) (fun s l j c => coreSend s l j c a.toNat b.toNat))

/-- RECV. -/
def execRecv (lcn : BitVec 12) (d a : BitVec 5) (s : State) : Out :=
  .next (onCore s lcn (wordOf (.recv lcn d a)) (fun s l j c => coreRecv s l j c d.toNat a.toNat))

/-- BAR. -/
def execBar (lcn : BitVec 12) (s : State) : Out := .next (onCore s lcn (wordOf (.bar lcn)) coreBar)

/-- TCONTRIB: stages RED_ELEMS words from local sA (R225). -/
def execTcontrib (lcn : BitVec 12) (a : BitVec 5) (s : State) : Out :=
  .next (onCore s lcn (wordOf (.tcontrib lcn a)) (fun s l j c =>
    let n := redElems j
    let x := c.sget a.toNat
    if localOk x (4 * n) false = false then progFault s l 1
    else coreNext s j l 0xB { c with staged := c.staged ++
      [(List.range n).map (fun i => ofLE (localRead s j l c (x + 4 * i) 4))] }))

/-- UNEXT. (DEDUCED, assumption 61.) -/
def execUnext (lcn : BitVec 12) (d : BitVec 5) (s : State) : Out :=
  .next (onCore s lcn (wordOf (.unext lcn d)) (fun s l j c => unitNext s l j c d.toNat))

/-- ADD. -/
def execAdd (lcn : BitVec 12) (d a b : BitVec 5) (s : State) : Out := aluReg (wordOf (.add lcn d a b)) .add lcn d a b s
/-- SUB. -/
def execSub (lcn : BitVec 12) (d a b : BitVec 5) (s : State) : Out := aluReg (wordOf (.sub lcn d a b)) .sub lcn d a b s
/-- AND. -/
def execAnd (lcn : BitVec 12) (d a b : BitVec 5) (s : State) : Out := aluReg (wordOf (.and lcn d a b)) .and lcn d a b s
/-- OR. -/
def execOr (lcn : BitVec 12) (d a b : BitVec 5) (s : State) : Out := aluReg (wordOf (.or lcn d a b)) .or lcn d a b s
/-- XOR. -/
def execXor (lcn : BitVec 12) (d a b : BitVec 5) (s : State) : Out := aluReg (wordOf (.xor lcn d a b)) .xor lcn d a b s
/-- SLL. -/
def execSll (lcn : BitVec 12) (d a b : BitVec 5) (s : State) : Out := aluReg (wordOf (.sll lcn d a b)) .sll lcn d a b s
/-- SRL. -/
def execSrl (lcn : BitVec 12) (d a b : BitVec 5) (s : State) : Out := aluReg (wordOf (.srl lcn d a b)) .srl lcn d a b s
/-- SRA. -/
def execSra (lcn : BitVec 12) (d a b : BitVec 5) (s : State) : Out := aluReg (wordOf (.sra lcn d a b)) .sra lcn d a b s
/-- MUL. -/
def execMul (lcn : BitVec 12) (d a b : BitVec 5) (s : State) : Out := aluReg (wordOf (.mul lcn d a b)) .mul lcn d a b s
/-- MULH. -/
def execMulh (lcn : BitVec 12) (d a b : BitVec 5) (s : State) : Out := aluReg (wordOf (.mulh lcn d a b)) .mulh lcn d a b s
/-- MULHU. -/
def execMulhu (lcn : BitVec 12) (d a b : BitVec 5) (s : State) : Out := aluReg (wordOf (.mulhu lcn d a b)) .mulhu lcn d a b s
/-- SLT. -/
def execSlt (lcn : BitVec 12) (d a b : BitVec 5) (s : State) : Out := aluReg (wordOf (.slt lcn d a b)) .slt lcn d a b s
/-- SLTU. -/
def execSltu (lcn : BitVec 12) (d a b : BitVec 5) (s : State) : Out := aluReg (wordOf (.sltu lcn d a b)) .sltu lcn d a b s
/-- SEQ. -/
def execSeq (lcn : BitVec 12) (d a b : BitVec 5) (s : State) : Out := aluReg (wordOf (.seq lcn d a b)) .seq lcn d a b s
/-- MIN. -/
def execMin (lcn : BitVec 12) (d a b : BitVec 5) (s : State) : Out := aluReg (wordOf (.min lcn d a b)) .min lcn d a b s
/-- MAX. -/
def execMax (lcn : BitVec 12) (d a b : BitVec 5) (s : State) : Out := aluReg (wordOf (.max lcn d a b)) .max lcn d a b s
/-- MINU. -/
def execMinu (lcn : BitVec 12) (d a b : BitVec 5) (s : State) : Out := aluReg (wordOf (.minu lcn d a b)) .minu lcn d a b s
/-- MAXU. -/
def execMaxu (lcn : BitVec 12) (d a b : BitVec 5) (s : State) : Out := aluReg (wordOf (.maxu lcn d a b)) .maxu lcn d a b s
/-- ADDS. -/
def execAdds (lcn : BitVec 12) (d a b : BitVec 5) (s : State) : Out := aluReg (wordOf (.adds lcn d a b)) .adds lcn d a b s
/-- SUBS. -/
def execSubs (lcn : BitVec 12) (d a b : BitVec 5) (s : State) : Out := aluReg (wordOf (.subs lcn d a b)) .subs lcn d a b s
/-- BEQ. -/
def execBeq (lcn : BitVec 12) (a b : BitVec 5) (offset : BitVec 12) (s : State) : Out :=
  branchIf (wordOf (.beq lcn a b offset)) (fun x y => x == y) lcn a b offset s
/-- BNE. -/
def execBne (lcn : BitVec 12) (a b : BitVec 5) (offset : BitVec 12) (s : State) : Out :=
  branchIf (wordOf (.bne lcn a b offset)) (fun x y => x != y) lcn a b offset s
/-- BLT. -/
def execBlt (lcn : BitVec 12) (a b : BitVec 5) (offset : BitVec 12) (s : State) : Out :=
  branchIf (wordOf (.blt lcn a b offset)) (fun x y => decide (sgn 32 x < sgn 32 y)) lcn a b offset s
/-- BGE. -/
def execBge (lcn : BitVec 12) (a b : BitVec 5) (offset : BitVec 12) (s : State) : Out :=
  branchIf (wordOf (.bge lcn a b offset)) (fun x y => decide (sgn 32 y ≤ sgn 32 x)) lcn a b offset s
/-- BLTU. -/
def execBltu (lcn : BitVec 12) (a b : BitVec 5) (offset : BitVec 12) (s : State) : Out :=
  branchIf (wordOf (.bltu lcn a b offset)) (fun x y => decide (x < y)) lcn a b offset s
/-- BGEU. -/
def execBgeu (lcn : BitVec 12) (a b : BitVec 5) (offset : BitVec 12) (s : State) : Out :=
  branchIf (wordOf (.bgeu lcn a b offset)) (fun x y => decide (y ≤ x)) lcn a b offset s
/-- LB. -/
def execLb (lcn : BitVec 12) (d a : BitVec 5) (imm : BitVec 12) (s : State) : Out :=
  loadN (wordOf (.lb lcn d a imm)) 1 (fun v => wrap 32 (sgn 8 v)) lcn d a imm s
/-- LBU. -/
def execLbu (lcn : BitVec 12) (d a : BitVec 5) (imm : BitVec 12) (s : State) : Out :=
  loadN (wordOf (.lbu lcn d a imm)) 1 (fun v => v) lcn d a imm s
/-- LH. -/
def execLh (lcn : BitVec 12) (d a : BitVec 5) (imm : BitVec 12) (s : State) : Out :=
  loadN (wordOf (.lh lcn d a imm)) 2 (fun v => wrap 32 (sgn 16 v)) lcn d a imm s
/-- LHU. -/
def execLhu (lcn : BitVec 12) (d a : BitVec 5) (imm : BitVec 12) (s : State) : Out :=
  loadN (wordOf (.lhu lcn d a imm)) 2 (fun v => v) lcn d a imm s
/-- LW. -/
def execLw (lcn : BitVec 12) (d a : BitVec 5) (imm : BitVec 12) (s : State) : Out :=
  loadN (wordOf (.lw lcn d a imm)) 4 (fun v => v) lcn d a imm s
/-- SB. -/
def execSb (lcn : BitVec 12) (d a : BitVec 5) (imm : BitVec 12) (s : State) : Out :=
  storeN (wordOf (.sb lcn d a imm)) 1 lcn d a imm s
/-- SH. -/
def execSh (lcn : BitVec 12) (d a : BitVec 5) (imm : BitVec 12) (s : State) : Out :=
  storeN (wordOf (.sh lcn d a imm)) 2 lcn d a imm s
/-- SW. -/
def execSw (lcn : BitVec 12) (d a : BitVec 5) (imm : BitVec 12) (s : State) : Out :=
  storeN (wordOf (.sw lcn d a imm)) 4 lcn d a imm s
/-- VADD. -/
def execVadd (lcn : BitVec 12) (d a b : BitVec 5) (m : BitVec 3) (s : State) : Out :=
  vecOp (wordOf (.vadd lcn d a b m)) 5 (fun x y => x + y) lcn d a b m s
/-- VSUB. -/
def execVsub (lcn : BitVec 12) (d a b : BitVec 5) (m : BitVec 3) (s : State) : Out :=
  vecOp (wordOf (.vsub lcn d a b m)) 5 (fun x y => x + 65536 - y) lcn d a b m s
/-- VAND. -/
def execVand (lcn : BitVec 12) (d a b : BitVec 5) (m : BitVec 3) (s : State) : Out :=
  vecOp (wordOf (.vand lcn d a b m)) 5 (fun x y => x &&& y) lcn d a b m s
/-- VOR. -/
def execVor (lcn : BitVec 12) (d a b : BitVec 5) (m : BitVec 3) (s : State) : Out :=
  vecOp (wordOf (.vor lcn d a b m)) 5 (fun x y => x ||| y) lcn d a b m s
/-- VXOR. -/
def execVxor (lcn : BitVec 12) (d a b : BitVec 5) (m : BitVec 3) (s : State) : Out :=
  vecOp (wordOf (.vxor lcn d a b m)) 5 (fun x y => x ^^^ y) lcn d a b m s
/-- VSLL. -/
def execVsll (lcn : BitVec 12) (d a b : BitVec 5) (m : BitVec 3) (s : State) : Out :=
  vecOp (wordOf (.vsll lcn d a b m)) 5 (fun x y => x <<< (y % 16)) lcn d a b m s
/-- VSRL. -/
def execVsrl (lcn : BitVec 12) (d a b : BitVec 5) (m : BitVec 3) (s : State) : Out :=
  vecOp (wordOf (.vsrl lcn d a b m)) 5 (fun x y => x >>> (y % 16)) lcn d a b m s
/-- VSRA. -/
def execVsra (lcn : BitVec 12) (d a b : BitVec 5) (m : BitVec 3) (s : State) : Out :=
  vecOp (wordOf (.vsra lcn d a b m)) 5 (fun x y => wrap 16 (sar (sgn 16 x) (y % 16))) lcn d a b m s
/-- VMIN. -/
def execVmin (lcn : BitVec 12) (d a b : BitVec 5) (m : BitVec 3) (s : State) : Out :=
  vecOp (wordOf (.vmin lcn d a b m)) 5 (fun x y => if sgn 16 y < sgn 16 x then y else x) lcn d a b m s
/-- VMAX. -/
def execVmax (lcn : BitVec 12) (d a b : BitVec 5) (m : BitVec 3) (s : State) : Out :=
  vecOp (wordOf (.vmax lcn d a b m)) 5 (fun x y => if sgn 16 x < sgn 16 y then y else x) lcn d a b m s
/-- VADDS. -/
def execVadds (lcn : BitVec 12) (d a b : BitVec 5) (m : BitVec 3) (s : State) : Out :=
  vecOp (wordOf (.vadds lcn d a b m)) 5 (fun x y => wrap 16 (clampI (-32768) 32767 (sgn 16 x + sgn 16 y))) lcn d a b m s
/-- VSUBS. -/
def execVsubs (lcn : BitVec 12) (d a b : BitVec 5) (m : BitVec 3) (s : State) : Out :=
  vecOp (wordOf (.vsubs lcn d a b m)) 5 (fun x y => wrap 16 (clampI (-32768) 32767 (sgn 16 x - sgn 16 y))) lcn d a b m s
/-- VADDH. -/
def execVaddh (lcn : BitVec 12) (d a b : BitVec 5) (m : BitVec 3) (s : State) : Out :=
  vecOp (wordOf (.vaddh lcn d a b m)) 6 (fun x y => addF16 x y) lcn d a b m s
/-- VMULH. -/
def execVmulh (lcn : BitVec 12) (d a b : BitVec 5) (m : BitVec 3) (s : State) : Out :=
  vecOp (wordOf (.vmulh lcn d a b m)) 6 (fun x y => mulF16 x y) lcn d a b m s
/-- VCEQ. -/
def execVceq (lcn : BitVec 12) (d a b : BitVec 5) (s : State) : Out :=
  vecCmp (wordOf (.vceq lcn d a b)) (fun x y => x == y) lcn d a b s
/-- VCLT. -/
def execVclt (lcn : BitVec 12) (d a b : BitVec 5) (s : State) : Out :=
  vecCmp (wordOf (.vclt lcn d a b)) (fun x y => decide (sgn 16 x < sgn 16 y)) lcn d a b s
/-- VDOT8. -/
def execVdot8 (lcn : BitVec 12) (d a b : BitVec 5) (m : BitVec 3) (s : State) : Out :=
  vecDot (wordOf (.vdot8 lcn d a b m)) (fun x => sgn 8 x) lcn d a b m s
/-- VDOT8U. -/
def execVdot8u (lcn : BitVec 12) (d a b : BitVec 5) (m : BitVec 3) (s : State) : Out :=
  vecDot (wordOf (.vdot8u lcn d a b m)) (fun x => (x : Int)) lcn d a b m s
/-- MAND. -/
def execMand (lcn : BitVec 12) (d a b : BitVec 5) (s : State) : Out :=
  maskOp (wordOf (.mand lcn d a b)) (fun x y => x &&& y) lcn d a b s
/-- MOR. -/
def execMor (lcn : BitVec 12) (d a b : BitVec 5) (s : State) : Out :=
  maskOp (wordOf (.mor lcn d a b)) (fun x y => x ||| y) lcn d a b s
/-- MXOR. -/
def execMxor (lcn : BitVec 12) (d a b : BitVec 5) (s : State) : Out :=
  maskOp (wordOf (.mxor lcn d a b)) (fun x y => x ^^^ y) lcn d a b s
/-- RADDF. -/
def execRaddf (lcn : BitVec 12) (d a : BitVec 5) (s : State) : Out := laneReduce (wordOf (.raddf lcn d a)) 0 lcn d a s
/-- RADDI. -/
def execRaddi (lcn : BitVec 12) (d a : BitVec 5) (s : State) : Out := laneReduce (wordOf (.raddi lcn d a)) 1 lcn d a s
/-- RMAXF. -/
def execRmaxf (lcn : BitVec 12) (d a : BitVec 5) (s : State) : Out := laneReduce (wordOf (.rmaxf lcn d a)) 2 lcn d a s
/-- RMINF. -/
def execRminf (lcn : BitVec 12) (d a : BitVec 5) (s : State) : Out := laneReduce (wordOf (.rminf lcn d a)) 3 lcn d a s
/-- RMAXI. -/
def execRmaxi (lcn : BitVec 12) (d a : BitVec 5) (s : State) : Out := laneReduce (wordOf (.rmaxi lcn d a)) 4 lcn d a s
/-- RMINI. -/
def execRmini (lcn : BitVec 12) (d a : BitVec 5) (s : State) : Out := laneReduce (wordOf (.rmini lcn d a)) 5 lcn d a s

end Sys2Proof.Machine
end

