-- ==== Sys2Proof/Machine/Checks.lean ====
section
/-! DEFINITION. The value checks of a commit (step 2 of R42): for each frozen word the cause with which it is rejected, tested on
the state that would be in force (R35, R46, R75, R76, R93, R98, R104, R114, R154, R266, R267, R270, R294, R310, R315, R322, R339,
R346, R347, R363, R387, R406, R433, R452, R456, R508, R515, R532, R543), and the commit groups (step 3). -/

namespace Sys2Proof.Machine

/-- The first cause whose test holds, 0 for none. -/
def firstCause : List (Bool × Nat) → Nat
  | [] => 0
  | (c, k) :: r => if c then k else firstCause r

/-- A range that is not empty and does not lie in Court and LPDDR6 (R390). -/
def rangeBad (v : State) (a n : Nat) (wr : Bool) : Bool := n != 0 && !rangeOk v a n wr

/-- A number lies outside two ends. -/
def outside (lo hi n : Nat) : Bool := decide (n < lo) || decide (hi < n)

/-- The address in a LO and a HI register that would be in force. -/
def addrOf (v : State) (lo hi : Nat) : Nat := addr40 v v.regs lo hi

/-- The plan's route of a number. -/
def planRoute (v : State) (r : Nat) : Option Route :=
  if v.fab.inForce then v.fab.plan.routes.find? (fun x => x.route == r) else none

/-! ## WHS and FRS (R35, R322, R339, R347, R452) -/

/-- FETCH_NS lies outside the range of R322. -/
def fetchBad (v : State) : Bool :=
  let mask := fld v Reg.FRS_CHAIN_EN 7 0 ||| fld v Reg.FRS_CHAIN_EN 15 8
  let len := ((setPositions 8 mask).map (fun n => fld v (Reg.FRS_CHAIN_LEN n) 7 0)).foldl max 0
  let f := fld v Reg.FRS_TIMING 17 0
  let p := fld v Reg.WHS_PERIOD 19 0 * 1024 + fld v Reg.WHS_PERIOD 29 20
  decide (f < 3000 + 20 * (64 + 48 * len)) || decide (p < (f + 20000) * 1024)

/-- R347 fails on the values that would be in force. -/
def displayBad (v : State) : Bool := !displayOk v v.regs

/-- WHS registers. (DEDUCED, assumption 22.) -/
def whsCause (v : State) (a : Nat) : Nat :=
  if a = Reg.WHS_PERIOD then
    let t := fld v a 19 0
    let p := t * 1024 + fld v a 29 20
    firstCause [(t == 0, causeZERO), (outside (208333 * 1024 + 341) (833333 * 1024 + 341) p, causeRANGE),
      (v.fab.inForce && outside v.fab.plan.minTick v.fab.plan.maxTick t, causePLAN), (fetchBad v || displayBad v, causeRANGE)]
  else if a = Reg.WHS_COMMIT then firstCause [(outside 6000 50000 (fld v a 15 0), causeRANGE)]
  else 0

/-- A takeover chain carries channels of a route of the plan (R452). -/
def maskServesRoute (v : State) : Bool :=
  v.fab.inForce && (setPositions 8 (fld v Reg.FRS_CHAIN_EN 15 8)).any (fun n => v.fab.plan.routes.any (fun r =>
    r.chanCount != 0 && decide (r.chanFirst < 128 * n + 128) && decide (128 * n < r.chanFirst + r.chanCount)))

/-- FRS registers. -/
def frsCause (v : State) (a : Nat) : Nat :=
  if a = Reg.FRS_CHAIN_EN then
    firstCause [(fld v a 7 0 &&& fld v a 15 8 != 0, causeRANGE), (maskServesRoute v, causePLAN), (fetchBad v, causeRANGE)]
  else if a = Reg.FRS_TIMING then firstCause [(fetchBad v, causeRANGE)]
  else if a = Reg.FRS_LINE then firstCause [(fld v a 10 0 == 0, causeZERO), (decide (1040 < fld v a 10 0), causeRANGE)]
  else if a = Reg.FRS_FRAME then firstCause [(fld v a 15 0 == 0, causeZERO)]
  else if Reg.FRS_CHAIN_LEN 0 ≤ a ∧ a ≤ Reg.FRS_CHAIN_LEN 7 then
    firstCause [(fld v a 7 0 == 0, causeZERO), (decide (128 < fld v a 7 0) || fetchBad v, causeRANGE)]
  else 0

/-! ## Huddles and contexts (R75, R76, R79, R381, R387) -/

/-- A job list's address is not aligned, or its range lies outside. -/
def listBad (v : State) (lo hi count : Nat) : Bool :=
  let a := addrOf v lo hi
  a % 16 != 0 || rangeBad v a (16 * fld v count 11 0) false

/-- HUD registers; `h` is a huddle of the plan that would be in force. A word of a huddle that this plan does not define passes, counts as
accepted, and has no register to change. (DESIGN CHOICE, assumption 131.) -/
def hudCause (v : State) (a : Nat) : Nat :=
  let h := (a - 0x30000) / 0x100
  let o := a % 0x100
  match findHuddle v.fab.plan h with
  | none => 0
  | some x => firstCause [(x.parent != 0xFF, causePLAN), (o == 0x1C && x.pinned && fld v a 0 0 == 1, causePLAN),
      ((o == 0x10 || o == 0x14 || o == 0x18) && listBad v (Reg.HUD_JOB_LO h) (Reg.HUD_JOB_HI h) (Reg.HUD_JOB_COUNT h), causeRANGE)]

/-- SCH registers; residence is that of the state `s` before the commit. (DEDUCED, assumption 24.) -/
def schCause (s v : State) (a : Nat) : Nat :=
  let c := (a - 0x100000) / 0x20
  let o := a % 0x20
  if 0x100400 ≤ a then 0
  else match Map.get s.sch.ctxs c with
    | none => causePLAN
    | some x => firstCause [(o == 0 && x.record.role == 1 && fld v a 1 1 == 0, causePLAN), (o != 0 && x.record.role == 0, causePLAN),
        (o != 0 && listBad v (Reg.SCH_CTX_JOB_LO c) (Reg.SCH_CTX_JOB_HI c) (Reg.SCH_CTX_JOB_COUNT c), causeRANGE)]

/-! ## CAM and VSN (R88, R90, R93, R98, R104, R114, R154) -/

/-- Data type, width and height of stream `kind` of a port. -/
def streamDesc (v : State) (p kind : Nat) : Nat × Nat × Nat :=
  let f := if kind = 0 then Reg.CAM_PORT_FULL_FMT p else Reg.CAM_PORT_BAND_FMT p
  let z := if kind = 0 then Reg.CAM_PORT_FULL_SIZE p else Reg.CAM_PORT_BAND_SIZE p
  (fld v f 9 4, fld v z 13 0, fld v z 29 16)

/-- The width does not meet the packing unit of the data type. (DEDUCED, assumption 23.) -/
def widthBad (v : State) (p kind : Nat) : Bool :=
  let d := streamDesc v p kind
  match dtPack d.1 with
  | some u => d.2.1 % u.2 != 0
  | none => false

/-- The capture ring exceeds 1 GiB or lies outside. -/
def captureRingBad (v : State) (p : Nat) : Bool :=
  let bytes (kind : Nat) : Nat := let d := streamDesc v p kind; captureSlot d.1 d.2.1 d.2.2
  let n := fld v (Reg.CAM_PORT_RING p) 7 0 * bytes 0 + fld v (Reg.CAM_PORT_RING p) 15 8 * bytes 1
  decide (2 ^ 30 < n) || rangeBad v (addrOf v (Reg.CAM_PORT_RING_LO p) (Reg.CAM_PORT_RING_HI p)) n true

/-- The offsets of a port whose values a pair must share. -/
def pairOffsets : List Nat := [0x04, 0x08, 0x20, 0x24]

/-- The pair of a port that a route of the plan names. -/
def pairOfPort (v : State) (p : Nat) : Option Nat :=
  if v.fab.inForce && v.fab.plan.routes.any (fun r => isPair r && (portsOf r.source).contains p) then some (p / 2) else none

/-- The ports of a named pair would differ (R104). -/
def pairBad (v : State) (a : Nat) : Bool :=
  let p := (a - 0x40000) / 0x80
  match (if pairOffsets.contains (a % 0x80) then pairOfPort v p else none) with
  | none => false
  | some k => pairOffsets.any (fun o => reg v (0x40000 + 2 * k * 0x80 + o) != reg v (0x40000 + (2 * k + 1) * 0x80 + o))

/-- A port's registers; `wr` tells the words written. -/
def portCause (v : State) (wr : Nat → Bool) (a : Nat) : Nat :=
  let p := (a - 0x40000) / 0x80
  let o := a % 0x80
  let kind := if o = 4 ∨ o = 8 then 0 else 1
  let d := streamDesc v p kind
  if o = 0 then firstCause [(fld v a 2 1 == 3, causeRANGE)]
  else if o = 4 ∨ o = 0xC then
    firstCause [((dtPack d.1).isNone || (!wr (a + 4) && widthBad v p kind) || captureRingBad v p || pairBad v a, causeRANGE)]
  else if o = 8 ∨ o = 0x10 then
    firstCause [(decide (8192 < d.2.1) || decide (8192 < d.2.2) || widthBad v p kind || captureRingBad v p || pairBad v a, causeRANGE)]
  else if o = 0x20 then
    firstCause [((fld v a 7 0 != 0 && decide (fld v a 7 0 ≤ fld v a 15 8)) || pairBad v a, causeRANGE)]
  else if o = 0x24 then firstCause [(decide (200000 < fld v a 17 0) || pairBad v a, causeRANGE)]
  else if o = 0x28 then firstCause [(decide (16 < fld v a 20 16), causeRANGE)]
  else if 0x2C ≤ o ∧ o ≤ 0x38 then
    firstCause [((leBytes 4 (reg v a)).any (fun b => decide (127 < b.toNat) && b != 0xFF), causeRANGE)]
  else if 0x40 ≤ o ∧ o ≤ 0x48 then firstCause [(captureRingBad v p, causeRANGE)]
  else 0

/-- CAM registers; RATE of a bus that is off may be 1 to 125. (DESIGN CHOICE, assumption 142.) -/
def camCause (v : State) (wr : Nat → Bool) (a : Nat) : Nat :=
  if a < 0x40800 then portCause v wr a
  else if 0x41000 ≤ a ∧ a < 0x41060 then
    let r := fld v a 11 4
    firstCause [(fld v a 1 0 == 3 || outside 1 (if fld v a 1 0 = 1 then 10 else 125) r, causeRANGE)]
  else if a = Reg.CAM_ENC_SCALE 0 ∨ a = Reg.CAM_ENC_SCALE 1 ∨ a = Reg.CAM_IMU_GYRO_SCALE ∨ a = Reg.CAM_IMU_ACC_SCALE then
    firstCause [(reg v a == 0, causeRANGE)]
  else if a = Reg.CAM_IMU_CTRL then firstCause [(outside 1 20 (fld v a 6 2), causeRANGE)]
  else if a = Reg.CAM_POSE_BASE_LO ∨ a = Reg.CAM_POSE_BASE_HI then
    firstCause [(rangeBad v (addrOf v Reg.CAM_POSE_BASE_LO Reg.CAM_POSE_BASE_HI) 0x200000 true, causeRANGE)]
  else 0

/-- VSN registers. -/
def vsnCause (v : State) (a : Nat) : Nat :=
  let n := (a - 0x60000) / 0x40
  let o := a % 0x40
  if 0x60400 ≤ a then 0
  else if o = 0 then firstCause [(decide (2048 < fld v a 27 16), causeRANGE)]
  else if 4 ≤ o ∧ o ≤ 0xC then
    firstCause [(rangeBad v (addrOf v (Reg.VSN_SEQ_RING_LO n) (Reg.VSN_SEQ_RING_HI n))
      (fld v (Reg.VSN_SEQ_RING n) 7 0 * fld v (Reg.VSN_SEQ_RING n) 23 8 * 65536) true, causeRANGE)]
  else 0

/-! ## SYN and TRK (R261, R266, R267, R270, R294, R315) -/

/-- The huddle that a field names is 0xFF or one of the plan. -/
def hudNamed (v : State) (h : Nat) : Bool := h == 0xFF || (findHuddle v.fab.plan h).isSome

/-- The synthesis registers of a route. -/
def synRouteCause (v : State) (a : Nat) : Nat :=
  let r := (a - 0xC0000) / 0x40
  let o := a % 0x40
  let x := planRoute v r
  if o = 0 then
    let nf := fld v a 2 1
    let lead := fld v a 25 16
    firstCause [(nf == 3 || decide (4 < nf + fld v a 4 3) || decide (127 < fld v a 15 8) || outside 2 1023 lead, causeRANGE),
      (x.isNone && fld v a 0 0 == 1, causePLAN),
      ((match x with | some q => decide (lead < q.decTick + 1) | none => false) || (x.isSome && decide (nLines v < lead + 1)),
        causePLAN)]
  else if o = 8 then firstCause [(outside 500000 4000000 (fld v a 21 0), causeRANGE)]
  else if o = 0xC then firstCause [(decide (8 < fld v a 27 24), causeRANGE)]
  else if o = 0x14 then
    firstCause [((match x with | some q => isPair q | none => false) && fld v a 15 0 == 0, causeRANGE)]
  else if o = 0x1C then firstCause [(decide (1016 < fld v a 9 0), causeRANGE)]
  else if 0x20 ≤ o ∧ o ≤ 0x28 then
    let n := fld v (Reg.SYN_RT_RING r) 4 0
    firstCause [(o == 0x28 && decide (16 < n), causeRANGE),
      (o == 0x28 && n != 0 && (match x with | some q => decide (n ≤ q.decTick + 1) | none => false), causePLAN),
      (rangeBad v (addrOf v (Reg.SYN_RT_RING_LO r) (Reg.SYN_RT_RING_HI r)) (n * 0x190000) true, causeRANGE)]
  else 0

/-- SYN registers. (DEDUCED, assumption 25.) -/
def synCause (v : State) (a : Nat) : Nat :=
  if a < 0xC0400 then synRouteCause v a
  else if 0xC0800 ≤ a ∧ a < 0xC0C00 then
    let o := a % 0x40
    firstCause [((o == 0 || o == 4) && reg v a == 0, causeRANGE), ((o == 0x18 || o == 0x1C) && fld v a 31 30 == 3, causeRANGE)]
  else if a = Reg.SYN_JOB then firstCause [(fld v a 23 0 == 0, causeRANGE)]
  else if a = Reg.SYN_VW_CTRL then
    firstCause [(fld v a 23 16 == 1, causeRANGE), (!hudNamed v (fld v a 15 8), causePLAN), (displayBad v, causeRANGE)]
  else if a = Reg.SYN_VW_DESC_LO ∨ a = Reg.SYN_VW_DESC_HI then
    firstCause [(rangeBad v (addrOf v Reg.SYN_VW_DESC_LO Reg.SYN_VW_DESC_HI) 128 false, causeRANGE)]
  else if a = Reg.SYN_VW_PIC_LO ∨ a = Reg.SYN_VW_PIC_HI then
    firstCause [(rangeBad v (addrOf v Reg.SYN_VW_PIC_LO Reg.SYN_VW_PIC_HI) (3 * 8192) true, causeRANGE)]
  else 0

/-- TRK registers. -/
def trkCause (v : State) (a : Nat) : Nat :=
  if a < 0xD0400 then
    let r := (a - 0xD0000) / 0x40
    let o := a % 0x40
    firstCause [((planRoute v r).isNone, causePLAN), (o == 0 && fld v a 2 1 == 3, causeRANGE),
      (o == 4 && (fld v a 7 0 == 0 || decide (fld v a 7 0 < fld v a 15 8)), causeRANGE),
      (o == 0xC && fld v a 20 0 == 0, causeRANGE), (o == 0x14 && decide (200000 < fld v a 17 0), causeRANGE),
      (o == 0x18 && (List.range 16).any (fun k => fld v a (2 * k + 1) (2 * k) == 3), causeRANGE),
      ((o == 0x1C || o == 0x20) && rangeBad v (addrOf v (Reg.TRK_RT_MAP_LO r) (Reg.TRK_RT_MAP_HI r)) 131072 false, causeRANGE)]
  else if a = Reg.TRK_JOB then firstCause [(fld v a 23 0 == 0, causeRANGE)]
  else if a = Reg.TRK_SNAP_LO ∨ a = Reg.TRK_SNAP_HI then
    firstCause [(fld v Reg.TRK_SNAP_HI 31 31 == 1 && rangeBad v (addrOf v Reg.TRK_SNAP_LO Reg.TRK_SNAP_HI) 0x20000 true, causeRANGE)]
  else 0

/-! ## VRS (R346, R347, R363) -/

/-- A timing word's own values; the clone's word has the same layout (R346). -/
def vrsWordCause (v : State) (a : Nat) (clone : Bool) : Nat :=
  let t := timingOf v v.regs clone
  let o := if clone then a - 0xF003C else a - 0xF0000
  if o = 8 then
    firstCause [(outside 25000000 1100000000 t.pclk || (clone && outside 40000000 224000000 t.pclk), causeRANGE)]
  else if o = 0xC then
    firstCause [(t.hact == 0, causeZERO), (outside 640 3840 t.hact || t.hact % (if clone then 2 else 8) != 0 || decide (8192 < t.htotal) || decide (t.hbp < 1),
      causeRANGE)]
  else if o = 0x10 then firstCause [(decide (t.hsw < 1) || decide (t.hbp < 1), causeRANGE)]
  else if o = 0x14 then firstCause [(t.vact == 0, causeZERO), (outside 480 2160 t.vact || decide (t.vfpMin < 1), causeRANGE)]
  else if o = 0x18 then firstCause [(decide (t.vsw < 1) || decide (t.vbp < 1), causeRANGE)]
  else 0

/-- VRS registers: a word's own check, then R347 on the words of the timing groups. -/
def vrsCause (v : State) (a : Nat) : Nat :=
  let own :=
    if a = Reg.VRS_LINK then firstCause [(fld v a 3 2 == 3, causeRANGE)]
    else if a = Reg.VRS_STATIC then firstCause [(decide (16 < fld v a 12 8), causeRANGE)]
    else if a = Reg.VRS_LV_CTRL then firstCause [(decide (8 < fld v a 5 2), causeRANGE)]
    else if 0xF0008 ≤ a ∧ a ≤ 0xF0018 then vrsWordCause v a false
    else if 0xF0044 ≤ a ∧ a ≤ 0xF0054 then vrsWordCause v a true
    else 0
  if own ≠ 0 then own
  else if (a ≤ 0xF0018 ∨ (0xF0040 ≤ a ∧ a ≤ 0xF0054)) ∧ displayBad v = true then causeRANGE
  else 0

/-! ## MEM, LYS, PWR, PMC (R406, R433, R456, R508, R515, R532) -/

/-- A threshold of the group is out of its range, or one of a later step lies above one of an earlier step, both non-zero. -/
def thresholdsBad (v : State) : Bool :=
  let falls (l : List Nat) : Bool := (List.range 7).all (fun i => (List.range i).all (fun j =>
    let x := (l[j]?).getD 0
    let y := (l[i]?).getD 0
    x == 0 || y == 0 || decide (y ≤ x)))
  let b := (upTo 1 8).map (busThr v)
  let c := (upTo 1 8).map (coreThr v)
  b.any (fun x => decide (38400 < x)) || c.any (fun x => decide (800 < x)) || !falls b || !falls c

/-- The events of R532. -/
def pmcEvents : List Nat :=
  [0, 1, 2, 3, 0x10, 0x11, 0x12, 0x13, 0x20, 0x21, 0x22, 0x23, 0x30, 0x31, 0x32, 0x33, 0x34, 0x35, 0x36, 0x37, 0x38, 0x40, 0x50,
   0x51, 0x52, 0x58, 0x59, 0x60, 0x61, 0x62, 0x63, 0x70, 0x71]

/-- The other blocks' registers. -/
def otherCause (v : State) (a : Nat) : Nat :=
  if a = Reg.MEM_COPY then firstCause [(outside 1 32 (fld v a 5 0), causeRANGE)]
  else if a = Reg.LYS_RING then
    let n := fld v a 6 4 + 1
    firstCause [(decide (n ≤ fld v a 2 0) || (fld v a 8 8 == 1 && n % 2 == 1), causeRANGE)]
  else if a = Reg.LYS_TK then firstCause [(fld v a 2 1 == 3, causeRANGE), (!hudNamed v (fld v a 15 8), causePLAN)]
  else if a = Reg.LYS_TK_JOB then firstCause [(fld v a 23 0 == 0, causeRANGE)]
  else if 0x150010 ≤ a ∧ a < 0x150048 then firstCause [(thresholdsBad v, causeRANGE)]
  else if a = Reg.PWR_THERM then firstCause [(decide (fld v a 15 8 < fld v a 7 0), causeRANGE)]
  else if 0x170000 ≤ a ∧ a < 0x170400 ∧ a % 0x10 = 0 then firstCause [(!pmcEvents.contains (fld v a 7 0), causeRANGE)]
  else 0

/-- The cause of step 2 of R42 for a written word: `s` is the state before the commit, `v` the state that would be in force. -/
def wordCause (s v : State) (wr : Nat → Bool) (a : Nat) : Nat :=
  match a / 0x10000 with
  | 0x1 => whsCause v a
  | 0x3 => hudCause v a
  | 0x4 => camCause v wr a
  | 0x6 => vsnCause v a
  | 0xC => synCause v a
  | 0xD => trkCause v a
  | 0xE => frsCause v a
  | 0xF => vrsCause v a
  | 0x10 => schCause s v a
  | _ => otherCause v a

/-! ## The state that would be in force, and the groups -/

/-- A register word with the WC fields of a written word (R43); bits outside them stay. -/
def mergeWord (s : State) (a : Nat) (x : Word) : Word :=
  match findReg a with
  | none => x
  | some (d, _) =>
    let m := BitVec.ofNat 32 d.wc
    (regW s a &&& ~~~m) ||| (x &&& m)

/-- The state with written words in force. -/
def withWords (s : State) (words : Map Word) : State :=
  { s with regs := words.foldl (fun m e => Map.set m e.1 (mergeWord s e.1 e.2)) s.regs }

/-- The commit groups of a word: its register group, and the pair of its port (R42, R104). (DEDUCED, assumption 44.) -/
def groupKeys (v : State) (a : Nat) : List (Nat × Nat) :=
  (match groupOf a with | some g => [g] | none => [])
    ++ (if 0x40000 ≤ a ∧ a < 0x40800 ∧ pairOffsets.contains (a % 0x80) = true then
          (match pairOfPort v ((a - 0x40000) / 0x80) with | some k => [(1000, k)] | none => [])
        else [])

/-- The words rejected because another of a group of theirs is, `bad` being those rejected so far; two groups that share words
may pass a rejection on. -/
def groupSpread (v : State) (words : List Nat) : Nat → List Nat → List Nat
  | 0, bad => bad
  | k + 1, bad =>
    let keys := bad.flatMap (groupKeys v)
    groupSpread v words k (words.filter (fun a => bad.contains a || (groupKeys v a).any (fun g => keys.contains g)))

/-- The verdict on every written word (steps 2 and 3 of R42): its cause, 0 where it is accepted. (DEDUCED, assumption 21.) -/
def wordVerdicts (s v : State) (words : List Nat) : List (Nat × Nat) :=
  let own := words.map (fun a => (a, wordCause s v words.contains a))
  let bad := (own.filter (fun e => e.2 != 0)).map (·.1)
  let all := groupSpread v words 4 bad
  own.map (fun e => (e.1, if e.2 ≠ 0 then e.2 else if all.contains e.1 then causeGROUP else 0))

end Sys2Proof.Machine
end

