-- ==== Sys2Proof/Machine/Pages.lean ====
section
/-! DEFINITION. Command pages (R424–R428): their format and CRC, the commands they carry, and what each command is at the commit. -/

namespace Sys2Proof.Machine

/-- One command of a command page: its operands, and its offset in the page (R425). -/
structure PageCmd where
  ref : CmdRef
  offset : Nat
  opcode : Nat
  bytes : List Byte
  deriving DecidableEq, Repr

/-- A page as read: the cause with which it fails (0 for none), its TAG, COUNT and commands. -/
structure PageRead where
  cause : Nat
  tag : Nat
  count : Nat := 0
  cmds : List PageCmd := []
  deriving DecidableEq, Repr

/-- The base of a command page (R29). -/
def pageBase (p : Nat) : Nat := 0x400000 + p * 0x10000

/-- The opcode is known and LENGTH is what R425 gives it. -/
def lengthOk (op len : Nat) : Bool :=
  match op with
  | 0x0301 => len == 16
  | 0x0302 => len == 16
  | 0x0303 => len == 8
  | 0x0C01 => len == 40
  | 0x0C02 => len == 16
  | 0x0D01 => len == 24
  | 0x0D02 => len == 24
  | 0x0E01 => len % 8 == 0 && decide (8 ≤ len)
  | 0x1001 => len == 16
  | 0x1002 => len == 24
  | 0x1003 => len == 48
  | 0x1004 => len == 56
  | 0x1005 => len == 8
  | 0x1101 => len == 16
  | _ => false

/-- Operand bytes that are reserved or padding, as offset and number (R371, R489, R502). -/
def reservedOperands (op : Nat) : List (Nat × Nat) :=
  match op with
  | 0x0C02 => [(1, 7)]
  | 0x1002 => [(1, 3), (12, 4)]
  | 0x1003 => [(36, 4)]
  | 0x1101 => [(4, 4)]
  | _ => []

/-- `k` commands of page p from an offset, in a page of bytes `b` whose commands end at `lim`; none where one is malformed. -/
def pageCmds (b : List Byte) (p lim : Nat) : Nat → Nat → Nat → Option (List PageCmd)
  | 0, _, _ => some []
  | k + 1, i, o =>
    let op := fieldLE b o 2
    let len := fieldLE b (o + 2) 2
    let arg := slice b (o + 8) (len - 8)
    if lim < o + 8 ∨ lengthOk op len = false ∨ lim < o + len ∨ fieldLE b (o + 4) 4 ≠ 0
        ∨ (reservedOperands op).any (fun r => !allZero (slice arg r.1 r.2)) = true then none
    else (pageCmds b p lim k (i + 1) (o + len)).map (fun l => { ref := ⟨p, i⟩, offset := o, opcode := op, bytes := arg } :: l)

/-- The header of a page is malformed: MAGIC, VERSION, COUNT, EXTENT or a reserved byte (R424, R426). -/
def headerBad (h : List Byte) : Bool :=
  let e := fieldLE h 8 4
  fieldLE h 0 4 != 0x45474150 || fieldLE h 4 2 != 1 || decide (55 < fieldLE h 6 1) || fieldLE h 7 1 != 0 || !allZero (slice h 16 16)
    || e % 4 != 0 || decide (e < 0x24) || decide (0x10000 < e)

/-- Step 1 of R42 on a page (R426). (DEDUCED, assumption 31.) -/
def readPage (s : State) (p : Nat) : PageRead :=
  let h := Mem.read 0 s.pages (pageBase p) 32
  let tag := fieldLE h 12 4
  let n := fieldLE h 6 1
  if headerBad h then { cause := causeFORMAT, tag := tag, count := n }
  else
    let lim := fieldLE h 8 4 - 4
    let b := Mem.read 0 s.pages (pageBase p) (lim + 4)
    if crc32 (b.take lim) ≠ fieldLE b lim 4 then { cause := causeCRC, tag := tag, count := n }
    else match pageCmds b p lim n 0 0x20 with
      | none => { cause := causeFORMAT, tag := tag, count := n }
      | some l => { cause := 0, tag := tag, count := n, cmds := l }

/-- A command other than PLAN_SWITCH, CTX_JOIN and CTX_LEAVE, at the commit of a Whistle that fell at `inst`. -/
def takeCmd (s : State) (inst : Nat) (c : PageCmd) : CmdResult :=
  let b := c.bytes
  let lent := lentSize s
  match c.opcode with
  | 0x0301 => takePlanLoad s lent c.ref (fieldLE b 0 4) (fieldLE b 4 4)
  | 0x0303 => takeDiscard s
  | 0x0D01 => takeCopy s lent true c.ref (fieldLE b 0 4) (fieldLE b 4 4) (fieldLE b 8 8)
  | 0x0D02 => takeCopy s lent false c.ref (fieldLE b 0 4) (fieldLE b 4 4) (fieldLE b 8 8)
  | 0x1101 => takeWarm s (fieldLE b 0 4) inst
  | 0x0E01 => { state := s, code := codeOK }
  | op => takeSec s lent c.ref op b

/-- The record of a page as taken at Whistle w: every entry OK until its command is decided; a page without commands is EMPTY. -/
def takenRecord (w : Nat) (x : PageRead) : CompRec :=
  { seq := w, tag := x.tag, taken := w, status := if x.count = 0 then 1 else 0, count := x.count,
    entries := x.cmds.map (fun c => (codeOK, 0, c.offset)) }

/-- The record of a page rejected whole. -/
def rejectedRecord (w : Nat) (x : PageRead) : CompRec :=
  { seq := w, tag := x.tag, taken := w, status := 3, cause := x.cause, count := x.count }

/-- The bytes of a completion record (R428). -/
def recordBytes (r : CompRec) : List Byte :=
  let es := r.entries.flatMap (fun e => leBytes 1 e.1 ++ leBytes 1 e.2.1 ++ leBytes 2 e.2.2)
  let head := leBytes 4 r.seq ++ leBytes 4 r.tag ++ leBytes 4 r.taken
    ++ leBytes 1 r.status ++ leBytes 1 r.cause ++ leBytes 1 r.count ++ leBytes 1 r.pending
  head ++ List.replicate 16 0 ++ slice es 0 220 ++ leBytes 4 r.seq

/-- The completion record of a page is written (R428). -/
def writeRecord (s : State) (p : Nat) : State :=
  match Map.get s.com.comps p with
  | none => s
  | some r => statWrite s (0x802000 + p * 0x100) (recordBytes r)

end Sys2Proof.Machine
end

