-- ==== Sys2Proof/Machine/Commit.lean ====
section
/-! DEFINITION. The commit of a Whistle (R39, R42–R54, R82–R84, R372, R427, R428): pages, register words, groups, context leaves
and joins, a plan switch, and the other commands, in the order of R42. -/

namespace Sys2Proof.Machine

/-- What a commit gives: the state, the reject records in the order of R42, what was applied, the page masks, the words accepted,
and whether a plan switch or a period change was among them. -/
structure CommitOut where
  state : State
  rejects : List Reject := []
  accepted : Nat := 0
  taken : List Nat := []
  rejPages : List Nat := []
  written : List Nat := []
  joined : List Nat := []
  warm : List Nat := []
  switched : Bool := false
  period : Bool := false

/-- Fields that read 0 after the commit: a 1 in them acts once and is no value in force (R110, R315, R339, R533, R543).
(DEDUCED, assumption 26.) -/
def selfClearing (a : Nat) : Nat :=
  if a = Reg.CAM_MOTION_CTRL ∨ a = Reg.TRK_CTRL then 1
  else if a = Reg.FRS_CTRL then 4
  else if 0x170000 ≤ a ∧ a < 0x170400 ∧ a % 0x10 = 0 then 0x200
  else if a = Reg.PMC_CTRL then 2
  else 0

/-- An accepted word changes the value in force (R50). -/
def wordChanges (s : State) (a : Nat) (x : Word) : Bool :=
  let m := ~~~(BitVec.ofNat 32 (selfClearing a))
  (mergeWord s a x &&& m) != (regW s a &&& m)

/-- The reject record of a register word, a page or a command (R49). (DEDUCED, assumption 44.) -/
def wordReject (s : State) (a cause : Nat) (v : Word) : Reject :=
  { addr := a, cause := cause, kind := 0, value := v.toNat, kept := reg s a }
def pageReject (p cause : Nat) : Reject := { addr := pageBase p, cause := cause, kind := 1, value := 0, kept := 0 }
def cmdReject (c : PageCmd) (cause : Nat) : Reject :=
  { addr := pageBase c.ref.page + c.offset, cause := cause, kind := 2, value := 0, kept := 0 }

/-- The verdicts so far: the state, and each command decided with its code and cause. -/
structure CmdRun where
  state : State
  codes : List (CmdRef × Nat × Nat) := []

/-- One command's verdict joins the run. -/
def CmdRun.add (x : CmdRun) (c : PageCmd) (r : CmdResult) : CmdRun :=
  { state := recordCmd r.state c.ref r.code r.cause, codes := x.codes ++ [(c.ref, r.code, r.cause)] }

/-- Commands of one kind are decided in ascending page number and command offset (R43). -/
def runCmds (l : List PageCmd) (f : State → PageCmd → CmdResult) (x : CmdRun) : CmdRun :=
  l.foldl (fun x c => x.add c (f x.state c)) x

/-- The cause with which a command was rejected, 0 for none. -/
def CmdRun.causeOf (x : CmdRun) (c : PageCmd) : Nat :=
  match x.codes.find? (fun e => e.1 == c.ref) with
  | some e => if e.2.1 = codeREJECTED then e.2.2 else 0
  | none => 0

/-- Steps 2 to 5 of R42 on the commands and frozen words, with the plan switch `sw` where it is to be taken; none where that switch
is refused because a declared join finds no share (R83). (DEDUCED, assumptions 21, 24.) -/
def tryCommit (s : State) (w inst lmax : Nat) (cmds : List PageCmd) (sw : Option PageCmd) (refused : Option PageCmd) :
    Option CommitOut :=
  let frozen := s.com.frozen
  let pend := pendClosed s
  let v0 := match sw, pend.plan with | some _, some p => takeForce s p 1 (Map.has frozen) | _, _ => s
  let verdicts := wordVerdicts s (withWords v0 frozen) (frozen.map (·.1))
  let ok := frozen.filter (fun e => verdicts.contains (e.1, 0))
  let changed := ok.any (fun e => wordChanges s e.1 e.2)
  let s1 := withWords s ok
  let s2 := { s1 with com := { s1.com with epochUp := s1.com.epochUp || changed } }
  let of_ (op : Nat) : List PageCmd := cmds.filter (fun c => c.opcode == op)
  let rest := cmds.filter (fun c => c.opcode != 0x0C01 && c.opcode != 0x0C02 && c.opcode != 0x0302)
  let x0 : CmdRun := runCmds ((of_ 0x0302).filter (fun c => some c != sw)) (fun s c =>
    rejected s (if some c = refused then causeGROUP
      else if ((of_ 0x0302).head?).map (·.ref) = some c.ref then (switchCause s pend (fieldLE c.bytes 0 8)).getD causePLAN
      else causePLAN)) { state := s2 }
  let x1 := runCmds (of_ 0x0C02) (fun s c => takeLeave s (fieldLE c.bytes 0 1)) x0
  let left := ((of_ 0x0C02).filter (fun c => x1.causeOf c == 0)).map (fun c => fieldLE c.bytes 0 1)
  let x2 : Option CmdRun := match sw with
    | none => some x1
    | some c =>
      let r := takeSwitch x1.state pend (fieldLE c.bytes 0 8) (fun a => ok.any (fun e => e.1 == a)) lmax w
      if r.code = codeREJECTED then none else some (x1.add c r)
  x2.map (fun x2 =>
    let x3 := runCmds (of_ 0x0C01) (fun s c => takeJoin s left c.bytes) x2
    let x4 := runCmds rest (fun s c => takeCmd s inst c) x3
    let inFour (c : PageCmd) : Bool := x4.causeOf c == causeNOSHARE || some c == refused
    let word (p : Nat → Bool) : List Reject := frozen.filterMap (fun e =>
      match verdicts.find? (fun q => q.1 == e.1) with
      | some q => if q.2 ≠ 0 ∧ p q.2 = true then some (wordReject s e.1 q.2 e.2) else none
      | none => none)
    let cmd (p : PageCmd → Bool) : List Reject := (cmds.filter p).filterMap (fun c =>
      if x4.causeOf c = 0 then none else some (cmdReject c (x4.causeOf c)))
    let joins := (of_ 0x0C01).filter (fun c => x4.causeOf c == 0)
    let declared := match sw, pend.plan with | some _, some p => p.contexts.map (fun c : CtxRec => c.id) | _, _ => []
    { state := x4.state,
      rejects := word (fun q => q != causeGROUP) ++ cmd (fun c => !inFour c) ++ word (fun q => q == causeGROUP) ++ cmd inFour,
      accepted := ok.length + (cmds.filter (fun c => x4.causeOf c == 0)).length,
      written := ok.map (·.1),
      joined := declared ++ joins.map (fun c => fieldLE c.bytes 0 1),
      warm := (cmds.filter (fun c => c.opcode == 0x1101 && x4.causeOf c == 0)).map (·.ref.page),
      switched := sw.isSome,
      period := sw.isSome || ok.any (fun e => e.1 == Reg.WHS_PERIOD && wordChanges s e.1 e.2) })

/-- A page decided in step 1 of R42: its record, and its reject record where it is rejected whole; a page that was busy at the close
keeps its record (R427). (DEDUCED, assumption 31.) -/
def takePage (w : Nat) (x : CommitOut) (p : Nat) (r : PageRead) : CommitOut :=
  let s := x.state
  let put (c : CompRec) : State := { s with com := { s.com with comps := Map.set s.com.comps p c } }
  if s.com.busyPages.contains p then { x with rejects := x.rejects ++ [pageReject p causeRANGE], rejPages := x.rejPages ++ [p] }
  else if r.cause ≠ 0 then
    { x with state := put (rejectedRecord w r), rejects := x.rejects ++ [pageReject p r.cause], rejPages := x.rejPages ++ [p] }
  else { x with state := put (takenRecord w r), taken := x.taken ++ [p] }

/-- The host content of a commit (steps 1 to 5 of R42), at Whistle w, which fell at `inst`. (DEDUCED, assumption 27.) -/
def commitApply (s : State) (w inst : Nat) : CommitOut :=
  let reads := s.com.pages.map (fun p => (p, readPage s p))
  let x1 := reads.foldl (fun x e => takePage w x e.1 e.2) { state := s }
  let cmds := (reads.filter (fun e => x1.taken.contains e.1)).flatMap (fun e => e.2.cmds)
  let first := cmds.find? (fun c => c.opcode == 0x0302)
  let sw := first.filter (fun c => (switchCause s (pendClosed s) (fieldLE c.bytes 0 8)).isNone)
  let lmax := largestLead s
  let x2 := match tryCommit x1.state w inst lmax cmds sw none with
    | some x => x
    | none => (tryCommit x1.state w inst lmax cmds none sw).getD x1
  { x2 with rejects := x1.rejects ++ x2.rejects, taken := x1.taken, rejPages := x1.rejPages }

end Sys2Proof.Machine
end

