-- ==== Sys2Proof/Machine/Whistle.lean ====
section
/-! DEFINITION. The close of the commit window and the Whistle (R33–R41, R48–R50, R477): the commit, what every block does when
it applies, the device's own changes, and the publication phase with its status pages. -/

namespace Sys2Proof.Machine

/-! ## The window (R37–R41) -/

/-- The window closes LEAD_NS before the next Whistle: the words written and the pages submitted are frozen. -/
def windowClose (s : State) : State :=
  if s.pwr.phase ≠ .run ∨ s.clk.started = false ∨ s.com.checking = true then s
  else
    let s1 := advance s (nextInst s - fld s Reg.WHS_COMMIT 15 0 * tuNs)
    let c := s1.com
    let busy := c.submit.filter (fun p => match Map.get c.comps p with | some r => r.pending != 0 | none => false)
    { s1 with com := { c with frozen := c.shadow, shadow := [], pages := c.submit, submit := [], busyPages := busy,
                              pendAtClose := s1.fab.pend, failAtClose := s1.fab.failCode,
                              hashAtClose := s1.fab.pendHash, planAtClose := s1.fab.pendPlan, checking := true, late := 0 } }

/-- WINDOW_CLOSE. -/
def execWindowClose (s : State) : Out := .next (windowClose s)

/-! ## The generator (R33, R34) -/

/-- The accumulated instant of the next Whistle; none while the generator stands, which starts when a first start reaches step 10. -/
def nextIdeal (s : State) : Option Nat :=
  if s.clk.started then some ((((s.clk.acc + period s : Nat) : Int) + s.clk.corr).toNat)
  else if s.pwr.phase = .boot ∧ s.sec.ready.isSome = true then some s.sec.readyAt
  else none

/-- The state at the instant of a Whistle, which its counter then includes. -/
def atWhistle (s : State) (ideal : Nat) : State :=
  let s1 := advance s (edgeCeil ideal)
  { s1 with clk := { s1.clk with started := true, next := (s.clk.next + 1) % 2 ^ 48, acc := ideal, inst := edgeCeil ideal, corr := 0 } }

/-! ## What a commit brings when it applies -/

/-- Fields that act once: the tracks and the fault latch are cleared, the counters too, and each field reads 0 again (R110, R315,
R339, R536). -/
def clearOnce (s : State) (w : Nat) : State :=
  let s1 := if fld s Reg.TRK_CTRL 0 0 = 1 then pokeF (clearTracks s w) Reg.TRK_CTRL 0 0 0 else s
  let s2 := if fld s1 Reg.FRS_CTRL 2 2 = 1 then pokeF (faultClr s1) Reg.FRS_CTRL 2 2 0 else s1
  let s3 := if fld s2 Reg.PMC_CTRL 1 1 = 1 then pokeF (pmcClearAll s2) Reg.PMC_CTRL 1 1 0 else s2
  (List.range 64).foldl (fun s n =>
    if fld s (Reg.PMC_CNT_CFG0 n) 9 9 = 1 then pokeF (pmcClear s n) (Reg.PMC_CNT_CFG0 n) 9 9 0 else s) s3

/-- The Draw's registers are loaded anew, while bursts in progress keep their counts, the LPDDR6 scrub may begin, and the scout's countdown
is loaded when it is enabled (R382, R384, R538, R550). -/
def seedsApplied (s before : State) (wr : Nat → Bool) : State :=
  let seed := reg s Reg.SCH_DRAW_SEED
  let s1 := if wr Reg.SCH_DRAW_SEED then
      let arb := s.sch.arb.map (fun e => (e.1, { e.2 with lfsr := lfsrSeed seed e.1 }))
      { s with sch := { s.sch with seed := seed, arb := arb } }
    else s
  let s2 := if wr Reg.MEM_SCRUB then { s1 with mem := { s1.mem with scrubOn := true } } else s1
  if fld s2 Reg.PMC_SCOUT_CTRL 0 0 = 1 ∧ fld before Reg.PMC_SCOUT_CTRL 0 0 = 0 then
    let s3 := scoutLoad s2
    { s3 with pmc := { s3.pmc with armed := true } }
  else s2

/-- Contexts whose PAUSE the commit set give up their running job (R379). (DESIGN CHOICE, assumption 112.) -/
def pausesApplied (s before : State) : State :=
  s.sch.ctxs.foldl (fun s c =>
    if fld s (Reg.SCH_CTX_CTRL c.1) 0 0 = 1 ∧ fld before (Reg.SCH_CTX_CTRL c.1) 0 0 = 0 then pauseCtx s c.1 else s) s

/-- The accepted register words of the SYN, TRK, FRS and CAM blocks, ascending, for the mirror batch (R446). -/
def logWordsOf (before : State) (written : List Nat) : List (Nat × Word) :=
  before.com.frozen.filterMap (fun e =>
    if written.contains e.1 ∧ [0x4, 0xC, 0xD, 0xE].contains (e.1 / 0x10000) = true then some (e.1, mergeWord before e.1 e.2) else none)

/-- What the blocks do when the host content of a commit applies at Whistle w. (DEDUCED, assumption 28.) -/
def hostApplied (before : State) (x : CommitOut) (w : Nat) : State :=
  let wr := x.written.contains
  let s1 := motionApplied (camApplied x.state before wr) before
  let s2 := linksApplied (completeLines (leadsApplied s1 before w)) before
  let s3 := tolChanged (pausesApplied (seedsApplied (clearOnce s2 w) before wr) before)
  { s3 with lys := { s3.lys with logWords := logWordsOf before x.written } }

/-- The changes that the device makes itself (step 6 of R42): substitution, the shedding level and takeover. `before` is the state before
the commit. -/
def deviceApplied (before s : State) (w : Nat) : State :=
  let s1 := applySubstitution s
  let s2 := rateChange before (shedEffects before (shedEvaluate s1 s1.clk.inst) w)
  takeoverWhistle (thermalEvent before s2) w

/-- The epoch (R50, R53, R54), the tags of the contexts that joined, and the view cadence. -/
def epochApplied (before : State) (x : CommitOut) (s : State) (w : Nat) : State :=
  let s1 := stampJoins (raiseEpoch before s (!x.period)) x.joined
  viewApplied (if x.period then holdOlder s1 else s1) before w

/-! ## Work of the new tick -/

/-- At W_T the field head latches a fault and fixes the outcome of line T; notes of lines that have been scanned are dropped. A line
that was not fetched is governed by the settings before the commit of W_T, which are those of its fetch point (R321). -/
def fieldWhistle (before s : State) (w : Nat) : State :=
  let l := s.frs.fetched.getD (settingsLine before w)
  let s0 := { s with frs := { s.frs with fetched := some l } }
  let s1 := if s.frs.drive && nLines s != 0 then fixLine (latchFault s0 w) w else s
  { s1 with frs := { s1.frs with lines := s1.frs.lines.filter (fun e => decide (s1.clk.next ≤ e.1)) } }

/-- Lists start afresh and stages become due, but for the orderly stop, in which no job starts (R511). -/
def workWhistle (s : State) (w : Nat) : State :=
  if orderlyStop s then s
  else takeoverDue (decDue (synDue (startSpareChecks (startLists s) w) w) w) w

/-- What the inputs hand over: Vision's results, the motion model, the frames of earlier ticks, whose poses take this Whistle's record
too (R97), and the green rule. -/
def inputWhistle (s : State) (w : Nat) : State :=
  greenLine (publishFrames (camTick (startUnits (motionModel (visPublish s w) w))) w) w

/-- The host port's bytes of the tick that ended, and the limits of one log entry in a tick begin anew, also during a reset or a start (R431,
R528). -/
def portCounts (s : State) : State :=
  let s1 := poke (poke s Reg.HPT_READ_BYTES s.hpt.readTick) Reg.HPT_WRITE_BYTES s.hpt.writeTick
  { s1 with hpt := { s1.hpt with readTick := 0, writeTick := 0 }, log := { s1.log with tickCodes := [] } }

/-- Counts over the tick that ended: engines, channels, self-refresh and the host port (R206, R406, R431).
(DESIGN CHOICE, assumption 19; DEDUCED, assumption 67.) -/
def tickCounts (s : State) : State :=
  let s1 := (List.range 16).foldl (fun s e => poke s (Reg.MXE_ENG_BUSY e) (Map.getD s.slv.busy e 0)) s
  let s2 := (List.range 8).foldl (fun s k =>
    let s1 := poke s (Reg.MEM_CH_BYTES k) (Map.getD s.mem.chBytes k 0)
    if (s.mem.srTick ||| s.mem.sr).testBit k then countReg s1 (Reg.MEM_CH_SRTIME k) 1 else s1) s1
  let s3 := portCounts s2
  { s3 with slv := { s3.slv with busy := [] }, mem := { s3.mem with chBytes := [], srTick := s3.mem.sr } }

/-- The event bits of the Whistle (R58). -/
def whistleEvents (s : State) (x : CommitOut) (w : Nat) : State :=
  let div := fld s Reg.WHS_IRQ_ENABLE 31 24
  let s1 := if div ≠ 0 ∧ w % div = 0 then event s Reg.WHS_IRQ_STATUS 0 else s
  if x.rejects.isEmpty then s1 else event s1 Reg.WHS_IRQ_STATUS 2

/-! ## Publication (R47–R49, R206, R244, R388, R406, R428, R431, R456, R515, R535) -/

/-- Ended commands enter their records, and those and the records of the pages decided at this Whistle are written.
(DEDUCED, assumption 32.) -/
def publishRecords (s : State) (x : CommitOut) (w : Nat) : State :=
  let s1 := s.com.ended.foldl (fun s e =>
    match Map.get s.com.comps e.1.page with
    | none => s
    | some r =>
      let r1 := if (r.entries[e.1.entry]?).map (·.1) = some e.2 then r else r.setEntry e.1.entry e.2 0
      { s with com := { s.com with comps := Map.set s.com.comps e.1.page { r1 with seq := w % 2 ^ 32 } } }) s
  let own := (x.taken ++ x.rejPages.filter (fun p => !s.com.busyPages.contains p)).filter (fun p => !x.warm.contains p)
  let pages := (own ++ s.com.ended.map (·.1.page)).foldl setInsert []
  let s2 := pages.foldl writeRecord s1
  { s2 with com := { s2.com with ended := [] } }

/-- The bytes of one reject record. -/
def rejectBytes (r : Reject) : List Byte :=
  leBytes 4 r.addr ++ leBytes 4 (r.cause + r.kind * 256) ++ leBytes 4 r.value ++ leBytes 4 r.kept

/-- The commit status page (R49); `changed` tells that the epoch rose. -/
def commitPage (s : State) (x : CommitOut) (w : Nat) (changed : Bool) : State :=
  let c := s.com
  let flags := b2n (0 < c.late) + 2 * b2n (!x.rejects.isEmpty) + 4 * b2n changed + 8 * b2n c.mixedNow
    + 16 * b2n (0 < c.shots) + 32 * b2n (0 < c.locked)
  let recs := (x.rejects.take 32).flatMap rejectBytes
  let head := leBytes 4 w ++ leBytes 4 c.epoch ++ leBytes 8 w ++ leBytes 8 (whistleTs s) ++ leBytes 4 flags
    ++ leBytes 4 (irqStatus s) ++ leBytes 4 x.accepted ++ leBytes 4 x.rejects.length ++ leBytes 4 c.late ++ leBytes 4 c.locked
    ++ leBytes 8 (ofPositions x.taken) ++ leBytes 8 (ofPositions x.rejPages)
  let tail := leBytes 4 (x.rejects.length - 32) ++ leBytes 4 c.mixed ++ leBytes 8 c.mixedTarget ++ leBytes 4 c.mixedHold
    ++ leBytes 4 c.shots
  stat4 (statWrite s 0x800000 (head ++ slice recs 0 512 ++ tail)) 0x800FFC w

/-- `n` register words from an address, as they read. -/
def regBytes (s : State) (a n : Nat) : List Byte := (List.range n).flatMap (fun k => leBytes 4 (readReg s (a + 4 * k)))

/-- The record of a context on the SCH status page (R388). -/
def ctxRecord (s : State) (c : Nat) : List Byte :=
  match Map.get s.sch.ctxs c with
  | none => List.replicate 64 0
  | some x => leBytes 32 (ofPositions x.banks) ++ leBytes 4 x.started ++ leBytes 4 x.preempts ++ leBytes 4 x.discarded
      ++ List.replicate 20 0

/-- The registers 0x0011_0010–0x0011_0034; ERR_ADDR_HI and ERR_INFO as they stand, not as the host's latch shows them (R406). -/
def memRegs (s : State) : List Byte :=
  regBytes s 0x110010 7 ++ leBytes 4 (reg s Reg.MEM_ERR_ADDR_HI) ++ leBytes 4 (reg s Reg.MEM_ERR_INFO) ++ regBytes s 0x110034 1

/-- The status pages of the blocks that show registers as they stand at the Whistle. -/
def blockPages (s : State) : State :=
  let s1 := (List.range 16).foldl (fun s e => statWrite s (statBase 5 + e * 0x40) (regBytes s (0x80000 + e * 0x40) 7)) s
  let s2 := statWrite s1 (statBase 6) (regBytes s1 0xA0000 1024)
  let s3 := (List.range 32).foldl (fun s c => statWrite s (statBase 11 + c * 0x40) (ctxRecord s c)) s2
  let s4 := statWrite (statWrite s3 (statBase 12) (memRegs s3)) (statBase 12 + 0x100) (regBytes s3 0x110100 32)
  let s5 := statWrite s4 (statBase 13) (regBytes s4 0x120000 8)
  pwrPage (statWrite s5 (statBase 14) (lysPage s5 readReg))

/-- The PMC status page: the counters `counts` and the OVF bits as they stood before the Whistle (R535). -/
def pmcPage (s : State) (counts : Map Nat) (ovf w : Nat) : State :=
  let base := statBase 18
  let body := leBytes 4 w ++ leBytes 4 0 ++ leBytes 8 (whistleTs s)
    ++ (List.range 64).flatMap (fun n => leBytes 8 (Map.getD counts n 0)) ++ leBytes 8 ovf
  stat4 (statWrite s base body) (base + 0xFFC) w

/-- The publication phase; what was counted since the previous commit status page begins anew. (DEDUCED, assumption 109.) -/
def publish (s : State) (x : CommitOut) (w : Nat) (changed : Bool) (counts : Map Nat) (ovf : Nat) : State :=
  let s1 := keyPublish (publishRecords (commitPage s x w changed) x w) w
  let s2 := pmcPage (blockPages s1) counts ovf w
  let s3 := if s2.sec.pageDue then secPage s2 (w % 2 ^ 32) else s2
  { s3 with com := { s3.com with late := 0, lateWait := decide (0 < s3.com.late), locked := 0, mixed := 0, mixedNow := false, mixedLines := [],
                                 mixedHold := 0, shots := 0 } }

/-! ## The Whistle -/

/-- A Whistle with a plan in force, or the one of step 10: `pre` is the state at its instant, `b` the same with the Whistle itself counted,
which the counters' new filters and clears do not see (R535, R536), and `x` what applies to it. -/
def tickBegins (pre b : State) (x : CommitOut) (w : Nat) : State :=
  let counts := pre.pmc.count
  let ovf := reg pre Reg.PMC_OVF_LO + reg pre Reg.PMC_OVF_HI * 2 ^ 32
  let s1 := deviceApplied b (hostApplied b x w) w
  let changed := s1.com.epochUp
  let s2 := epochApplied b x s1 w
  let s3 := { s2 with com := { s2.com with checking := false, frozen := [], pages := [] } }
  let s4 := lysWhistle (fieldWhistle b s3 w)
  let a := inputWhistle (workWhistle s4 w) w
  let s5 := thermalEvent a (mr4Poll a)
  let s6 := decideAll (secBegin (vrsWhistle (viewWhistle s5 w) w))
  publish (whistleEvents (tickCounts s6) x w) x w changed counts ovf

/-- WHISTLE: at run time the commit applies; the first Whistle from step 10 of a start on puts the plan in force; during a reset or a
start the generator runs on alone. (DEDUCED, assumption 33.) -/
def whistle (s : State) : State :=
  match nextIdeal s with
  | none => s
  | some t =>
    let b0 := atWhistle s t
    let w := tickNow b0
    let b1 := pmcAdd b0 0x03 1
    let b := { b1 with sch := { b1.sch with applying := true } }
    if s.pwr.phase = .run then tickBegins b0 b (commitApply b w b.clk.inst) w
    else if s.pwr.phase = .boot ∧ s.sec.ready.isSome = true ∧ s.sec.readyAt ≤ b.clk.inst then
      tickBegins b0 b { state := stepTen b w } w
    else portCounts b1

/-- WHISTLE. (DESIGN CHOICE, assumption 29.) -/
def execWhistle (s : State) : Out := .next (whistle s)

end Sys2Proof.Machine
end

