-- ==== Sys2Proof/Machine/Dispatch.lean ====
section
/-! DEFINITION. One arm per command: each calls its meaning. -/

namespace Sys2Proof.Machine

def exec (i : Instr) (s : State) : Host.Outcome State Fault Refusal :=
  match i with
  | .whistle => Sys2Proof.Machine.execWhistle s
  | .windowClose => Sys2Proof.Machine.execWindowClose s
  | .registerWrite addr value mask => Sys2Proof.Machine.execRegisterWrite addr value mask s
  | .commandPageWrite page offset data => Sys2Proof.Machine.execCommandPageWrite page offset data s
  | .submitPage page => Sys2Proof.Machine.execSubmitPage page s
  | .originReset => Sys2Proof.Machine.execOriginReset s
  | .clearTracks => Sys2Proof.Machine.execClearTracks s
  | .faultClr => Sys2Proof.Machine.execFaultClr s
  | .clrCounter n => Sys2Proof.Machine.execClrCounter n s
  | .clearAll => Sys2Proof.Machine.execClearAll s
  | .eholdHold key => Sys2Proof.Machine.execEholdHold key s
  | .eholdSafe key => Sys2Proof.Machine.execEholdSafe key s
  | .eholdRelease key => Sys2Proof.Machine.execEholdRelease key s
  | .pause ctx => Sys2Proof.Machine.execPause ctx s
  | .logReadWrite value => Sys2Proof.Machine.execLogReadWrite value s
  | .whsCountLoRead => Sys2Proof.Machine.execWhsCountLoRead s
  | .whsTsLoRead => Sys2Proof.Machine.execWhsTsLoRead s
  | .camPpsTsLoRead => Sys2Proof.Machine.execCamPpsTsLoRead s
  | .memErrAddrLoRead => Sys2Proof.Machine.execMemErrAddrLoRead s
  | .lysSyncOffsetLoRead => Sys2Proof.Machine.execLysSyncOffsetLoRead s
  | .pmcCntLoRead n => Sys2Proof.Machine.execPmcCntLoRead n s
  | .planLoad page entry offset size => Sys2Proof.Machine.execPlanLoad page entry offset size s
  | .planSwitch page entry hash8 => Sys2Proof.Machine.execPlanSwitch page entry hash8 s
  | .planDiscard page entry => Sys2Proof.Machine.execPlanDiscard page entry s
  | .planVerificationEnd => Sys2Proof.Machine.execPlanVerificationEnd s
  | .ctxJoin page entry record => Sys2Proof.Machine.execCtxJoin page entry record s
  | .ctxLeave page entry id => Sys2Proof.Machine.execCtxLeave page entry id s
  | .copyIn page entry offset size addr => Sys2Proof.Machine.execCopyIn page entry offset size addr s
  | .copyOut page entry offset size addr => Sys2Proof.Machine.execCopyOut page entry offset size addr s
  | .copyEnd => Sys2Proof.Machine.execCopyEnd s
  | .nopCommand page entry => Sys2Proof.Machine.execNopCommand page entry s
  | .keyEnrol page entry offset size => Sys2Proof.Machine.execKeyEnrol page entry offset size s
  | .flashUpdate page entry target offset size => Sys2Proof.Machine.execFlashUpdate page entry target offset size s
  | .attest page entry nonce offset => Sys2Proof.Machine.execAttest page entry nonce offset s
  | .measureExtend page entry digest => Sys2Proof.Machine.execMeasureExtend page entry digest s
  | .bootClear page entry => Sys2Proof.Machine.execBootClear page entry s
  | .secCommandEnd flashOk => Sys2Proof.Machine.execSecCommandEnd flashOk s
  | .warmReset page entry key => Sys2Proof.Machine.execWarmReset page entry key s
  | .warmResetDue => Sys2Proof.Machine.execWarmResetDue s
  | .act bank row => Sys2Proof.Machine.execAct bank row s
  | .apertureFillDone bank => Sys2Proof.Machine.execApertureFillDone bank s
  | .read bank col bl32 => Sys2Proof.Machine.execRead bank col bl32 s
  | .wr bank col bl32 data => Sys2Proof.Machine.execWr bank col bl32 data s
  | .mwr bank col bl32 data => Sys2Proof.Machine.execMwr bank col bl32 data s
  | .pre bank all => Sys2Proof.Machine.execPre bank all s
  | .refreshCommand => Sys2Proof.Machine.execRefreshCommand s
  | .sre => Sys2Proof.Machine.execSre s
  | .srx => Sys2Proof.Machine.execSrx s
  | .mrr n => Sys2Proof.Machine.execMrr n s
  | .mrw n op => Sys2Proof.Machine.execMrw n op s
  | .rdc => Sys2Proof.Machine.execRdc s
  | .wff data => Sys2Proof.Machine.execWff data s
  | .rff => Sys2Proof.Machine.execRff s
  | .mpcZq => Sys2Proof.Machine.execMpcZq s
  | .hostResetNLow => Sys2Proof.Machine.execHostResetNLow s
  | .hostPortReady => Sys2Proof.Machine.execHostPortReady s
  | .commandBusTraining ca => Sys2Proof.Machine.execCommandBusTraining ca s
  | .wck2ckLevelling ck => Sys2Proof.Machine.execWck2ckLevelling ck s
  | .wck2dqOscillator count => Sys2Proof.Machine.execWck2dqOscillator count s
  | .porNLow => Sys2Proof.Machine.execPorNLow s
  | .porNRise straps => Sys2Proof.Machine.execPorNRise straps s
  | .brownOut fell => Sys2Proof.Machine.execBrownOut fell s
  | .vddCoreLow => Sys2Proof.Machine.execVddCoreLow s
  | .warmRstN => Sys2Proof.Machine.execWarmRstN s
  | .resetRelease facts => Sys2Proof.Machine.execResetRelease facts s
  | .failedStart => Sys2Proof.Machine.execFailedStart s
  | .startOk => Sys2Proof.Machine.execStartOk s
  | .failedStartWarmReset => Sys2Proof.Machine.execFailedStartWarmReset s
  | .busSample code => Sys2Proof.Machine.execBusSample code s
  | .coreSample mv => Sys2Proof.Machine.execCoreSample mv s
  | .temperatureSample temps => Sys2Proof.Machine.execTemperatureSample temps s
  | .logWrite => Sys2Proof.Machine.execLogWrite s
  | .scoutRecord rec => Sys2Proof.Machine.execScoutRecord rec s
  | .drawArbitration arbiter requests withdraws => Sys2Proof.Machine.execDrawArbitration arbiter requests withdraws s
  | .refreshDue channel mr4 hot => Sys2Proof.Machine.execRefreshDue channel mr4 hot s
  | .selfRefreshEntry channel => Sys2Proof.Machine.execSelfRefreshEntry channel s
  | .selfRefreshExit channel => Sys2Proof.Machine.execSelfRefreshExit channel s
  | .scrub ddr corrected failed => Sys2Proof.Machine.execScrub ddr corrected failed s
  | .frameStart port at_ vc dt num header => Sys2Proof.Machine.execFrameStart port at_ vc dt num header s
  | .longPacket port at_ vc dt header crcOk overflow data => Sys2Proof.Machine.execLongPacket port at_ vc dt header crcOk overflow data s
  | .frameEnd port at_ vc header => Sys2Proof.Machine.execFrameEnd port at_ vc header s
  | .truncated port => Sys2Proof.Machine.execTruncated port s
  | .noSignal port => Sys2Proof.Machine.execNoSignal port s
  | .fsyncPulse port => Sys2Proof.Machine.execFsyncPulse port s
  | .fsyncFall port => Sys2Proof.Machine.execFsyncFall port s
  | .busTransactionEnd master nack => Sys2Proof.Machine.execBusTransactionEnd master nack s
  | .busWaitEnd master => Sys2Proof.Machine.execBusWaitEnd master s
  | .stretch master => Sys2Proof.Machine.execStretch master s
  | .inBandInterrupt master => Sys2Proof.Machine.execInBandInterrupt master s
  | .deskew port initial ok => Sys2Proof.Machine.execDeskew port initial ok s
  | .encoderEdge enc a b at_ => Sys2Proof.Machine.execEncoderEdge enc a b at_ s
  | .ppsEdge at_ => Sys2Proof.Machine.execPpsEdge at_ s
  | .ppsLost => Sys2Proof.Machine.execPpsLost s
  | .imuDrdy at_ => Sys2Proof.Machine.execImuDrdy at_ s
  | .imuReadDone data => Sys2Proof.Machine.execImuReadDone data s
  | .pyr seq => Sys2Proof.Machine.execPyr seq s
  | .corner seq => Sys2Proof.Machine.execCorner seq s
  | .desc seq => Sys2Proof.Machine.execDesc seq s
  | .matchRow seq => Sys2Proof.Machine.execMatch seq s
  | .flow seq => Sys2Proof.Machine.execFlow seq s
  | .dvis seq => Sys2Proof.Machine.execDvis seq s
  | .stereo seq => Sys2Proof.Machine.execStereo seq s
  | .conf seq => Sys2Proof.Machine.execConf seq s
  | .playbookEnd seq => Sys2Proof.Machine.execPlaybookEnd seq s
  | .visionInstructionEnd seq refine insn => Sys2Proof.Machine.execVisionInstructionEnd seq refine insn s
  | .sob late => Sys2Proof.Machine.execSob late s
  | .chainFrameStart => Sys2Proof.Machine.execChainFrameStart s
  | .chainReadback chain crc => Sys2Proof.Machine.execChainReadback chain crc s
  | .syncDrop => Sys2Proof.Machine.execSyncDrop s
  | .lineRelease padFails => Sys2Proof.Machine.execLineRelease padFails s
  | .directPinTransition pin => Sys2Proof.Machine.execDirectPinTransition pin s
  | .directReadback crc => Sys2Proof.Machine.execDirectReadback crc s
  | .lineRecord => Sys2Proof.Machine.execLineRecord s
  | .jobListEntry huddle => Sys2Proof.Machine.execJobListEntry huddle s
  | .conv huddle => Sys2Proof.Machine.execConv huddle s
  | .poolMax huddle => Sys2Proof.Machine.execPoolMax huddle s
  | .poolAvg huddle => Sys2Proof.Machine.execPoolAvg huddle s
  | .boxDecode huddle => Sys2Proof.Machine.execBoxDecode huddle s
  | .tileComplete engine => Sys2Proof.Machine.execTileComplete engine s
  | .sliverJob huddle => Sys2Proof.Machine.execSliverJob huddle s
  | .jobEnd huddle => Sys2Proof.Machine.execJobEnd huddle s
  | .shotClock huddle stuck => Sys2Proof.Machine.execShotClock huddle stuck s
  | .dmaComplete lcn => Sys2Proof.Machine.execDmaComplete lcn s
  | .messageDelivery lcn => Sys2Proof.Machine.execMessageDelivery lcn s
  | .reductionDone huddle => Sys2Proof.Machine.execReductionDone huddle s
  | .coreFault squad slot error => Sys2Proof.Machine.execCoreFault squad slot error s
  | .spareCheckEnd squad passed => Sys2Proof.Machine.execSpareCheckEnd squad passed s
  | .undefinedEncoding lcn word => Sys2Proof.Machine.execUndefinedEncoding lcn word s
  | .endCore lcn => Sys2Proof.Machine.execEndCore lcn s
  | .nop lcn => Sys2Proof.Machine.execNop lcn s
  | .fence lcn => Sys2Proof.Machine.execFence lcn s
  | .gshift lcn d a b => Sys2Proof.Machine.execGshift lcn d a b s
  | .stst lcn a => Sys2Proof.Machine.execStst lcn a s
  | .add lcn d a b => Sys2Proof.Machine.execAdd lcn d a b s
  | .sub lcn d a b => Sys2Proof.Machine.execSub lcn d a b s
  | .and lcn d a b => Sys2Proof.Machine.execAnd lcn d a b s
  | .or lcn d a b => Sys2Proof.Machine.execOr lcn d a b s
  | .xor lcn d a b => Sys2Proof.Machine.execXor lcn d a b s
  | .sll lcn d a b => Sys2Proof.Machine.execSll lcn d a b s
  | .srl lcn d a b => Sys2Proof.Machine.execSrl lcn d a b s
  | .sra lcn d a b => Sys2Proof.Machine.execSra lcn d a b s
  | .mul lcn d a b => Sys2Proof.Machine.execMul lcn d a b s
  | .mulh lcn d a b => Sys2Proof.Machine.execMulh lcn d a b s
  | .mulhu lcn d a b => Sys2Proof.Machine.execMulhu lcn d a b s
  | .slt lcn d a b => Sys2Proof.Machine.execSlt lcn d a b s
  | .sltu lcn d a b => Sys2Proof.Machine.execSltu lcn d a b s
  | .seq lcn d a b => Sys2Proof.Machine.execSeq lcn d a b s
  | .min lcn d a b => Sys2Proof.Machine.execMin lcn d a b s
  | .max lcn d a b => Sys2Proof.Machine.execMax lcn d a b s
  | .minu lcn d a b => Sys2Proof.Machine.execMinu lcn d a b s
  | .maxu lcn d a b => Sys2Proof.Machine.execMaxu lcn d a b s
  | .adds lcn d a b => Sys2Proof.Machine.execAdds lcn d a b s
  | .subs lcn d a b => Sys2Proof.Machine.execSubs lcn d a b s
  | .alui lcn op d a imm => Sys2Proof.Machine.execAlui lcn op d a imm s
  | .lui lcn d imm => Sys2Proof.Machine.execLui lcn d imm s
  | .lmi lcn d a imm => Sys2Proof.Machine.execLmi lcn d a imm s
  | .beq lcn a b offset => Sys2Proof.Machine.execBeq lcn a b offset s
  | .bne lcn a b offset => Sys2Proof.Machine.execBne lcn a b offset s
  | .blt lcn a b offset => Sys2Proof.Machine.execBlt lcn a b offset s
  | .bge lcn a b offset => Sys2Proof.Machine.execBge lcn a b offset s
  | .bltu lcn a b offset => Sys2Proof.Machine.execBltu lcn a b offset s
  | .bgeu lcn a b offset => Sys2Proof.Machine.execBgeu lcn a b offset s
  | .jmp lcn offset => Sys2Proof.Machine.execJmp lcn offset s
  | .jal lcn offset => Sys2Proof.Machine.execJal lcn offset s
  | .jr lcn a offset => Sys2Proof.Machine.execJr lcn a offset s
  | .loop lcn a offset => Sys2Proof.Machine.execLoop lcn a offset s
  | .lb lcn d a imm => Sys2Proof.Machine.execLb lcn d a imm s
  | .lbu lcn d a imm => Sys2Proof.Machine.execLbu lcn d a imm s
  | .lh lcn d a imm => Sys2Proof.Machine.execLh lcn d a imm s
  | .lhu lcn d a imm => Sys2Proof.Machine.execLhu lcn d a imm s
  | .lw lcn d a imm => Sys2Proof.Machine.execLw lcn d a imm s
  | .sb lcn d a imm => Sys2Proof.Machine.execSb lcn d a imm s
  | .sh lcn d a imm => Sys2Proof.Machine.execSh lcn d a imm s
  | .sw lcn d a imm => Sys2Proof.Machine.execSw lcn d a imm s
  | .vld lcn d a imm => Sys2Proof.Machine.execVld lcn d a imm s
  | .vst lcn d a imm => Sys2Proof.Machine.execVst lcn d a imm s
  | .vgath lcn d a imm => Sys2Proof.Machine.execVgath lcn d a imm s
  | .vscat lcn d a imm => Sys2Proof.Machine.execVscat lcn d a imm s
  | .vadd lcn d a b m => Sys2Proof.Machine.execVadd lcn d a b m s
  | .vsub lcn d a b m => Sys2Proof.Machine.execVsub lcn d a b m s
  | .vand lcn d a b m => Sys2Proof.Machine.execVand lcn d a b m s
  | .vor lcn d a b m => Sys2Proof.Machine.execVor lcn d a b m s
  | .vxor lcn d a b m => Sys2Proof.Machine.execVxor lcn d a b m s
  | .vsll lcn d a b m => Sys2Proof.Machine.execVsll lcn d a b m s
  | .vsrl lcn d a b m => Sys2Proof.Machine.execVsrl lcn d a b m s
  | .vsra lcn d a b m => Sys2Proof.Machine.execVsra lcn d a b m s
  | .vmin lcn d a b m => Sys2Proof.Machine.execVmin lcn d a b m s
  | .vmax lcn d a b m => Sys2Proof.Machine.execVmax lcn d a b m s
  | .vadds lcn d a b m => Sys2Proof.Machine.execVadds lcn d a b m s
  | .vsubs lcn d a b m => Sys2Proof.Machine.execVsubs lcn d a b m s
  | .vsel lcn d a b m => Sys2Proof.Machine.execVsel lcn d a b m s
  | .vdot8 lcn d a b m => Sys2Proof.Machine.execVdot8 lcn d a b m s
  | .vdot8u lcn d a b m => Sys2Proof.Machine.execVdot8u lcn d a b m s
  | .vfma lcn d a b m => Sys2Proof.Machine.execVfma lcn d a b m s
  | .vfmaw lcn d a b m => Sys2Proof.Machine.execVfmaw lcn d a b m s
  | .vaddh lcn d a b m => Sys2Proof.Machine.execVaddh lcn d a b m s
  | .vmulh lcn d a b m => Sys2Proof.Machine.execVmulh lcn d a b m s
  | .vqnt lcn d a b m => Sys2Proof.Machine.execVqnt lcn d a b m s
  | .vceq lcn d a b => Sys2Proof.Machine.execVceq lcn d a b s
  | .vclt lcn d a b => Sys2Proof.Machine.execVclt lcn d a b s
  | .mand lcn d a b => Sys2Proof.Machine.execMand lcn d a b s
  | .mor lcn d a b => Sys2Proof.Machine.execMor lcn d a b s
  | .mxor lcn d a b => Sys2Proof.Machine.execMxor lcn d a b s
  | .vshuf lcn d a b => Sys2Proof.Machine.execVshuf lcn d a b s
  | .vpk8 lcn d a b => Sys2Proof.Machine.execVpk8 lcn d a b s
  | .mnot lcn d a => Sys2Proof.Machine.execMnot lcn d a s
  | .vcvthw lcn d a => Sys2Proof.Machine.execVcvthw lcn d a s
  | .vcvtwh lcn d a => Sys2Proof.Machine.execVcvtwh lcn d a s
  | .vcvthi lcn d a => Sys2Proof.Machine.execVcvthi lcn d a s
  | .vcvtih lcn d a => Sys2Proof.Machine.execVcvtih lcn d a s
  | .vupkl8 lcn d a => Sys2Proof.Machine.execVupkl8 lcn d a s
  | .vupkh8 lcn d a => Sys2Proof.Machine.execVupkh8 lcn d a s
  | .raddf lcn d a => Sys2Proof.Machine.execRaddf lcn d a s
  | .raddi lcn d a => Sys2Proof.Machine.execRaddi lcn d a s
  | .rmaxf lcn d a => Sys2Proof.Machine.execRmaxf lcn d a s
  | .rminf lcn d a => Sys2Proof.Machine.execRminf lcn d a s
  | .rmaxi lcn d a => Sys2Proof.Machine.execRmaxi lcn d a s
  | .rmini lcn d a => Sys2Proof.Machine.execRmini lcn d a s
  | .recv lcn d a => Sys2Proof.Machine.execRecv lcn d a s
  | .vbcast lcn d a m => Sys2Proof.Machine.execVbcast lcn d a m s
  | .vext lcn d a c => Sys2Proof.Machine.execVext lcn d a c s
  | .vins lcn d a c => Sys2Proof.Machine.execVins lcn d a c s
  | .get lcn d a b c => Sys2Proof.Machine.execGet lcn d a b c s
  | .put lcn d a b c => Sys2Proof.Machine.execPut lcn d a b c s
  | .blkget lcn d a b c => Sys2Proof.Machine.execBlkget lcn d a b c s
  | .wait lcn => Sys2Proof.Machine.execWait lcn s
  | .send lcn a b => Sys2Proof.Machine.execSend lcn a b s
  | .bar lcn => Sys2Proof.Machine.execBar lcn s
  | .tcontrib lcn a => Sys2Proof.Machine.execTcontrib lcn a s
  | .unext lcn d => Sys2Proof.Machine.execUnext lcn d s
  | .synthesisJob huddle => Sys2Proof.Machine.execSynthesisJob huddle s
  | .decisionJob huddle => Sys2Proof.Machine.execDecisionJob huddle s
  | .gen huddle => Sys2Proof.Machine.execGen huddle s
  | .compose huddle => Sys2Proof.Machine.execCompose huddle s
  | .takeoverJob huddle => Sys2Proof.Machine.execTakeoverJob huddle s
  | .viewFrameStart => Sys2Proof.Machine.execViewFrameStart s
  | .cloneFrameStart => Sys2Proof.Machine.execCloneFrameStart s
  | .viewUnderrun clone line pixel => Sys2Proof.Machine.execViewUnderrun clone line pixel s
  | .viewSob => Sys2Proof.Machine.execViewSob s
  | .frameDone clone act => Sys2Proof.Machine.execFrameDone clone act s
  | .frameRecord => Sys2Proof.Machine.execFrameRecord s
  | .linkTrainingEnd trained => Sys2Proof.Machine.execLinkTrainingEnd trained s
  | .hpd dpcd edid => Sys2Proof.Machine.execHpd dpcd edid s
  | .hpdIrq locked => Sys2Proof.Machine.execHpdIrq locked s
  | .unplug => Sys2Proof.Machine.execUnplug s
  | .linkDetect link signal => Sys2Proof.Machine.execLinkDetect link signal s
  | .linkTrain link locked => Sys2Proof.Machine.execLinkTrain link locked s
  | .linkAlign link ok => Sys2Proof.Machine.execLinkAlign link ok s
  | .linkFail link => Sys2Proof.Machine.execLinkFail link s
  | .blockLockLoss link => Sys2Proof.Machine.execBlockLockLoss link s
  | .idleFrame link ackNo => Sys2Proof.Machine.execIdleFrame link ackNo s
  | .hello head id sizeM1 pair trip => Sys2Proof.Machine.execHello head id sizeM1 pair trip s
  | .acknak link ackNo replay nak => Sys2Proof.Machine.execAcknak link ackNo replay nak s
  | .syncFrame head period count arrival => Sys2Proof.Machine.execSyncFrame head period count arrival s
  | .heartbeat head tick state => Sys2Proof.Machine.execHeartbeat head tick state s
  | .rget head entry join addr => Sys2Proof.Machine.execRget head entry join addr s
  | .rput head entry join addr data => Sys2Proof.Machine.execRput head entry join addr data s
  | .remoteRequestServed => Sys2Proof.Machine.execRemoteRequestServed s
  | .reply head entry join status data => Sys2Proof.Machine.execReply head entry join status data s
  | .mirror head sect info data => Sys2Proof.Machine.execMirror head sect info data s
  | .mirrorEnd head data => Sys2Proof.Machine.execMirrorEnd head data s
  | .droppedFrame link seqNo ackNo => Sys2Proof.Machine.execDroppedFrame link seqNo ackNo s
  | .mirrorSectionSend => Sys2Proof.Machine.execMirrorSectionSend s
  | .heartbeatSend => Sys2Proof.Machine.execHeartbeatSend s
  | .heartbeatDeadline => Sys2Proof.Machine.execHeartbeatDeadline s
  | .badFrame link => Sys2Proof.Machine.execBadFrame link s

end Sys2Proof.Machine
end

