-- ==== Sys2Proof/Machine/Step.lean ====
section
/-! DEFINITION. One step of the part: the command at the front of the queue takes effect; with an empty queue time passes. -/

namespace Sys2Proof.Machine

/-- With no command waiting, one 10 ns step passes (DESIGN CHOICE, assumption 1). -/
def idle (s : State) : State := advance s (s.clk.now + tuStep)

/-- One step: the front command's outcome on the state with the rest of the queue. -/
def step (s : State) : Host.Outcome State Fault Refusal :=
  match s.pending with
  | [] => .next (idle s)
  | c :: rest => exec c { s with pending := rest }

/-- The state with the command that a table word spells put at the front of its queue; unchanged where the word spells none.
(DESIGN CHOICE, assumption 11.) -/
def State.withFetchWord (s : State) (nbits w : Nat) : State :=
  match Sys2Proof.decodeTableWord nbits w with
  | none => s
  | some c => { s with pending := c :: s.pending }

end Sys2Proof.Machine
end

