-- ==== Sys2Proof/Safety.lean ====
section
/-! DEFINITION. What claims are stated in: a command that completes, states that differ in counters or in the trouble log
alone, a core that issues an instruction, and the canonical form of the machine's byte stores. -/

namespace Sys2Proof.Machine

/-- A command completes: its meaning answers a next state. -/
def Completes (i : Instr) (s : State) : Prop := ∃ t, exec i s = .next t

/-- The registers that event counting writes: the overflow bits and the counter events (R533). -/
def pmcRegister (a : Nat) : Prop := a = Reg.PMC_OVF_LO ∨ a = Reg.PMC_OVF_HI ∨ a = Reg.PMC_EVENTS

/-- The register that the log writes when its queue is full (R523). -/
def logRegister (a : Nat) : Prop := a = Reg.LOG_EVENTS

/-- `t` is `u` but for the event counters (R530–R533) and the scout (R537, R538). -/
def CountsOnly (u t : State) : Prop :=
  t = { u with regs := t.regs, pmc := t.pmc } ∧ ∀ a, ¬ pmcRegister a → reg t a = reg u a

/-- `t` is `u` but for an event offered to the trouble log (R523–R525). -/
def LogsOnly (u t : State) : Prop :=
  t = { u with regs := t.regs, log := t.log } ∧ ∀ a, ¬ logRegister a → reg t a = reg u a

/-- `t` is `u` but for the event counters and the trouble log. -/
def LogsAndCounts (u t : State) : Prop :=
  t = { u with regs := t.regs, pmc := t.pmc, log := t.log } ∧ ∀ a, ¬ pmcRegister a → ¬ logRegister a → reg t a = reg u a

/-- The registers that the passing of time can write: those of event counting, the log's events, and what the view head reports of a
lost line or a poisoned or forbidden read (R356, R358, R405, R523, R533, R547). -/
def timeRegisters : List Nat :=
  [Reg.PMC_OVF_LO, Reg.PMC_OVF_HI, Reg.PMC_EVENTS, Reg.LOG_EVENTS, Reg.VRS_EVENTS, Reg.VRS_UNDERRUNS, Reg.MEM_ERR_ADDR_LO,
    Reg.MEM_ERR_ADDR_HI, Reg.MEM_ERR_INFO, Reg.MEM_COURT_UE, Reg.MEM_DDR_UE, Reg.MEM_EVENTS]

/-- `t` is `u` but for what the passing of time does: the clock, the counters, the log and the view head with what it reports. -/
def TimeOnly (u t : State) : Prop :=
  t = { u with clk := t.clk, regs := t.regs, pmc := t.pmc, log := t.log, vrs := t.vrs } ∧
  ∀ a, a ∉ timeRegisters → reg t a = reg u a

/-- `t` is `u` but for what the passing of time does and for the registers named. -/
def TimeAnd (rs : List Nat) (u t : State) : Prop :=
  t = { u with clk := t.clk, regs := t.regs, pmc := t.pmc, log := t.log, vrs := t.vrs } ∧
  ∀ a, a ∉ timeRegisters → a ∉ rs → reg t a = reg u a

/-- No job of a plan before the one in force is on this core (R84). -/
def noOldJob (s : State) (lcn : BitVec 12) : Prop :=
  ∀ i, i < s.sch.old.length → jobOfCore (swapOld s i) lcn.toNat = none

/-- A core issues an instruction of the job `j`: it runs the job, has not ended, its slot is not fenced, and it waits for nothing but
a short resource (R207, R212, R220, R230, R238). -/
def CoreIssues (s : State) (lcn : BitVec 12) (j : Job) : Prop :=
  noOldJob s lcn ∧ (∃ h, jobOfCore s lcn.toNat = some (h, j)) ∧ (coreOf s lcn.toNat).active = true ∧
  (coreOf s lcn.toNat).ended = false ∧ coreFenced s lcn.toNat = false ∧
  ((coreOf s lcn.toNat).wait = none ∨ (coreOf s lcn.toNat).wait = some .again ∨ (coreOf s lcn.toNat).wait = some .full)

/-- The core as its instruction finds it. -/
def issuing (s : State) (lcn : BitVec 12) : Core := { coreOf s lcn.toNat with wait := none }

/-- The whole effect on the machine is that the core's record is `c`; counters aside, nothing else changes. -/
def OnlyCore (s : State) (lcn : BitVec 12) (c : Core) (t : State) : Prop := CountsOnly (setCore s lcn.toNat c) t

/-- A scalar register as 32 bits: s0 reads zero (R207). -/
def Core.scalar (c : Core) (r : BitVec 5) : BitVec 32 := BitVec.ofNat 32 (c.sget r.toNat)

/-- A lane of a vector register as 16 bits. -/
def Core.vlane (c : Core) (r : BitVec 5) (i : Fin 16) : BitVec 16 := BitVec.ofNat 16 (c.lane r.toNat i.val)

/-- A lane of an accumulator as 32 bits; three bits of the field name it (R207). -/
def Core.wlane (c : Core) (r : BitVec 5) (i : Fin 16) : BitVec 32 := BitVec.ofNat 32 (c.acc r.toNat i.val)

/-- A bit of a mask register: m0 reads ones (R207). -/
def Core.maskBit (c : Core) (r : BitVec 3) (i : Fin 16) : Bool := (c.mget r.toNat).testBit i.val

/-- The byte stores of the machine are in their one canonical form. -/
def Canonical (s : State) : Prop :=
  Mem.wf memDefault s.mem.bytes = true ∧ Mem.wf 0 s.pages = true ∧ Mem.wf 0 s.status = true

/-! ## The rules of R552 on words of 32 and of 16 bits -/

/-- The value of a sum or difference that clamps to a signed width (R552: the SAT forms). -/
def clampBV (w : Nat) (x : Int) : BitVec w := BitVec.ofInt w (max (-(2 ^ (w - 1))) (min (2 ^ (w - 1) - 1) x))

/-- An ALU operation (R552, class ALU). -/
def aluRule : AluOp → BitVec 32 → BitVec 32 → BitVec 32
  | .add, x, y => x + y
  | .sub, x, y => x - y
  | .and, x, y => x &&& y
  | .or, x, y => x ||| y
  | .xor, x, y => x ^^^ y
  | .sll, x, y => x <<< (y.toNat % 32)
  | .srl, x, y => x >>> (y.toNat % 32)
  | .sra, x, y => x.sshiftRight (y.toNat % 32)
  | .mul, x, y => x * y
  | .mulh, x, y => (x.signExtend 64 * y.signExtend 64).extractLsb' 32 32
  | .mulhu, x, y => (x.setWidth 64 * y.setWidth 64).extractLsb' 32 32
  | .slt, x, y => if x.slt y then 1 else 0
  | .sltu, x, y => if x < y then 1 else 0
  | .seq, x, y => if x = y then 1 else 0
  | .min, x, y => if x.slt y then x else y
  | .max, x, y => if x.slt y then y else x
  | .minu, x, y => if x < y then x else y
  | .maxu, x, y => if x < y then y else x
  | .adds, x, y => clampBV 32 (x.toInt + y.toInt)
  | .subs, x, y => clampBV 32 (x.toInt - y.toInt)

/-- The register form of an ALU operation (R552). -/
def aluInstr (op : AluOp) (lcn : BitVec 12) (d a b : BitVec 5) : Instr :=
  match op with
  | .add => .add lcn d a b
  | .sub => .sub lcn d a b
  | .and => .and lcn d a b
  | .or => .or lcn d a b
  | .xor => .xor lcn d a b
  | .sll => .sll lcn d a b
  | .srl => .srl lcn d a b
  | .sra => .sra lcn d a b
  | .mul => .mul lcn d a b
  | .mulh => .mulh lcn d a b
  | .mulhu => .mulhu lcn d a b
  | .slt => .slt lcn d a b
  | .sltu => .sltu lcn d a b
  | .seq => .seq lcn d a b
  | .min => .min lcn d a b
  | .max => .max lcn d a b
  | .minu => .minu lcn d a b
  | .maxu => .maxu lcn d a b
  | .adds => .adds lcn d a b
  | .subs => .subs lcn d a b

/-- The immediate of an ALUI operation: zero-extended for AND, OR, XOR, SLTU, MINU and MAXU, else sign-extended (R552). -/
def aluImmRule (op : AluOp) (imm : BitVec 12) : BitVec 32 :=
  if op = .and ∨ op = .or ∨ op = .xor ∨ op = .sltu ∨ op = .minu ∨ op = .maxu then imm.setWidth 32 else imm.signExtend 32

/-- A lane operation of class VALU that a mask selects (R552). -/
inductive LaneOp where
  | add | sub | and | or | xor | sll | srl | sra | min | max | adds | subs
  deriving DecidableEq, Repr

/-- What a lane operation gives for a lane of vA and a lane of vB (R552). -/
def laneRule : LaneOp → BitVec 16 → BitVec 16 → BitVec 16
  | .add, x, y => x + y
  | .sub, x, y => x - y
  | .and, x, y => x &&& y
  | .or, x, y => x ||| y
  | .xor, x, y => x ^^^ y
  | .sll, x, y => x <<< (y.toNat % 16)
  | .srl, x, y => x >>> (y.toNat % 16)
  | .sra, x, y => x.sshiftRight (y.toNat % 16)
  | .min, x, y => if x.slt y then x else y
  | .max, x, y => if x.slt y then y else x
  | .adds, x, y => clampBV 16 (x.toInt + y.toInt)
  | .subs, x, y => clampBV 16 (x.toInt - y.toInt)

/-- The instruction of a lane operation. -/
def laneInstr (op : LaneOp) (lcn : BitVec 12) (d a b : BitVec 5) (m : BitVec 3) : Instr :=
  match op with
  | .add => .vadd lcn d a b m
  | .sub => .vsub lcn d a b m
  | .and => .vand lcn d a b m
  | .or => .vor lcn d a b m
  | .xor => .vxor lcn d a b m
  | .sll => .vsll lcn d a b m
  | .srl => .vsrl lcn d a b m
  | .sra => .vsra lcn d a b m
  | .min => .vmin lcn d a b m
  | .max => .vmax lcn d a b m
  | .adds => .vadds lcn d a b m
  | .subs => .vsubs lcn d a b m

/-- The conditional branches (R552). -/
inductive BranchOp where
  | eq | ne | lt | ge | ltu | geu
  deriving DecidableEq, Repr

/-- When a conditional branch is taken (R552). -/
def branchRule : BranchOp → BitVec 32 → BitVec 32 → Bool
  | .eq, x, y => x == y
  | .ne, x, y => x != y
  | .lt, x, y => x.slt y
  | .ge, x, y => !x.slt y
  | .ltu, x, y => x.ult y
  | .geu, x, y => !x.ult y

/-- The instruction of a conditional branch. -/
def branchInstr (op : BranchOp) (lcn : BitVec 12) (a b : BitVec 5) (offset : BitVec 12) : Instr :=
  match op with
  | .eq => .beq lcn a b offset
  | .ne => .bne lcn a b offset
  | .lt => .blt lcn a b offset
  | .ge => .bge lcn a b offset
  | .ltu => .bltu lcn a b offset
  | .geu => .bgeu lcn a b offset

/-! ## Page commands -/

/-- The commit's verdict on a page command: `t` is `u` with the command's entry at `code` and `cause`, to be published, and with
COMMIT_REJECT where it is rejected (R43, R428). -/
def Verdict (r : CmdRef) (code cause : Nat) (u t : State) : Prop :=
  t = { u with com := { u.com with comps := t.com.comps, ended := u.com.ended ++ [(r, code)] }, regs := t.regs } ∧
  (∀ p, p ≠ r.page → Map.get t.com.comps p = Map.get u.com.comps p) ∧
  (∃ c, Map.get t.com.comps r.page = some c ∧ (c.entries[r.entry]?).map (fun e => (e.1, e.2.1)) = some (code, cause)) ∧
  (code = codeREJECTED → (reg t Reg.WHS_IRQ_STATUS).testBit 2 = true) ∧
  ∀ a, a ≠ Reg.WHS_IRQ_STATUS ∨ code ≠ codeREJECTED → reg t a = reg u a

/-- A page command completes with a verdict, all else as in `u`. -/
def Settles (i : Instr) (s : State) (r : CmdRef) (code cause : Nat) (u : State) : Prop :=
  ∃ t, exec i s = .next t ∧ Verdict r code cause u t

/-- STATUS, where its address lies in memory and not in the fenced line entry, holds a status code (R194, R218). -/
def StatusCode (s t : State) (a code : Nat) : Prop :=
  a < 2 ^ 40 → rangeOk s a 8 true = true → addrFenced s a 8 = false → devLE t a 8 % 256 = code

/-- A top-level huddle of the plan in force is free: nothing runs or waits on it, no job of an earlier plan runs, and no Whistle
is applying. -/
def FreeHuddle (s : State) (h : Nat) : Prop :=
  huddleDefined s h = true ∧ orderlyStop s = false ∧ s.sch.old = [] ∧ s.sch.applying = false ∧ s.sch.inOld = false ∧
  (hudOf s h).group = [] ∧ (hudOf s h).rom = []

/-- No context but `c`, 32 the system context, has work that a top-level huddle could take: no job to resume or to run once more,
no picture's up-scale entry and no entry of a list (R374). -/
def OnlyWorkOf (s : State) (h c : Nat) : Prop :=
  (hudOf s h).preempted = [] ∧ (hudOf s h).rerun = [] ∧ (hudOf s h).ups = none ∧
  ((ownerOf s h).map (·.1) = some c ∨ (hudOf s h).list.left = 0) ∧
  ∀ e ∈ s.sch.ctxs, e.1 = c ∨ (e.2.preempted = [] ∧ e.2.list.left = 0)

/-- No context has work left for a top-level huddle: a decision point takes nothing (R374). -/
def NoWorkLeft (s : State) (h : Nat) : Prop :=
  (hudOf s h).preempted = [] ∧ (hudOf s h).rerun = [] ∧ (hudOf s h).ups = none ∧ (hudOf s h).list.left = 0 ∧
  ∀ e ∈ s.sch.ctxs, e.2.preempted = [] ∧ e.2.list.left = 0

/-! ## The whole effect of an instruction on its core -/

/-- The instruction completes: counters aside, its whole effect is that the core's record is `c`. -/
def CoreResult (i : Instr) (s : State) (lcn : BitVec 12) (c : Core) : Prop :=
  ∃ t, exec i s = .next t ∧ OnlyCore s lcn c t

/-- The instruction completes: it writes one scalar register (s0 discards the write) and goes on at the next index. -/
def ScalarResult (i : Instr) (s : State) (lcn : BitVec 12) (d : BitVec 5) (v : BitVec 32) : Prop :=
  ∃ c, CoreResult i s lcn c ∧ c = { issuing s lcn with s := c.s, pc := (issuing s lcn).pc + 1 } ∧
    ∀ r, c.scalar r = if r = d ∧ d ≠ 0 then v else (issuing s lcn).scalar r

/-- The instruction completes: it writes the lanes of one vector register and goes on at the next index. -/
def VectorResult (i : Instr) (s : State) (lcn : BitVec 12) (d : BitVec 5) (f : Fin 16 → BitVec 16) : Prop :=
  ∃ c, CoreResult i s lcn c ∧ c = { issuing s lcn with v := c.v, pc := (issuing s lcn).pc + 1 } ∧
    ∀ r n, c.vlane r n = if r = d then f n else (issuing s lcn).vlane r n

/-- The instruction completes: it writes the lanes of one accumulator, which three bits of the field name, and goes on at the
next index; lanes of other accumulators keep their saturation marks (R168). -/
def AccResult (i : Instr) (s : State) (lcn : BitVec 12) (d : BitVec 5) (f : Fin 16 → BitVec 32) : Prop :=
  ∃ c, CoreResult i s lcn c ∧ c = { issuing s lcn with w := c.w, wsat := c.wsat, pc := (issuing s lcn).pc + 1 } ∧
    (∀ r n, c.wlane r n = if r.setWidth 3 = d.setWidth 3 then f n else (issuing s lcn).wlane r n) ∧
    ∀ k, k ≠ (d.setWidth 3).toNat → Map.getD c.wsat k 0 = Map.getD (issuing s lcn).wsat k 0

/-- The instruction completes: it writes one mask register, which three bits of the field name (m0 discards the write), and
goes on at the next index. -/
def MaskResult (i : Instr) (s : State) (lcn : BitVec 12) (d : BitVec 5) (f : Fin 16 → Bool) : Prop :=
  ∃ c, CoreResult i s lcn c ∧ c = { issuing s lcn with m := c.m, pc := (issuing s lcn).pc + 1 } ∧
    ∀ r n, c.maskBit r n = if r = d.setWidth 3 ∧ r ≠ 0 then f n else (issuing s lcn).maskBit r n

/-- The instruction completes: it stores bytes in local memory and goes on at the next index; every other byte stays. -/
def StoreResult (i : Instr) (s : State) (lcn : BitVec 12) (f : Nat → Option Byte) : Prop :=
  ∃ c, CoreResult i s lcn c ∧ c = { issuing s lcn with loc := c.loc, pc := (issuing s lcn).pc + 1 } ∧
    ∀ a, Mem.get 0 c.loc a = (f a).getD (Mem.get 0 (issuing s lcn).loc a)

/-- The address sA + IMM12 (R210, R552). -/
def effective (c : Core) (a : BitVec 5) (imm : BitVec 12) : Nat := (c.scalar a + imm.signExtend 32).toNat

/-- The scalar loads and stores (R552): their bytes, and what a load makes of them. -/
inductive LoadOp where
  | b | bu | h | hu | w
  deriving DecidableEq, Repr

def LoadOp.bytes : LoadOp → Nat
  | .b | .bu => 1
  | .h | .hu => 2
  | .w => 4

def loadRule : LoadOp → BitVec 32 → BitVec 32
  | .b, x => (x.setWidth 8).signExtend 32
  | .bu, x => (x.setWidth 8).setWidth 32
  | .h, x => (x.setWidth 16).signExtend 32
  | .hu, x => (x.setWidth 16).setWidth 32
  | .w, x => x

def loadInstr (op : LoadOp) (lcn : BitVec 12) (d a : BitVec 5) (imm : BitVec 12) : Instr :=
  match op with
  | .b => .lb lcn d a imm
  | .bu => .lbu lcn d a imm
  | .h => .lh lcn d a imm
  | .hu => .lhu lcn d a imm
  | .w => .lw lcn d a imm

inductive StoreOp where
  | b | h | w
  deriving DecidableEq, Repr

def StoreOp.bytes : StoreOp → Nat
  | .b => 1
  | .h => 2
  | .w => 4

def storeInstr (op : StoreOp) (lcn : BitVec 12) (d a : BitVec 5) (imm : BitVec 12) : Instr :=
  match op with
  | .b => .sb lcn d a imm
  | .h => .sh lcn d a imm
  | .w => .sw lcn d a imm

/-- The operand values that R552 counts as undefined: B = 31 in DMA, D = 31 in VSCAT. -/
def undefinedForm : Instr → Bool
  | .vscat _ d _ _ => d == 31
  | .get _ _ _ b _ => b == 31
  | .put _ _ _ b _ => b == 31
  | .blkget _ _ _ b _ => b == 31
  | _ => false

/-- Byte `i` of a word, the lowest first (R210: little-endian). -/
def byteOf {w : Nat} (x : BitVec w) (i : Nat) : Byte := x.extractLsb' (8 * i) 8

/-- The little-endian word that four bytes of a core's address space spell, bytes of the control window included (R213). -/
def wordAt (s : State) (lcn : BitVec 12) (j : Job) (a n : Nat) : BitVec 32 :=
  BitVec.ofNat 32 (ofLE (localRead s j lcn.toNat (issuing s lcn) a n))

end Sys2Proof.Machine
end

