-- ==== Sys2Proof/Certificates/Slice0/Obligations.lean ====
section
/-! DEFINITION. The statements for the provers. Each docstring names the rules of spec/ that the statement formalises or rests on;
a clause that rests on a choice of the model names its entry of the assumption log. -/

open Sys2Proof Sys2Proof.Machine

/-! ## Sliver cores -/

/-- R210, R552: the word of every core instruction decodes to that instruction, with every operand at every value; the
encodings that R552 counts as undefined (B = 31 in DMA, D = 31 in VSCAT) are none. The logical core is not in the word. -/
def Obligations.SliverEncodingRoundTrip : Prop :=
  ∀ (i : Instr) (w : BitVec 32), sliverWord i = some w → undefinedForm i = false →
    ∃ lcn, sliverDecode lcn w = some i

/-- R212, R552: a word whose CLASS or FN no table row defines, or with B = 31 in DMA or D = 31 in VSCAT, decodes to nothing,
and every word that decodes has the CLASS and FN of its instruction's own word. -/
def Obligations.SliverDecodeDefined : Prop :=
  ∀ (lcn : BitVec 12) (w : BitVec 32),
    (12 < (w.extractLsb' 28 4).toNat → sliverDecode lcn w = none) ∧
    ((w.extractLsb' 28 4).toNat = 9 → w.extractLsb' 7 5 = 31 → sliverDecode lcn w = none) ∧
    ((w.extractLsb' 28 4).toNat = 7 → w.extractLsb' 22 6 = 3 → w.extractLsb' 17 5 = 31 → sliverDecode lcn w = none) ∧
    ∀ i, sliverDecode lcn w = some i →
      ∃ v, sliverWord i = some v ∧ v.extractLsb' 22 10 = w.extractLsb' 22 10 ∧ sliverDecode lcn v = some i

/-- R207, R209, R552: ADD to SUBS write their result to sD and nothing else, and s0 discards it; so do ALUI, LUI and LMI, each with
its immediate extended as R552 says. -/
def Obligations.AluResult : Prop :=
  (∀ (s : State) (lcn : BitVec 12) (j : Job) (op : AluOp) (d a b : BitVec 5), CoreIssues s lcn j →
     ScalarResult (aluInstr op lcn d a b) s lcn d (aluRule op ((issuing s lcn).scalar a) ((issuing s lcn).scalar b))) ∧
  (∀ (s : State) (lcn : BitVec 12) (j : Job) (d a : BitVec 5) (imm : BitVec 12), CoreIssues s lcn j →
     (∀ op, ScalarResult (.alui lcn op d a imm) s lcn d (aluRule op ((issuing s lcn).scalar a) (aluImmRule op imm))) ∧
     ScalarResult (.lui lcn d imm) s lcn d (imm.setWidth 32 <<< 20) ∧
     ScalarResult (.lmi lcn d a imm) s lcn d ((issuing s lcn).scalar a ||| ((imm.setWidth 8).setWidth 32 <<< 12)))

/-- R552: branches and jumps. Offsets count from the branch itself; LOOP and JAL also write their register.
The model's choices in it: assumption 59. -/
def Obligations.BranchResult : Prop :=
  ∀ (s : State) (lcn : BitVec 12) (j : Job) (a b : BitVec 5) (offset : BitVec 12), CoreIssues s lcn j →
    let c := issuing s lcn
    let target := c.pc + offset.signExtend 13
    (∀ op, CoreResult (branchInstr op lcn a b offset) s lcn
      { c with pc := if branchRule op (c.scalar a) (c.scalar b) then target else c.pc + 1 }) ∧
    CoreResult (.jmp lcn offset) s lcn { c with pc := target } ∧
    CoreResult (.jr lcn a offset) s lcn { c with pc := (c.scalar a).setWidth 13 + offset.signExtend 13 } ∧
    (∃ c1, CoreResult (.jal lcn offset) s lcn c1 ∧ c1 = { c with s := c1.s, pc := target } ∧
      ∀ r, c1.scalar r = if r = 31 then (c.pc + 1).setWidth 32 else c.scalar r) ∧
    (∃ c1, CoreResult (.loop lcn a offset) s lcn c1 ∧
      c1 = { c with s := c1.s, pc := if c.scalar a - 1 = 0 then c.pc + 1 else target } ∧
      ∀ r, c1.scalar r = if r = a ∧ a ≠ 0 then c.scalar a - 1 else c.scalar r)

/-- R212, R213, R552: a scalar load within the local memory map and aligned to its size; a scalar store within 0x0000–0x3FFF and
aligned to its size stores the low bytes of sD and no other. -/
def Obligations.ScalarMemoryResult : Prop :=
  (∀ (s : State) (lcn : BitVec 12) (j : Job) (op : LoadOp) (d a : BitVec 5) (imm : BitVec 12), CoreIssues s lcn j →
     let ea := effective (issuing s lcn) a imm
     ea + op.bytes ≤ 0x4040 → ea % op.bytes = 0 →
     ScalarResult (loadInstr op lcn d a imm) s lcn d (loadRule op (wordAt s lcn j ea op.bytes))) ∧
  (∀ (s : State) (lcn : BitVec 12) (j : Job) (op : StoreOp) (d a : BitVec 5) (imm : BitVec 12), CoreIssues s lcn j →
     let ea := effective (issuing s lcn) a imm
     ea + op.bytes ≤ 0x4000 → ea % op.bytes = 0 →
     StoreResult (storeInstr op lcn d a imm) s lcn
       (fun x => if ea ≤ x ∧ x < ea + op.bytes then some (byteOf ((issuing s lcn).scalar d) (x - ea)) else none))

/-- R215: what the control window holds: the LCN, the core's place, the cores of the job and the bytes above it zero. -/
def Obligations.ControlWindowReads : Prop :=
  ∀ (s : State) (lcn : BitVec 12) (j : Job), j.cores.length < 0x10000 → j.rowN < 2 ^ 32 →
    wordAt s lcn j 0x4000 2 = lcn.setWidth 32 ∧
    wordAt s lcn j 0x4002 2 = BitVec.ofNat 32 (enumOf j lcn.toNat % 0x10000) ∧
    wordAt s lcn j 0x4004 2 = BitVec.ofNat 32 j.cores.length ∧
    wordAt s lcn j 0x4008 4 = BitVec.ofNat 32 j.rowN ∧
    (∀ a, 0x4014 ≤ a → a + 4 ≤ 0x4040 → wordAt s lcn j a 4 = 0) ∧
    ∀ a, a + 1 ≤ 0x4000 → wordAt s lcn j a 1 = (Mem.get 0 (issuing s lcn).loc a).setWidth 32

/-- R212, R213, R552: vector loads and stores of 32 B, gathers and scatters; a later lane of a scatter wins.
The model's choices in it: assumption 63. -/
def Obligations.VectorMemoryResult : Prop :=
  ∀ (s : State) (lcn : BitVec 12) (j : Job) (d a : BitVec 5) (imm : BitVec 12), CoreIssues s lcn j →
    let c := issuing s lcn
    let ea := effective c a imm
    let lane (r : Nat) (n : Fin 16) := (ea + 2 * c.lane r n.val) % 2 ^ 32
    (ea + 32 ≤ 0x4040 → ea % 32 = 0 →
      VectorResult (.vld lcn d a imm) s lcn d (fun n => (wordAt s lcn j (ea + 2 * n.val) 2).setWidth 16)) ∧
    (ea + 32 ≤ 0x4000 → ea % 32 = 0 →
      StoreResult (.vst lcn d a imm) s lcn (fun x => if ea ≤ x ∧ x < ea + 32 then
        some (byteOf (c.vlane d ⟨(x - ea) / 2 % 16, Nat.mod_lt _ (by decide)⟩) ((x - ea) % 2)) else none)) ∧
    ((∀ n, lane d.toNat n + 2 ≤ 0x4040 ∧ lane d.toNat n % 2 = 0) →
      VectorResult (.vgath lcn d a imm) s lcn d (fun n => (wordAt s lcn j (lane d.toNat n) 2).setWidth 16)) ∧
    (d ≠ 31 → (∀ n, lane (d.toNat + 1) n + 2 ≤ 0x4000 ∧ lane (d.toNat + 1) n % 2 = 0) →
      StoreResult (.vscat lcn d a imm) s lcn (fun x =>
        ((List.finRange 16).reverse.find? (fun n => decide (lane (d.toNat + 1) n = x / 2 * 2))).map
          (fun n => byteOf (c.vlane d n) (x % 2))))

/-- R552: the masked lane operations and VBCAST write the lanes that mC selects and keep the others; VSEL, VSHUF, VINS and VEXT move
lanes as the rule says. -/
def Obligations.LaneResults : Prop :=
  (∀ (s : State) (lcn : BitVec 12) (j : Job) (d a b : BitVec 5) (m : BitVec 3), CoreIssues s lcn j →
     let c := issuing s lcn
     (∀ op, VectorResult (laneInstr op lcn d a b m) s lcn d (fun n =>
       if c.maskBit m n then laneRule op (c.vlane a n) (c.vlane b n) else c.vlane d n)) ∧
     VectorResult (.vbcast lcn d a m) s lcn d (fun n => if c.maskBit m n then (c.scalar a).setWidth 16 else c.vlane d n)) ∧
  (∀ (s : State) (lcn : BitVec 12) (j : Job) (d a b : BitVec 5) (m : BitVec 3) (k : BitVec 4), CoreIssues s lcn j →
     let c := issuing s lcn
     VectorResult (.vsel lcn d a b m) s lcn d (fun n => if c.maskBit m n then c.vlane a n else c.vlane b n) ∧
     VectorResult (.vshuf lcn d a b) s lcn d (fun n =>
       c.vlane a ⟨(c.vlane b n).toNat % 16, Nat.mod_lt _ (by decide)⟩) ∧
     VectorResult (.vins lcn d a k) s lcn d (fun n => if n.val = k.toNat then (c.scalar a).setWidth 16 else c.vlane d n) ∧
     ScalarResult (.vext lcn d a k) s lcn d ((c.vlane a k.toFin).signExtend 32))

/-- R207, R552: comparisons and mask operations; m0 reads ones and discards writes. The model's choices in it: assumption 59. -/
def Obligations.MaskOperationResult : Prop :=
  ∀ (s : State) (lcn : BitVec 12) (j : Job) (d a b : BitVec 5), CoreIssues s lcn j →
    let c := issuing s lcn
    let p (n : Fin 16) := c.maskBit (a.setWidth 3) n
    let q (n : Fin 16) := c.maskBit (b.setWidth 3) n
    MaskResult (.vceq lcn d a b) s lcn d (fun n => c.vlane a n == c.vlane b n) ∧
    MaskResult (.vclt lcn d a b) s lcn d (fun n => (c.vlane a n).slt (c.vlane b n)) ∧
    MaskResult (.mand lcn d a b) s lcn d (fun n => p n && q n) ∧
    MaskResult (.mor lcn d a b) s lcn d (fun n => p n || q n) ∧
    MaskResult (.mxor lcn d a b) s lcn d (fun n => xor (p n) (q n)) ∧
    MaskResult (.mnot lcn d a) s lcn d (fun n => !p n)

/-- R209, R552: the FP16 operations, each the exact value rounded once, and the conversions.
The model's choices in it: assumptions 16 and 59. -/
def Obligations.FloatLaneResult : Prop :=
  ∀ (s : State) (lcn : BitVec 12) (j : Job) (d a b : BitVec 5) (m : BitVec 3), CoreIssues s lcn j →
    let c := issuing s lcn
    let h (r : BitVec 5) (n : Fin 16) := fmtFP16.decode (c.vlane r n).toNat
    let f (r : BitVec 5) (n : Fin 16) := fmtFP32.decode (c.wlane r n).toNat
    let half (x : Fp) := BitVec.ofNat 16 (fmtFP16.encode x)
    let single (x : Fp) := BitVec.ofNat 32 (fmtFP32.encode x)
    let masked (g : Fin 16 → BitVec 16) (n : Fin 16) := if c.maskBit m n then g n else c.vlane d n
    VectorResult (.vaddh lcn d a b m) s lcn d (masked (fun n => half ((h a n).add (h b n)))) ∧
    VectorResult (.vmulh lcn d a b m) s lcn d (masked (fun n => half ((h a n).mul (h b n)))) ∧
    VectorResult (.vfma lcn d a b m) s lcn d (masked (fun n => half (((h a n).mul (h b n)).add (h d n)))) ∧
    AccResult (.vfmaw lcn d a b m) s lcn d (fun n =>
      if c.maskBit m n then single (((h a n).mul (h b n)).add (f d n)) else c.wlane d n) ∧
    VectorResult (.vcvthw lcn d a) s lcn d (fun n => half (f a n)) ∧
    AccResult (.vcvtwh lcn d a) s lcn d (fun n => single (h a n)) ∧
    VectorResult (.vcvthi lcn d a) s lcn d (fun n => half (Fp.ofInt (c.vlane a n).toInt)) ∧
    VectorResult (.vcvtih lcn d a) s lcn d (fun n => match h a n with
      | .fin g x e => clampBV 16 (((Fp.fin g x e).toIntRne).getD 0)
      | .inf g => if g then 0x8000 else 0x7FFF
      | .nan _ => clampBV 16 Config.nanToInt)

/-- R168, R209, R552: the INT8 dot products saturate their INT32 lane once, and a lane that saturated stays marked.
The model's choices in it: assumption 59. -/
def Obligations.DotProductResult : Prop :=
  ∀ (s : State) (lcn : BitVec 12) (j : Job) (d a b : BitVec 5) (m : BitVec 3), CoreIssues s lcn j →
    let c := issuing s lcn
    let lo (x : BitVec 16) := x.extractLsb' 0 8
    let hi (x : BitVec 16) := x.extractLsb' 8 8
    let dot (u : BitVec 8 → Int) (n : Fin 16) : Int := (c.wlane d n).toInt
      + u (lo (c.vlane a n)) * (lo (c.vlane b n)).toInt + u (hi (c.vlane a n)) * (hi (c.vlane b n)).toInt
    let out (u : BitVec 8 → Int) (n : Fin 16) := if c.maskBit m n then clampBV 32 (dot u n) else c.wlane d n
    AccResult (.vdot8 lcn d a b m) s lcn d (out BitVec.toInt) ∧
    AccResult (.vdot8u lcn d a b m) s lcn d (out (fun x => (x.toNat : Int))) ∧
    ∃ c1, CoreResult (.vdot8 lcn d a b m) s lcn c1 ∧
      ∀ n : Fin 16, (Map.getD c1.wsat (d.toNat % 8) 0).getLsbD n.val =
        ((Map.getD c.wsat (d.toNat % 8) 0).getLsbD n.val ||
          (c.maskBit m n && decide ((clampBV 32 (dot BitVec.toInt n)).toInt ≠ dot BitVec.toInt n)))

/-- R552: packing clamps each INT16 lane to INT8; unpacking extends the sign. -/
def Obligations.PackResult : Prop :=
  ∀ (s : State) (lcn : BitVec 12) (j : Job) (d a b : BitVec 5), CoreIssues s lcn j →
    let c := issuing s lcn
    let at8 (r : BitVec 5) (k : Fin 32) : BitVec 8 :=
      (c.vlane r ⟨k.val / 2, by omega⟩).extractLsb' (8 * (k.val % 2)) 8
    let elem (k : Fin 32) : BitVec 8 := clampBV 8
      (if k.val < 16 then (c.vlane a ⟨k.val % 16, by omega⟩).toInt else (c.vlane b ⟨k.val % 16, by omega⟩).toInt)
    VectorResult (.vpk8 lcn d a b) s lcn d (fun n => elem ⟨2 * n.val + 1, by omega⟩ ++ elem ⟨2 * n.val, by omega⟩) ∧
    VectorResult (.vupkl8 lcn d a) s lcn d (fun n => (at8 a ⟨n.val, by omega⟩).signExtend 16) ∧
    VectorResult (.vupkh8 lcn d a) s lcn d (fun n => (at8 a ⟨16 + n.val, by omega⟩).signExtend 16)

/-- R162, R171, R209, R552: VQNT to an integer format requantises the lanes that mC selects and adds the lanes written,
saturated and underflowed to the tile counters. The model's choices in it: assumption 59. -/
def Obligations.RequantiseResult : Prop :=
  ∀ (s : State) (lcn : BitVec 12) (j : Job) (d a b : BitVec 5) (m : BitVec 3), CoreIssues s lcn j →
    let c := issuing s lcn
    let y := c.scalar b
    let z : Int := ((y.extractLsb' 16 8).toNat : Int)
    let k := (y.extractLsb' 0 8).toInt
    let fmt := (y.extractLsb' 24 4).toNat
    let v (n : Fin 16) := (c.wlane a n).toInt
    let r (n : Fin 16) := rneShiftK (v n) k
    let lo := (intRange fmt).1
    let hi := (intRange fmt).2
    let on := (List.finRange 16).filter (fun n => c.maskBit m n)
    fmt ≤ 3 →
    ∃ c1, CoreResult (.vqnt lcn d a b m) s lcn c1 ∧
      c1 = { c with v := c1.v, sat := c1.sat, uflow := c1.uflow, elems := c1.elems, pc := c.pc + 1 } ∧
      (∀ q n, c1.vlane q n = if q = d then
        (if c.maskBit m n then BitVec.ofInt 16 (max lo (min hi (r n + z))) else c.vlane d n) else c.vlane q n) ∧
      c1.sat = c.sat + (on.filter (fun n => decide (r n + z < lo ∨ hi < r n + z) ||
        (Map.getD c.wsat (a.toNat % 8) 0).getLsbD n.val)).length ∧
      c1.uflow = c.uflow + (on.filter (fun n => decide (v n ≠ 0 ∧ r n = 0))).length ∧
      c1.elems = c.elems + on.length

/-- R184, R209, R223, R224, R552: a lane reduction combines adjacent lanes, then adjacent results, up four levels. -/
def Obligations.LaneReductionResult : Prop :=
  ∀ (s : State) (lcn : BitVec 12) (j : Job) (d a : BitVec 5), CoreIssues s lcn j →
    let c := issuing s lcn
    let tree (f : Nat → Nat → Nat) : Nat :=
      let l1 (i : Nat) := f (c.acc a.toNat (2 * i)) (c.acc a.toNat (2 * i + 1))
      let l2 (i : Nat) := f (l1 (2 * i)) (l1 (2 * i + 1))
      let l3 (i : Nat) := f (l2 (2 * i)) (l2 (2 * i + 1))
      f (l3 0) (l3 1)
    let ints (f : Int → Int → Int) (x y : Nat) : Nat := (BitVec.ofInt 32 (f (BitVec.ofNat 32 x).toInt (BitVec.ofNat 32 y).toInt)).toNat
    ScalarResult (.raddf lcn d a) s lcn d (BitVec.ofNat 32 (tree addF32)) ∧
    ScalarResult (.raddi lcn d a) s lcn d (BitVec.ofNat 32 (tree (fun x y => (clampBV 32
      ((BitVec.ofNat 32 x).toInt + (BitVec.ofNat 32 y).toInt)).toNat))) ∧
    ScalarResult (.rmaxf lcn d a) s lcn d (BitVec.ofNat 32 (tree (pickF32 true))) ∧
    ScalarResult (.rminf lcn d a) s lcn d (BitVec.ofNat 32 (tree (pickF32 false))) ∧
    ScalarResult (.rmaxi lcn d a) s lcn d (BitVec.ofNat 32 (tree (ints max))) ∧
    ScalarResult (.rmini lcn d a) s lcn d (BitVec.ofNat 32 (tree (ints min)))

/-- R207, R212, R232, R552: GET, PUT and BLKGET to the local device enter the core's DMA queue while it holds fewer than four requests;
with four the instruction stays to issue again. The oldest GET or PUT of a core completes: its bytes move, it leaves the queue, a
WAIT that has nothing left to wait for goes on, and every other byte stays. That the bytes move at DMA_COMPLETE is the model's choice
(assumption 60). -/
def Obligations.DmaRequests : Prop :=
  (∀ (s : State) (lcn : BitVec 12) (j : Job) (d a b k : BitVec 5), CoreIssues s lcn j →
     let c := issuing s lcn
     let addr := (c.scalar b).toNat + ((c.scalar (b + 1)).toNat % 256) * 2 ^ 32
     let loc := (c.scalar a).toNat
     let size := (c.scalar d).toNat
     let block := blockBytes (unitRead s addr 16)
     let q (kind n : Nat) : Dma := { kind := kind, loc := loc, addr := addr, size := n, tile := size }
     b ≠ 31 → ((c.scalar k).toNat = 0 ∨ (c.scalar k).toNat = ringId s + 1) → addr % 64 = 0 →
     (loc + size ≤ 0x4000 → size ≤ 4096 → rangeOk s addr size false = true →
       CoreResult (.get lcn d a b k) s lcn (if c.dma.length < 4 then
         { c with dma := c.dma ++ [q 0 size], pc := c.pc + 1 } else { c with wait := some .again })) ∧
     (loc + size ≤ 0x4040 → size ≤ 4096 → rangeOk s addr size true = true →
       CoreResult (.put lcn d a b k) s lcn (if c.dma.length < 4 then
         { c with dma := c.dma ++ [q 1 size], pc := c.pc + 1 } else { c with wait := some .again })) ∧
     (loc + block ≤ 0x4000 → block ≤ 4096 → rangeOk s addr block false = true →
       CoreResult (.blkget lcn d a b k) s lcn (if c.dma.length < 4 then
         { c with dma := c.dma ++ [q 2 block], pc := c.pc + 1 } else { c with wait := some .again }))) ∧
  (∀ (s : State) (lcn : BitVec 12) (hd : Nat) (j : Job) (q : Dma) (rest : List Dma),
     let c := coreOf s lcn.toNat
     noOldJob s lcn → jobOfCore s lcn.toNat = some (hd, j) → Canonical s →
     c.dma = q :: rest → q.device = none → (c.wait = none ∨ c.wait = some .dma) →
     rangeOk s q.addr q.size (q.kind == 1) = true →
     ∃ t, exec (.dmaComplete lcn) s = .next t ∧
       (q.kind = 0 → poisoned s q.addr q.size = false →
         (∀ a, devByte t a = devByte s a) ∧
         ∀ x, Mem.get 0 (coreOf t lcn.toNat).loc x =
           if q.loc ≤ x ∧ x < q.loc + q.size then devByte s (q.addr + (x - q.loc)) else Mem.get 0 c.loc x) ∧
       (q.kind = 1 → q.loc + q.size ≤ 0x4000 → addrFenced s q.addr q.size = false →
         (coreOf t lcn.toNat).loc = c.loc ∧
         ∀ a, devByte t a = if q.addr ≤ a ∧ a < q.addr + q.size then Mem.get 0 c.loc (q.loc + (a - q.addr)) else devByte s a) ∧
       ((q.kind = 0 ∧ poisoned s q.addr q.size = false) ∨ (q.kind = 1 ∧ addrFenced s q.addr q.size = false) →
         (coreOf t lcn.toNat).dma = rest ∧
         (coreOf t lcn.toNat).wait = (if rest = [] then none else c.wait) ∧
         (coreOf t lcn.toNat).pc = (if rest = [] ∧ c.wait = some .dma then c.pc + 1 else c.pc) ∧
         ∀ k, k ≠ lcn.toNat → coreOf t k = coreOf s k))

/-- R211, R230, R552: WAIT and FENCE go on at once when nothing is outstanding, else the core waits at the instruction. -/
def Obligations.WaitsStall : Prop :=
  ∀ (s : State) (lcn : BitVec 12) (j : Job), CoreIssues s lcn j →
    let c := issuing s lcn
    CoreResult (.wait lcn) s lcn (if c.dma = [] then { c with pc := c.pc + 1 } else { c with wait := some .dma }) ∧
    CoreResult (.fence lcn) s lcn
      (if c.dma = [] ∧ inTransit s lcn.toNat = false then { c with pc := c.pc + 1 } else { c with wait := some .fence }) ∧
    CoreResult (.nop lcn) s lcn { c with pc := c.pc + 1 }

/-- R230: SEND puts 16 bytes on their way to another core of the squad that is active and has room; RECV takes the oldest message and
the sender's number, or waits while the mailbox is empty; messages are delivered in the order sent, and a RECV that waits takes the
message that arrives. -/
def Obligations.SquadMail : Prop :=
  (∀ (s : State) (lcn : BitVec 12) (j : Job) (d a b : BitVec 5), CoreIssues s lcn j →
     let c := issuing s lcn
     let k := (c.scalar b).toNat
     let dest := lcn.toNat / 16 * 16 + k
     let loc := (c.scalar a).toNat
     (k < 16 → dest ≠ lcn.toNat → (coreOf s dest).active = true → loc + 16 ≤ 0x4040 →
       (coreOf s dest).mail.length + (coreOf s dest).inbound.length < 16 →
       ∃ t, exec (.send lcn a b) s = .next t ∧ coreOf t lcn.toNat = { c with pc := c.pc + 1 } ∧
         coreOf t dest = { coreOf s dest with inbound := (coreOf s dest).inbound ++
           [(lcn.toNat % 16, localRead s j lcn.toNat c loc 16)] } ∧
         ∀ x, x ≠ lcn.toNat → x ≠ dest → coreOf t x = coreOf s x) ∧
     (loc + 16 ≤ 0x4000 → c.mail = [] → CoreResult (.recv lcn d a) s lcn { c with wait := some (.recv d.toNat loc) }) ∧
     (∀ m rest, loc + 16 ≤ 0x4000 → c.mail = m :: rest →
       ∃ c1, CoreResult (.recv lcn d a) s lcn c1 ∧ c1 = { c with mail := rest, loc := c1.loc, s := c1.s, pc := c.pc + 1 } ∧
         (∀ x, Mem.get 0 c1.loc x = if loc ≤ x ∧ x < loc + m.2.length then (m.2[x - loc]?).getD 0 else Mem.get 0 c.loc x) ∧
         ∀ r, c1.scalar r = if r = d ∧ d ≠ 0 then BitVec.ofNat 32 m.1 else c.scalar r)) ∧
  (∀ (s : State) (lcn : BitVec 12) (hd : Nat) (j : Job) (m : Nat × List Byte) (rest : List (Nat × List Byte)),
     let c := coreOf s lcn.toNat
     noOldJob s lcn → jobOfCore s lcn.toNat = some (hd, j) → c.inbound = m :: rest →
     (coreOf s (lcn.toNat / 16 * 16 + m.1)).wait ≠ some .fence →
     ∃ t, exec (.messageDelivery lcn) s = .next t ∧
       (c.wait = none →
         coreOf t lcn.toNat = { c with inbound := rest, mail := c.mail ++ [m] } ∧
         ∀ k, k ≠ lcn.toNat → k ≠ lcn.toNat / 16 * 16 + m.1 → coreOf t k = coreOf s k) ∧
       (∀ d a, c.wait = some (.recv d a) → c.mail = [] →
         (coreOf t lcn.toNat).mail = [] ∧ (coreOf t lcn.toNat).inbound = rest ∧ (coreOf t lcn.toNat).wait = none ∧
         (coreOf t lcn.toNat).pc = c.pc + 1))

/-- R230: BAR holds a core until every core of the squad that takes part in the job has reached BAR; then all go on. -/
def Obligations.BarrierHolds : Prop :=
  ∀ (s : State) (lcn : BitVec 12) (j : Job), CoreIssues s lcn j → lcn.toNat ∈ j.cores → j.cores.Nodup →
    (∀ k ∈ j.cores, (coreOf s k).huddle = (coreOf s lcn.toNat).huddle) →
    let mate (k : Nat) := k ∈ j.cores ∧ k / 16 = lcn.toNat / 16 ∧ k ≠ lcn.toNat
    ((∃ k, mate k ∧ (coreOf s k).wait ≠ some .bar) →
      CoreResult (.bar lcn) s lcn { issuing s lcn with wait := some .bar }) ∧
    ((∀ k, mate k → (coreOf s k).wait = some .bar) →
      ∃ t, exec (.bar lcn) s = .next t ∧ coreOf t lcn.toNat = { issuing s lcn with pc := (issuing s lcn).pc + 1 } ∧
        (∀ k, mate k → coreOf t k = { coreOf s k with wait := none, pc := (coreOf s k).pc + 1 }) ∧
        ∀ k, ¬ mate k → k ≠ lcn.toNat → coreOf t k = coreOf s k)

/-- R220, R225: UNEXT of a core between units returns the next unit of its fixed sequence, or −1 when none remains: under
BLOCKED core E of C takes units ⌊E × U / C⌋ to ⌊(E + 1) × U / C⌋ − 1, under CYCLIC the chunks E, E + C, ….
The model's choices in it: assumption 61. -/
def Obligations.UnitsDrawn : Prop :=
  ∀ (s : State) (lcn : BitVec 12) (j : Job) (d : BitVec 5), CoreIssues s lcn j → (issuing s lcn).inUnit = false →
    (issuing s lcn).staged = [] → j.cores ≠ [] →
    let c := issuing s lcn
    let n := j.cores.length
    let e := enumOf j lcn.toNat
    let draws (u : Option Nat) := ∃ c1, CoreResult (.unext lcn d) s lcn c1 ∧
      (∀ r, c1.scalar r = if r = d ∧ d ≠ 0 then (match u with | some v => BitVec.ofNat 32 (j.rowLo + v) | none => BitVec.allOnes 32)
        else c.scalar r) ∧
      c1 = (match u with
        | some v => { c with s := c1.s, taken := c.taken + 1, inUnit := true, unit := v, remoteN := 0, pc := c.pc + 1 }
        | none => { c with s := c1.s, pc := c.pc + 1 })
    (j.order = 0 → draws (if e * j.rowN / n + c.taken < (e + 1) * j.rowN / n then some (e * j.rowN / n + c.taken) else none)) ∧
    (j.order = 1 → 0 < j.chunk → e < n →
      let v := (e + c.taken / j.chunk * n) * j.chunk + c.taken % j.chunk
      draws (if v < j.rowN then some v else none))

/-- R174, R209, R233: GSHIFT of a tensor that Range Guard does not act on returns its declared shift; STST without statistics
clears the tile counters and writes nothing. The model's choices in it: assumptions 8 and 66. -/
def Obligations.ShiftAndStatistics : Prop :=
  ∀ (s : State) (lcn : BitVec 12) (j : Job) (d a b : BitVec 5) (x : Tensor), CoreIssues s lcn j →
    let c := issuing s lcn
    s.fab.plan.tensors[(c.scalar a).toNat]? = some x → guarded s j.image x = false →
    (∃ c1, CoreResult (.gshift lcn d a b) s lcn c1 ∧
      c1 = { c with s := c1.s, gtensor := some ((c.scalar a).toNat, (c.scalar b).toNat, x.shift, 0), pc := c.pc + 1 } ∧
      ∀ r, c1.scalar r = if r = d ∧ d ≠ 0 then BitVec.ofInt 32 x.shift else c.scalar r) ∧
    (fieldLE j.bytes 0x28 8 = 0 → (∀ k m n o, c.gtensor = some (k, m, n, o) → k = (c.scalar a).toNat) → c.gtensor ≠ none →
      (∀ k, (match (coreOf s k).wait with | some (.gshift _ _ _) => False | _ => True)) →
      CoreResult (.stst lcn b) s lcn { c with sat := 0, uflow := 0, elems := 0, pc := c.pc + 1 })

/-- R57, R212, R236, R238, R241: a program fault ends the job: every core of it stops, the entry ends, FAULT is noted and the log is
offered PROG_FAULT with the LCN and the program counter, and no core is benched. A core that fails is benched at once, its slot
marked, fenced and reported once, and the job that it runs ends; an error of one bit is corrected and counted; SPARE_CHECK_END
benches a spare that fails. The model's choices in it: assumptions 20 and 106. -/
def Obligations.FaultsOfCores : Prop :=
  (∀ (s : State) (lcn : BitVec 12) (hd : Nat) (j : Job) (w : BitVec 32), CoreIssues s lcn j →
     jobOfCore s lcn.toNat = some (hd, j) → s.slv.cores.Pairwise (fun x y => x.1 < y.1) → NoWorkLeft s hd →
     let ends (i : Instr) := ∃ t, exec i s = .next t ∧ (hudOf t hd).group = [] ∧
       (reg t Reg.SLV_EVENTS).testBit 4 = true ∧ (∀ k ∈ j.cores, coreOf t k = {}) ∧
       (∀ q, (squadOf t q).bench = (squadOf s q).bench) ∧
       ((∃ e ∈ t.log.queue, e.code = 0x15 ∧ e.args.take 4 = leBytes 2 lcn.toNat ++ leBytes 2 (issuing s lcn).pc.toNat) ∨
         t.log.lost = s.log.lost + 1)
     (sliverDecode lcn w = none → ends (.undefinedEncoding lcn w)) ∧
     (∀ op d a imm, 0x4040 < effective (issuing s lcn) a imm + LoadOp.bytes op → ends (loadInstr op lcn d a imm)) ∧
     (∀ op d a imm, effective (issuing s lcn) a imm + StoreOp.bytes op ≤ 0x4000 →
       effective (issuing s lcn) a imm % op.bytes ≠ 0 → ends (storeInstr op lcn d a imm)) ∧
     (∀ a b, ((issuing s lcn).scalar a).toNat + 16 ≤ 0x4040 → 16 ≤ ((issuing s lcn).scalar b).toNat → ends (.send lcn a b)) ∧
     (∀ d a k, ends (.get lcn d a 31 k) ∧ ends (.put lcn d a 31 k) ∧ ends (.blkget lcn d a 31 k)) ∧
     ∀ a imm, ends (.vscat lcn 31 a imm)) ∧
  (∀ (s : State) (q : Fin 256) (p : Fin 17) (error : CoreError),
     let x := squadOf s q.val
     let l := q.val * 16 + (logicalOf x p.val).getD 0
     let benched (t : State) :=
       squadOf t q.val = { x with bench := x.bench ||| 2 ^ p.val, fenced := setInsert x.fenced p.val } ∧
       (reg t Reg.SLV_EVENTS).testBit 0 = true ∧ ∀ k, k ≠ q.val → squadOf t k = squadOf s k
     (error ≠ .corrected → s.sch.old = [] → x.bench.testBit p.val = false →
       (jobOfCore s l = none → romOnCore s l = none → ∃ t, exec (.coreFault q p error) s = .next t ∧ benched t ∧
         t.slv.cores = s.slv.cores ∧ t.sch = s.sch ∧ t.mem = s.mem) ∧
       ∀ hd j, jobOfCore s l = some (hd, j) → logicalOf x p.val ≠ none → (coreOf s l).active = true → NoWorkLeft s hd →
         s.slv.cores.Pairwise (fun a b => a.1 < b.1) →
         ∃ t, exec (.coreFault q p error) s = .next t ∧ benched t ∧ (hudOf t hd).group = [] ∧ ∀ k ∈ j.cores, coreOf t k = {}) ∧
     (∃ t, exec (.coreFault q p .corrected) s = .next t ∧ t = { s with regs := t.regs } ∧
       reg t Reg.SLV_MEM_CORR = min (reg s Reg.SLV_MEM_CORR + 1) 0xFFFFFFFF ∧ (reg t Reg.SLV_EVENTS).testBit 6 = true) ∧
     (x.checking = true → exec (.spareCheckEnd q true) s = .next (setSquad s q.val { x with checking := false })) ∧
     (x.checking = true → x.bench.testBit 16 = false → ∃ t, exec (.spareCheckEnd q false) s = .next t ∧
       (squadOf t q.val).bench.testBit 16 = true ∧ (squadOf t q.val).checking = false ∧ t.sch = s.sch ∧ t.mem = s.mem))

/-- R218, R225, R226, R552: TCONTRIB stages its words, and they join the partial in order at the next UNEXT or END, which closes the
unit; once every core has executed END, the reduction's words are written at RED_OUT + CHILD × RED_STRIDE, and the entry that has no
other leaf ends with its count of jobs; where no PUT of the job is in flight, no byte but those of the result and of STATUS changes; a
result address that has come to lie outside ends the entry too.
The model's choices in it: assumptions 50, 107, 150 and 153. -/
def Obligations.ReductionResult : Prop :=
  (∀ (s : State) (lcn : BitVec 12) (hd : Nat) (j : Job) (a : BitVec 5), CoreIssues s lcn j →
     jobOfCore s lcn.toNat = some (hd, j) →
     let c := issuing s lcn
     let x := (c.scalar a).toNat
     (x + 4 * redElems j ≤ 0x4040 → CoreResult (.tcontrib lcn a) s lcn { c with
       staged := c.staged ++ [(List.range (redElems j)).map (fun i => (wordAt s lcn j (x + 4 * i) 4).toNat)], pc := c.pc + 1 }) ∧
     ∃ t, exec (.endCore lcn) s = .next t ∧
       coreOf t lcn.toNat = { c with
         ended := true, inUnit := false, staged := []
         unitsDone := c.unitsDone + (if c.inUnit then 1 else 0)
         partialWords := c.staged.foldl (redList (treeOp s j)) c.partialWords } ∧
       jobOfCore t lcn.toNat = some (hd, { j with done := j.done + (if c.inUnit then 1 else 0) }) ∧
       ∀ k, k ≠ lcn.toNat → coreOf t k = coreOf s k) ∧
  (∀ (s : State) (leaf : Byte) (j : Job),
     let h := topOf s.fab.plan leaf.toNat
     let a := fieldLE j.bytes 0x18 8 + j.child * fieldLE j.bytes 0x20 4
     let words := (reduction s j).flatMap (leBytes 4)
     let inStatus (x : Nat) := statusAddr j ≤ x ∧ x < statusAddr j + 8
     s.sch.old = [] → NoWorkLeft s h → (hudOf s h).group = [j] → j.huddle = leaf.toNat → j.kind = 1 → j.view = false →
     reduces j = true → coresEnded s j = true → j.reduced = false → addrFenced s a words.length = false →
     ∃ t, exec (.reductionDone leaf) s = .next t ∧ (hudOf t h).group = [] ∧
       (rangeOk s a (4 * redElems j) true = true →
         (hudOf t leaf.toNat).doneCount = ((hudOf s leaf.toNat).doneCount + 1) % 2 ^ 32 ∧
         ((∀ l ∈ j.cores, ∀ q ∈ (coreOf s l).dma, q.kind ≠ 1 ∨ q.device ≠ none) →
           (∀ i, i < words.length → ¬ inStatus (a + i) → devByte t (a + i) = (words[i]?).getD 0) ∧
           ∀ x, ¬ inStatus x → (x < a ∨ a + words.length ≤ x) → devByte t x = devByte s x)))

/-! ## The host port and what it writes -/

/-- R409, R410, R430: ACT to a closed bank opens the row, classed by its address; ACT to an open bank is a protocol error and
leaves the row. The model's choices in it: assumption 5. -/
def Obligations.ActivateOpensRow : Prop :=
  ∀ (s : State) (bank : Fin 16) (row : BitVec 17), portAccepts s = true →
    let a := row.toNat * 0x8000 + bank.val * 0x800
    let lent := decide (0x1000000 ≤ a ∧ a < 0x1000000 + lentSize s)
    (Map.get s.hpt.banks bank.val = none → ∃ t, exec (.act bank row) s = .next t ∧
      t = { s with hpt := { s.hpt with banks := t.hpt.banks }, regs := t.regs, pmc := t.pmc } ∧
      Map.get t.hpt.banks bank.val = some { row := row.toNat, aperture := lent, filled := false, stale := false, buf := [] } ∧
      (∀ k, k ≠ bank.val → Map.get t.hpt.banks k = Map.get s.hpt.banks k) ∧
      reg t Reg.HPT_ACTS = (reg s Reg.HPT_ACTS + 1) % 2 ^ 32 ∧
      ∀ r, ¬ pmcRegister r → r ≠ Reg.HPT_ACTS → reg t r = reg s r) ∧
    (Map.get s.hpt.banks bank.val ≠ none → ∃ t, exec (.act bank row) s = .next t ∧
      t = { s with regs := t.regs, log := t.log } ∧ (reg t Reg.HPT_STATUS).testBit 4 = true)

/-- R410, R411, R412, R417, R430: the fill of an aperture row takes the 2 KiB as they stand in its Court bank, but for the lines that came
before, and a burst reads an aperture row, a command page, a range that is neither, or a closed bank. An aperture row gives its buffer;
all-ones while it is stale; and while the fill is not complete the line where it is in, else all-ones with EARLY, a free value saying
which. The model's choices in it: assumptions 15, 41, 43 and 157. -/
def Obligations.ReadsOfRows : Prop :=
  (∀ (s : State) (bank : Fin 16) (col : Fin 64) (bl32 : Bool), portAccepts s = true →
     let o := (burstOf col.val bl32).1
     let n := (burstOf col.val bl32).2
     let reads (quiet : Bool) (out : List Byte) (u : State) := ∃ t, exec (.read bank col bl32) s = .next t ∧
       t.hpt = { s.hpt with out := out, dq := driven s out, readTick := s.hpt.readTick + n } ∧
       t = { s with hpt := t.hpt, regs := t.regs, pmc := t.pmc, log := t.log } ∧
       (quiet = true → t.log = s.log) ∧ ∀ r, ¬ pmcRegister r → r ≠ Reg.LOG_EVENTS → reg t r = reg u r
     (Map.get s.hpt.banks bank.val = none → ∃ t, exec (.read bank col bl32) s = .next t ∧ t.hpt = s.hpt ∧
       t = { s with regs := t.regs, log := t.log } ∧ (reg t Reg.HPT_STATUS).testBit 4 = true) ∧
     ∀ r, Map.get s.hpt.banks bank.val = some r →
       let a := r.row * 0x8000 + bank.val * 0x800 + o
       (0x1000000 ≤ a → r.aperture = true → r.stale = false → r.filled = true → r.bad = [] →
         reads true (slice r.buf o n) s) ∧
       (∀ e, 0x1000000 ≤ a → r.aperture = true → r.stale = false → r.filled = false → r.bad = [] →
         Map.get r.early (o / 64) = some e → reads true (slice e (o % 64) n) s) ∧
       (∀ d, 0x1000000 ≤ a → r.aperture = true → r.stale = false → r.filled = false → r.bad = [] →
         Map.get r.early (o / 64) = none → rowDevice s bank.val r = some d → s.mem.poison.contains (d + 64 * (o / 64)) = false →
         ∃ t, exec (.read bank col bl32) s = .next t ∧
           t = { s with hpt := t.hpt, regs := t.regs, pmc := t.pmc, free := s.free + 1 } ∧
           t.hpt.dq = driven s t.hpt.out ∧ t.hpt.readTick = s.hpt.readTick + n ∧
           (∀ k, k ≠ bank.val → Map.get t.hpt.banks k = Map.get s.hpt.banks k) ∧
           ((t.hpt.out = List.replicate n 0xFF ∧ t.hpt.banks = s.hpt.banks ∧ (reg t Reg.HPT_STATUS).testBit 2 = true) ∨
            t.hpt.out = slice (devRead s (d + 64 * (o / 64)) 64) (o % 64) n)) ∧
       (0x1000000 ≤ a → r.aperture = true → r.stale = true → reads true (List.replicate n 0xFF) (event s Reg.HPT_STATUS 3)) ∧
       (0x1000000 ≤ a → r.aperture = false →
         reads false (List.replicate n 0xFF) (poke (event s Reg.HPT_STATUS 0) Reg.HPT_UNMAPPED_ADDR a)) ∧
       (0x400000 ≤ a → a < 0x800000 → s.pwr.phase = .run → reads true (Mem.read 0 s.pages a n) s)) ∧
  (∀ (s : State) (bank : Fin 16) (r : OpenRow) (d : Nat), Map.get s.hpt.banks bank.val = some r → r.aperture = true →
     r.filled = false → r.stale = false → rowDevice s bank.val r = some d →
     (∀ i, i < 32 → s.mem.poison.contains (d + 64 * i) = false) →
     r.early.Pairwise (fun x y => x.1 < y.1) → (∀ e ∈ r.early, e.1 < 32 ∧ e.2.length = 64) →
     ∃ t, exec (.apertureFillDone bank) s = .next t ∧ t = { s with hpt := { s.hpt with banks := t.hpt.banks } } ∧
       (∃ q, Map.get t.hpt.banks bank.val = some q ∧ q = { r with filled := true, buf := q.buf, early := [] } ∧ q.buf.length = 2048 ∧
         ∀ x, x < 2048 → q.buf[x]? = some (match Map.get r.early (x / 64) with
           | some l => (l[x % 64]?).getD 0
           | none => devByte s (d + x))) ∧
       ∀ k, k ≠ bank.val → Map.get t.hpt.banks k = Map.get s.hpt.banks k)

/-- R415, R416, R417: WR and MWR through an aperture row change exactly the enabled bytes of its Court bank, and the row buffer
alike; to a command page, exactly its enabled bytes; with the bank closed, nothing but the protocol error. MWR masks with DMI; under WR
with write DBI enabled DMI inverts (R414). The model's choices in it: assumptions 12, 15 and 41. -/
def Obligations.WriteBurst : Prop :=
  ∀ (s : State) (bank : Fin 16) (col : Fin 64) (bl32 : Bool) (d : List (Byte × Bool)), portAccepts s = true →
    d.length = (burstOf col.val bl32).2 → Canonical s →
    let o := (burstOf col.val bl32).1
    let writes (i : Instr) (d : List (Byte × Bool)) :=
      (Map.get s.hpt.banks bank.val = none → ∃ t, exec i s = .next t ∧
        t = { s with regs := t.regs, log := t.log } ∧ (reg t Reg.HPT_STATUS).testBit 4 = true) ∧
      ∀ r, Map.get s.hpt.banks bank.val = some r →
        let a := r.row * 0x8000 + bank.val * 0x800 + o
        (∀ base, 0x1000000 ≤ a → r.aperture = true → r.stale = false → rowDevice s bank.val r = some base →
          ∃ t, exec i s = .next t ∧ t = { s with hpt := t.hpt, mem := t.mem, regs := t.regs, pmc := t.pmc } ∧
            (∀ x, devByte t x = if base + o ≤ x ∧ x < base + o + d.length then
              (match d[x - (base + o)]? with | some (b, true) => b | _ => devByte s x) else devByte s x) ∧
            (∀ k, k ≠ bank.val → Map.get t.hpt.banks k = Map.get s.hpt.banks k) ∧
            t.hpt.writeTick = s.hpt.writeTick + (d.filter (·.2)).length) ∧
        (0x400000 ≤ a → a < 0x800000 → s.pwr.phase = .run → s.com.checking = false →
          ∃ t, exec i s = .next t ∧ t = { s with hpt := { s.hpt with writeTick := t.hpt.writeTick }, pages := t.pages,
                                                 regs := t.regs, pmc := t.pmc } ∧
            ∀ x, Mem.get 0 t.pages x = if a ≤ x ∧ x < a + d.length then
              (match d[x - a]? with | some (b, true) => b | _ => Mem.get 0 s.pages x) else Mem.get 0 s.pages x)
    writes (.mwr bank col bl32 d) d ∧
    writes (.wr bank col bl32 d) (d.map (fun p => (if bit (inForceReg s 3) 7 && p.2 then ~~~p.1 else p.1, true)))

/-- R11, R31, R38, R416, R423: a register word written whole enters the commit window and changes nothing in force; its W1C
bits clear at once; a partial mask discards the word whole and reports it; during reset and the boot sequence, and in the block of a
huddle that the plan does not define (R30), nothing is written. The model's choices in it: assumption 30. -/
def Obligations.RegisterWrite : Prop :=
  ∀ (s : State) (addr : BitVec 24) (value : Word) (d : RegDesc) (k : Nat),
    let a := addr.toNat
    a % 4 = 0 → a < 0x180000 → findReg a = some (d, k) →
    (s.pwr.phase ≠ .run → ∀ mask, exec (.registerWrite addr value mask) s = .next s) ∧
    (0x30000 ≤ a → a < 0x40000 → huddleDefined s ((a - 0x30000) / 0x100) = false →
      ∀ mask, exec (.registerWrite addr value mask) s = .next s) ∧
    (s.pwr.phase = .run → (0x30000 ≤ a → a < 0x40000 → huddleDefined s ((a - 0x30000) / 0x100) = true) →
      ∀ mask, mask ≠ 0 → mask ≠ 0xF →
      exec (.registerWrite addr value mask) s = .next (poke (event s Reg.HPT_STATUS 1) Reg.HPT_PARTIAL_ADDR a)) ∧
    (s.pwr.phase = .run → ¬ (0x30000 ≤ a ∧ a < 0x40000) →
      a ∉ [Reg.FRS_EHOLD, Reg.LOG_READ, Reg.LOG_CTRL, Reg.WHS_SUBMIT_LO, Reg.WHS_SUBMIT_HI] →
      (d.wc ≠ 0 → d.w1c = 0 → s.com.checking = false → ∃ t, exec (.registerWrite addr value 0xF) s = .next t ∧
        t = { s with com := { s.com with shadow := t.com.shadow } } ∧ Map.get t.com.shadow a = some value ∧
        ∀ b, b ≠ a → Map.get t.com.shadow b = Map.get s.com.shadow b) ∧
      (d.wc ≠ 0 → d.w1c = 0 → s.com.checking = true → ∃ t, exec (.registerWrite addr value 0xF) s = .next t ∧
        t = { s with com := { s.com with shadow := t.com.shadow, late := t.com.late }, regs := t.regs } ∧
        Map.get t.com.shadow a = some value ∧ (reg t Reg.WHS_IRQ_STATUS).testBit 1 = true ∧
        t.com.late = s.com.late + (if Map.has s.com.shadow a then 0 else 1)) ∧
      (d.wc = 0 → ∃ t, exec (.registerWrite addr value 0xF) s = .next t ∧ t = { s with regs := t.regs } ∧
        (∀ i, i < 32 → (reg t a).testBit i = ((reg s a).testBit i && !(d.w1c.testBit i && value.getLsbD i))) ∧
        ∀ b, b ≠ a → reg t b = reg s b))

/-- R39, R40: writes to a command page land while it is not frozen, and are discarded and counted while it is; SUBMIT_PAGE puts
the page among those that the next close freezes. The model's choices in it: assumptions 27 and 42. -/
def Obligations.CommandPages : Prop :=
  ∀ (s : State) (page : Fin 64) (offset : BitVec 16) (d : List (Byte × Bool)), s.pwr.phase = .run → Canonical s →
    let a := 0x400000 + page.val * 0x10000 + offset.toNat
    (offset.toNat + d.length ≤ 0x10000 → ¬ (s.com.checking = true ∧ page.val ∈ s.com.pages) →
      ∃ t, exec (.commandPageWrite page offset d) s = .next t ∧ t = { s with pages := t.pages } ∧
        ∀ x, Mem.get 0 t.pages x = if a ≤ x ∧ x < a + d.length then
          (match d[x - a]? with | some (b, true) => b | _ => Mem.get 0 s.pages x) else Mem.get 0 s.pages x) ∧
    (offset.toNat + d.length ≤ 0x10000 → 0 < d.length → s.com.checking = true → page.val ∈ s.com.pages →
      exec (.commandPageWrite page offset d) s =
        .next (event { s with com := { s.com with locked := s.com.locked + 1 } } Reg.WHS_IRQ_STATUS 5)) ∧
    (s.com.checking = false → ∃ t, exec (.submitPage page) s = .next t ∧
      t = { s with com := { s.com with submit := t.com.submit } } ∧
      ∀ p, p ∈ t.com.submit ↔ p = page.val ∨ p ∈ s.com.submit)

/-- R59, R108, R406, R455, R534: reading the low half of a pair latches the high half, so the two reads give one value.
The model's choices in it: assumptions 7 and 43. -/
def Obligations.LatchedReads : Prop :=
  ∀ (s : State), s.pwr.phase = .run →
    let pair (i : Instr) (hi : Nat) (v : Nat) := ∃ t, exec i s = .next t ∧ t.regs = s.regs ∧ t.mem.bytes = s.mem.bytes ∧
      readReg t hi * 2 ^ 32 + ofLE t.hpt.out = v
    pair .whsCountLoRead Reg.WHS_COUNT_HI (tickNow s % 2 ^ 48) ∧
    pair .whsTsLoRead Reg.WHS_TS_HI (whistleTs s) ∧
    pair .camPpsTsLoRead Reg.CAM_PPS_TS_HI (reg s Reg.CAM_PPS_TS_HI * 2 ^ 32 + reg s Reg.CAM_PPS_TS_LO) ∧
    pair .memErrAddrLoRead Reg.MEM_ERR_ADDR_HI (reg s Reg.MEM_ERR_ADDR_HI * 2 ^ 32 + reg s Reg.MEM_ERR_ADDR_LO) ∧
    (∃ t, exec .memErrAddrLoRead s = .next t ∧ readReg t Reg.MEM_ERR_INFO = reg s Reg.MEM_ERR_INFO) ∧
    pair .lysSyncOffsetLoRead Reg.LYS_SYNC_OFFSET_HI s.lys.offset ∧
    ∀ n : Fin 64, pair (.pmcCntLoRead n) (Reg.PMC_CNT_HI n.val) (Map.getD s.pmc.count n.val 0)

/-- R418, R419: mode registers hold what MRW writes in the copy of the written set point; MR4 to MR8 are the port's own; the
training commands answer as the table of R419 says, and none of them disturbs anything else.
The model's choices in it: assumptions 15 and 43. -/
def Obligations.ModeRegisters : Prop :=
  ∀ (s : State) (n op : Byte) (data : BitVec 256) (sample : CbtSample) (ck : Bool) (count : BitVec 16), portAccepts s = true →
    (modeDefined n.toNat = true → ¬ (4 ≤ n.toNat ∧ n.toNat ≤ 8) →
      ∃ t, exec (.mrw n op) s = .next t ∧
        (n ≠ 16 → n ≠ 18 → t = { s with hpt := { s.hpt with mr := t.hpt.mr } }) ∧
        (n = 16 → t = { s with hpt := { s.hpt with mr := t.hpt.mr, inUse := t.hpt.inUse, fspWr := op.toNat % 4,
                                                   fspOp := op.toNat / 4 % 4, cbt := decide (op.toNat / 16 % 4 ≠ 0) } } ∧
          (s.hpt.fspOp = op.toNat / 4 % 4 → t.hpt.inUse = s.hpt.inUse)) ∧
        (n = 18 → t = { s with hpt := { s.hpt with mr := t.hpt.mr, levelling := op.getLsbD 6 } }) ∧
        Map.getD t.hpt.mr (modeKey s n.toNat) 0 = op.toNat ∧
        (n ≠ 16 → mrrValue t n.toNat = if n = 26 then setBits op.toNat 5 2 Config.dcmBalanced.toNat else op.toNat) ∧
        ∀ k, k ≠ modeKey s n.toNat → Map.get t.hpt.mr k = Map.get s.hpt.mr k) ∧
    (modeDefined n.toNat = false ∨ (4 ≤ n.toNat ∧ n.toNat ≤ 8) → exec (.mrw n op) s = .next s) ∧
    (∃ t, exec (.mrr n) s = .next t ∧ t = { s with hpt := { s.hpt with out := t.hpt.out } } ∧
      (n = 5 → t.hpt.out = [0x9A]) ∧ (n = 7 → t.hpt.out = [0]) ∧
      (n = 6 → t.hpt.out = [BitVec.ofNat 8 (fld s Reg.GEN_ID 23 20)]) ∧ (modeDefined n.toNat = false → t.hpt.out = [0])) ∧
    (∃ t, exec .rdc s = .next t ∧ t = { s with hpt := { s.hpt with out := t.hpt.out, dq := driven s t.hpt.out } } ∧
      t.hpt.out.length = 32 ∧
      ∀ b, b < 8 → t.hpt.out[2 * b]? = some
        ((if (modeReg s 33 33).testBit b then 0xFF else 0) ^^^ BitVec.ofNat 8 (modeReg s 31 31))) ∧
    (∃ t, exec (.wff data) s = .next t ∧ t = { s with hpt := { s.hpt with fifo := t.hpt.fifo } } ∧
      t.hpt.fifo.getLast? = some (leBytes 32 data.toNat) ∧ t.hpt.fifo.length ≤ 8) ∧
    (∃ t, exec .rff s = .next t ∧
      t = { s with hpt := { s.hpt with fifo := t.hpt.fifo, out := t.hpt.out, dq := driven s t.hpt.out } } ∧
      (s.hpt.fifo = [] → t.hpt.out = List.replicate 32 0 ∧ t.hpt.fifo = []) ∧
      ∀ b r, s.hpt.fifo = b :: r → t.hpt.out = b ∧ t.hpt.fifo = r) ∧
    exec .mpcZq s = .next s ∧
    (s.hpt.cbt = true → exec (.commandBusTraining sample) s =
      .next { s with hpt := { s.hpt with dq := [(sample.ca.setWidth 8, false)], dq7 := sample.dq7 } }) ∧
    (s.hpt.cbt = false → exec (.commandBusTraining sample) s = .next s) ∧
    (s.hpt.levelling = true →
      exec (.wck2ckLevelling ck) s = .next { s with hpt := { s.hpt with dq := [(if ck then 1 else 0, false)] } }) ∧
    (s.hpt.levelling = false → exec (.wck2ckLevelling ck) s = .next s) ∧
    ∃ t, exec (.wck2dqOscillator count) s = .next t ∧ t = { s with hpt := { s.hpt with mr := t.hpt.mr } } ∧
      mrrValue t 35 + 256 * mrrValue t 36 = count.toNat

/-- R420, R421, R422, R430: PRE closes rows; refresh commands count and do nothing else; SRE, for self-refresh, power-down or deep sleep,
empties the row buffers but for a fill in progress, and the port accepts commands again its exit time after SRX, 220 ns from self-refresh;
HOST_RESET_N resets the port alone and is reported. The model's choices in it: assumption 158. -/
def Obligations.PortStates : Prop :=
  ∀ (s : State) (bank : Fin 16), s.hpt.banks.Pairwise (fun x y => x.1 < y.1) →
    (portAccepts s = true →
      exec (.pre bank true) s = .next { s with hpt := { s.hpt with banks := [] } } ∧
      (∃ t, exec (.pre bank false) s = .next t ∧ t = { s with hpt := { s.hpt with banks := t.hpt.banks } } ∧
        ∀ k, Map.get t.hpt.banks k = if k = bank.val then none else Map.get s.hpt.banks k) ∧
      (∃ t, exec .refreshCommand s = .next t ∧ t = { s with regs := t.regs } ∧
        reg t Reg.HPT_REFRESH = (reg s Reg.HPT_REFRESH + 1) % 2 ^ 32 ∧ ∀ r, r ≠ Reg.HPT_REFRESH → reg t r = reg s r) ∧
      ∃ t, exec .sre s = .next t ∧ portAccepts t = false ∧ t.hpt.sleepKind < 3 ∧
        t = { s with hpt := { s.hpt with asleep := true, sleepKind := t.hpt.sleepKind, banks := t.hpt.banks }, free := s.free + 1 } ∧
        ∀ k, Map.get t.hpt.banks k = (Map.get s.hpt.banks k).filter (fun r => r.aperture && !r.filled && !r.stale)) ∧
    (s.hpt.asleep = true → s.hpt.resetLow = false → ∃ t, exec .srx s = .next t ∧
      t = { s with hpt := { s.hpt with asleep := false, acceptFrom := t.hpt.acceptFrom } } ∧
      (s.hpt.sleepKind = 0 → t.hpt.acceptFrom = s.clk.now + 220 * tuNs) ∧
      ∀ u : State, u.hpt = t.hpt → (portAccepts u = true ↔ t.hpt.acceptFrom ≤ u.clk.now)) ∧
    (∃ t, exec .hostResetNLow s = .next t ∧ t = { s with hpt := t.hpt, regs := t.regs, log := t.log } ∧
      t.hpt.banks = [] ∧ t.hpt.mr = [] ∧ t.hpt.fifo = [] ∧ t.hpt.cbt = false ∧ portAccepts t = false ∧
      (reg t Reg.HPT_STATUS).testBit 5 = true ∧ ∀ r, r ≠ Reg.HPT_STATUS → r ≠ Reg.LOG_EVENTS → reg t r = reg s r) ∧
    exec .hostPortReady s = .next { s with hpt := { s.hpt with resetLow := false } }

/-! ## The queue, reset, the window and the commit -/

/-- The model's step: the front command is executed on the state with the rest of the queue; with no command waiting only time
passes, in which the counters count and the view head sends (assumptions 1 and 88, the model's choice). -/
def Obligations.StepTakesFront : Prop :=
  (∀ (c : Instr) (s : State), step { s with pending := c :: s.pending } = exec c s) ∧
  ∀ s : State, s.pending = [] → ∃ t, step s = .next t ∧ t.clk = { s.clk with now := s.clk.now + tuStep } ∧ TimeOnly s t ∧
    (s.vrs.frame = none → s.vrs.clone = none → CountsOnly { s with clk := t.clk } t)

/-- R50, R301, R536, R544 and the register tables: the machine right after power-on reset. Every register reads the reset value
of its table, no memory is listed, no command waits, and the Whistle generator stands. The model's choices in it: assumptions 6 and 7. -/
def Obligations.ResetState : Prop :=
  Canonical State.reset ∧ State.reset.pending = [] ∧ State.reset.pwr.phase = .reset ∧ State.reset.clk.started = false ∧
  State.reset.com.epoch = 0 ∧ State.reset.trk.slots = [] ∧ State.reset.pmc.count = [] ∧ State.reset.fab.inForce = false ∧
  (∀ a, reg State.reset a = (BitVec.ofNat 32 (resetValue false 0 a)).toNat) ∧
  fld State.reset Reg.LOG_CTRL 0 0 = 0 ∧ fld State.reset Reg.LOG_CTRL 2 1 = 0 ∧ fld State.reset Reg.LOG_CTRL 4 3 = 2 ∧
  reg State.reset Reg.LOG_IRQ_ENABLE = 0 ∧ reg State.reset Reg.SCH_DRAW_SEED = 0x5EED0001 ∧
  step State.reset = .next (idle State.reset)

/-- R33, R34, R37, R39: the close of the window freezes the words written and the pages submitted, LEAD_NS before the next Whistle;
while the part is in reset the generator runs on alone, each Whistle on the first edge-grid step at or after the accumulated
instant, with the host port's bytes of the tick (R431), and it stands until a start has begun it. The model's choices in it: assumptions
3, 29 and 88. -/
def Obligations.WindowAndGenerator : Prop :=
  ∀ s : State,
    (s.pwr.phase = .run → s.clk.started = true → s.com.checking = false →
      ∃ t, exec .windowClose s = .next t ∧
        t.clk = { s.clk with now := max s.clk.now (nextInst s - fld s Reg.WHS_COMMIT 15 0 * tuNs) } ∧
        t.com = { s.com with frozen := s.com.shadow, shadow := [], pages := s.com.submit, submit := [],
                             busyPages := t.com.busyPages, pendAtClose := s.fab.pend, failAtClose := s.fab.failCode,
                             hashAtClose := s.fab.pendHash, planAtClose := s.fab.pendPlan, checking := true, late := 0 } ∧
        (∀ p, p ∈ t.com.busyPages ↔ p ∈ s.com.submit ∧ ∃ r, Map.get s.com.comps p = some r ∧ r.pending ≠ 0) ∧
        TimeOnly { s with com := t.com } t) ∧
    (s.pwr.phase ≠ .run ∨ s.clk.started = false ∨ s.com.checking = true → exec .windowClose s = .next s) ∧
    (s.pwr.phase = .reset → s.clk.started = true → s.clk.corr = 0 →
      ∃ t, exec .whistle s = .next t ∧ t.clk.next = (s.clk.next + 1) % 2 ^ 48 ∧ t.clk.acc = s.clk.acc + period s ∧
        t.clk.inst % tuEdge = 0 ∧ t.clk.acc ≤ t.clk.inst ∧ t.clk.inst < t.clk.acc + tuEdge ∧
        t.clk.now = max s.clk.now t.clk.inst ∧
        t.clk = { s.clk with next := t.clk.next, acc := t.clk.acc, inst := t.clk.inst, now := t.clk.now } ∧
        t.hpt = { s.hpt with readTick := 0, writeTick := 0 } ∧ t.log.tickCodes = [] ∧
        reg t Reg.HPT_READ_BYTES = s.hpt.readTick % 2 ^ 32 ∧ reg t Reg.HPT_WRITE_BYTES = s.hpt.writeTick % 2 ^ 32 ∧
        t = { s with clk := t.clk, regs := t.regs, pmc := t.pmc, log := t.log, vrs := t.vrs, hpt := t.hpt } ∧
        ∀ a, a ∉ timeRegisters → a ≠ Reg.HPT_READ_BYTES → a ≠ Reg.HPT_WRITE_BYTES → reg t a = reg s a) ∧
    (s.clk.started = false → s.pwr.phase ≠ .boot → exec .whistle s = .next s) ∧
    (s.pwr.phase = .run → s.clk.started = true → ∃ t, exec .whistle s = .next t ∧ t.com.late = 0 ∧ t.com.locked = 0 ∧
      t.com.mixed = 0 ∧ t.com.shots = 0)

/-- R10, R42, R45, R49: at a commit of register words alone, each word with no verdict against it is in force with its writable bits
and counted as accepted, each other word keeps its value and has one reject record with its cause, and no other register changes.
The model's choices in it: assumptions 21 and 26. -/
def Obligations.CommitAppliesWords : Prop :=
  ∀ (s : State) (w inst : Nat), s.com.pages = [] → s.com.frozen.Pairwise (fun x y => x.1 < y.1) →
    let x := commitApply s w inst
    let verdicts := wordVerdicts s (withWords s s.com.frozen) (s.com.frozen.map (·.1))
    (∀ a v, Map.get s.com.frozen a = some v → (a, 0) ∈ verdicts → regW x.state a = mergeWord s a v) ∧
    (∀ a, (Map.get s.com.frozen a = none ∨ (a, 0) ∉ verdicts) → regW x.state a = regW s a) ∧
    (∀ r, r ∈ x.rejects ↔ ∃ a v c, Map.get s.com.frozen a = some v ∧ (a, c) ∈ verdicts ∧ c ≠ 0 ∧
      r = { addr := a, cause := c, kind := 0, value := v.toNat, kept := reg s a }) ∧
    x.accepted + x.rejects.length = s.com.frozen.length ∧ x.taken = [] ∧ x.rejPages = [] ∧ x.switched = false ∧
    x.state = { s with regs := x.state.regs, com := { s.com with epochUp := x.state.com.epochUp } } ∧
    (s.com.epochUp = false → x.state.com.epochUp = true →
      ∃ a v, Map.get s.com.frozen a = some v ∧ (a, 0) ∈ verdicts ∧ mergeWord s a v ≠ regW s a)

/-- R110, R301, R330, R331, R334, R379, R536: what acts at once or once: the emergency hold with its key and without it, FAULT_CLR,
ORIGIN_RESET, CLEAR, the counters' clears, and PAUSE with the running job of its context, where no other context has work. The
model's choices in it: assumptions 10, 51, 112, 137 and 150. -/
def Obligations.AtOnceControls : Prop :=
  ∀ s : State,
    let emptied (l : Line) : Line := { l with due := [] }
    let cancelled (l : Line) : Line := { l with due := [], cancelled := true }
    let driven (n : Nat) := chainDriven s (wireLine s) n
    let sent (t : State) :=
      (s.clk.now < s.frs.syncRise →
        t.frs.syncRise = s.frs.syncRise ∧ t.frs.pulseWas = s.frs.pulseWas ∧ t.frs.pulseRise = s.frs.pulseRise) ∧
      (s.frs.syncRise ≤ s.clk.now →
        s.frs.syncRise + 200 * tuNs ≤ t.frs.syncRise ∧ s.clk.now ≤ t.frs.syncRise ∧
        t.frs.syncRise ≤ max (s.clk.now + 100 * tuNs) (s.frs.syncRise + 200 * tuNs) ∧
        (s.frs.wireCode ≠ 0 → t.frs.pulseWas = s.frs.sync ∧ t.frs.pulseRise = s.frs.syncRise))
    (∀ key, key ≠ 0x4E48 → exec (.eholdHold key) s = .next s ∧ exec (.eholdSafe key) s = .next s ∧
      exec (.eholdRelease key) s = .next s) ∧
    (∃ t, exec (.eholdHold 0x4E48) s = .next t ∧ t = { s with frs := t.frs, regs := t.regs, log := t.log } ∧
      t.frs = { s.frs with
        ehold := 1, releasePending := false, wireCode := 1, dat := 0, levels := t.frs.levels, sync := t.frs.sync,
        syncKept := t.frs.syncKept, syncRise := t.frs.syncRise, pulseWas := t.frs.pulseWas, pulseRise := t.frs.pulseRise,
        cur := s.frs.cur.map cancelled, prev := s.frs.prev.map emptied } ∧
      ((∀ l, s.frs.cur = some l → l.outcome ≠ 0 ∨ l.cancelled = true) → t.frs.levels = s.frs.levels) ∧ sent t ∧
      (∀ n, n < 8 → t.frs.sync.testBit n = driven n ∧ (driven n = true → t.frs.syncKept.testBit n = false)) ∧
      (reg t Reg.FRS_EVENTS).testBit 8 = true ∧
      ∀ a, a ≠ Reg.FRS_EVENTS → a ≠ Reg.LOG_EVENTS → reg t a = reg s a) ∧
    (∃ t, exec (.eholdSafe 0x4E48) s = .next t ∧ t = { s with frs := t.frs, regs := t.regs, log := t.log } ∧
      t.frs = { s.frs with
        ehold := 2, releasePending := false, wireCode := 0, dat := 0, levels := 0, pins := 0, sync := t.frs.sync,
        syncKept := t.frs.syncKept, syncRise := t.frs.syncRise, pulseWas := t.frs.pulseWas, pulseRise := t.frs.pulseRise,
        cur := t.frs.cur, prev := t.frs.prev } ∧
      (∀ l, t.frs.cur = some l ∨ t.frs.prev = some l → l.due = []) ∧ sent t ∧
      (∀ n, n < 8 → driven n = true → (t.frs.sync.testBit n || t.frs.syncKept.testBit n) = true) ∧
      (s.frs.pins = 0 → t.frs.cur = s.frs.cur.map cancelled ∧ t.frs.prev = s.frs.prev.map emptied) ∧
      (reg t Reg.FRS_EVENTS).testBit 8 = true) ∧
    (∃ t, exec (.eholdRelease 0x4E48) s = .next t ∧ t = { s with frs := t.frs, regs := t.regs, log := t.log } ∧
      t.frs = { s.frs with releasePending := s.frs.ehold != 0 }) ∧
    (∃ t, exec .faultClr s = .next t ∧
      t = { s with frs := { s.frs with faultSafe := false, faultDue := false }, regs := t.regs } ∧
      fld t Reg.FRS_STATUS 2 2 = 0 ∧ ∀ a, a ≠ Reg.FRS_STATUS → reg t a = reg s a) ∧
    exec .originReset s = .next { s with cam := { s.cam with originDue := true } } ∧
    (∃ t, exec .clearTracks s = .next t ∧ t = { s with trk := t.trk, regs := t.regs } ∧ t.trk.slots = [] ∧
      reg t Reg.TRK_OCCUPANCY = 0 ∧ ∀ a, a ≠ Reg.TRK_OCCUPANCY → reg t a = reg s a) ∧
    (s.pmc.count.Pairwise (fun x y => x.1 < y.1) → ∀ n : Fin 64, ∃ t, exec (.clrCounter n) s = .next t ∧
      t = { s with pmc := { s.pmc with count := t.pmc.count } } ∧
      ∀ k, Map.getD t.pmc.count k 0 = if k = n.val then 0 else Map.getD s.pmc.count k 0) ∧
    exec .clearAll s = .next { s with pmc := { s.pmc with count := [] } } ∧
    (∀ c : Fin 32, Map.get s.sch.ctxs c.val = none → exec (.pause c) s = .next s) ∧
    ∀ (c : Fin 32) (x : Ctx) (h : Nat) (r : HuddleRun) (j : Job), Map.get s.sch.ctxs c.val = some x → s.sch.hud = [(h, r)] →
      r.group.head? = some j → j.ctx = c.val → OnlyWorkOf s h c.val → ∃ t, exec (.pause c) s = .next t ∧
        fld t (Reg.SCH_CTX_CTRL c.val) 0 0 = 1 ∧ (hudOf t h).group = [] ∧
        ∃ y, Map.get t.sch.ctxs c.val = some y ∧ y.preempts = (x.preempts + 1) % 2 ^ 32 ∧
          y.preempted.map (·.huddle) = r.group.map (·.huddle)

/-- R545: a write of LOG_READ takes force at once; a value from the oldest held entry to LOG_COUNT is kept, and any other is replaced
by the end of that range that the rule names. -/
def Obligations.LogReadWriteTakesForce : Prop :=
  ∀ (s : State) (v : Word), s.log.count < 2 ^ 32 → s.log.held ≤ 4096 →
    let c := BitVec.ofNat 32 s.log.count
    let o := c - BitVec.ofNat 32 s.log.held
    ∃ t, exec (.logReadWrite v) s = .next t ∧ t = { s with regs := t.regs } ∧ (∀ a, a ≠ Reg.LOG_READ → reg t a = reg s a) ∧
      regW t Reg.LOG_READ = if v - o ≤ c - o then v else if v - c ≤ o - v then c else o

/-- R525: an event below LOG_CTRL.MIN_SEV is not written and is counted in LOG_FILTERED; START and LOST (codes 1 and 2) pass; an event
that is not filtered enters the queue while it has room. -/
def Obligations.LogFilterCounts : Prop :=
  ∀ (s : State) (code block sev : Nat) (args : List Byte) (two : Bool),
    (sev < min 2 (fld s Reg.LOG_CTRL 2 1) → code ≠ 1 → code ≠ 2 →
      logEvent s code block sev args two =
        { s with log := { s.log with filtered := min (s.log.filtered + 1) 0xFFFFFFFF } }) ∧
    ((min 2 (fld s Reg.LOG_CTRL 2 1) ≤ sev ∨ code = 1 ∨ code = 2) →
      sumN (s.log.queue.map LogEvent.size) + (if two then 2 else 1) ≤ 64 →
      ∃ q, logEvent s code block sev args two = { s with log := { s.log with queue := q } } ∧
        q.length = s.log.queue.length + 1 ∧
        ∀ e, e ∈ q ↔ e ∈ s.log.queue ∨
          e = { ts := tsNow s, code := code, block := block, sev := sev, args := args, two := two })

/-- R519, R523, R524, R540, R542: the log writer puts the oldest queued event whole into the next slot of the ring and counts it;
the record of a tagged instruction that is complete or discarded goes to its slot with its SEQ, LCN, program counter and word, is counted
and frees the scout; with nothing queued, tagged or done nothing happens. The model's choices in it: assumptions 110 and 162. -/
def Obligations.LogAndScoutRecords : Prop :=
  ∀ s : State, Canonical s → Mem.wf 0 s.log.ring = true →
    (s.log.queue = [] → exec .logWrite s = .next s) ∧
    (∀ e rest, s.log.queue = e :: rest → e.cont = false → e.two = false → s.log.lost = 0 → e.args.length ≤ 6 →
      fld s Reg.LOG_CTRL 0 0 = 0 →
      ∃ t, exec .logWrite s = .next t ∧ t = { s with log := t.log, regs := t.regs, pmc := t.pmc } ∧ t.log.queue = rest ∧
        t.log.count = (s.log.count + 1) % 2 ^ 32 ∧ t.log.held = min 4096 (s.log.held + 1) ∧
        (∀ x, x < 65536 → ¬ (s.log.count % 4096 * 16 ≤ x ∧ x < s.log.count % 4096 * 16 + 16) →
          Mem.get 0 t.log.ring x = Mem.get 0 s.log.ring x) ∧
        Mem.read 0 t.log.ring (s.log.count % 4096 * 16) 16 = leBytes 2 s.log.count ++ [BitVec.ofNat 8 e.code] ++
          [BitVec.ofNat 8 (e.block % 32 + e.sev % 4 * 32)] ++ leBytes 6 e.ts ++ e.args ++
          List.replicate (6 - e.args.length) 0 ∧
        (e.sev = 2 → (reg t Reg.LOG_EVENTS).testBit 1 = true)) ∧
    ∀ rec : ScoutFacts,
      (s.pmc.inFlight = none → exec (.scoutRecord rec) s = .next s) ∧
      (∀ g, s.pmc.inFlight = some g → g.phase ≠ .complete → g.phase ≠ .discarded → exec (.scoutRecord rec) s = .next s) ∧
      ∀ g, s.pmc.inFlight = some g → (g.phase = .complete ∨ g.phase = .discarded) → ∃ t, exec (.scoutRecord rec) s = .next t ∧
        t = { s with status := t.status, regs := t.regs, pmc := { s.pmc with inFlight := none } } ∧
        reg t Reg.PMC_SCOUT_COUNT = (reg s Reg.PMC_SCOUT_COUNT + 1) % 2 ^ 32 ∧
        Mem.read 0 t.status (0x961000 + reg s Reg.PMC_SCOUT_COUNT % 256 * 32) 12 =
          leBytes 4 (reg s Reg.PMC_SCOUT_COUNT) ++ leBytes 2 g.lcn ++ leBytes 2 g.pc ++ leBytes 4 g.word.toNat ∧
        (g.phase = .discarded → Mem.read 0 t.status (0x961000 + reg s Reg.PMC_SCOUT_COUNT % 256 * 32 + 26) 2 = [0, 0]) ∧
        ∀ x, ¬ (0x961000 + reg s Reg.PMC_SCOUT_COUNT % 256 * 32 ≤ x ∧ x < 0x961000 + reg s Reg.PMC_SCOUT_COUNT % 256 * 32 + 32) →
          Mem.get 0 t.status x = Mem.get 0 s.status x

/-! ## Commands of the command pages -/

/-- R401, R402, R405, R425, R429: the verdict on COPY_IN and COPY_OUT (RANGE for a range outside or not aligned and for a full queue, EMPTY
for size 0, PENDING with the copy queued), and NOP's OK. When the oldest copy ends, its command is reported, OK or MEM_ERROR, and the
next copy is at the head; the lines that no granted beat has moved before (R402) move then between the aperture as it is lent and device
memory, and no other byte changes. The model's choices in it: assumptions 9, 45 and 154. -/
def Obligations.CopyCommands : Prop :=
  (∀ (s : State) (page : Fin 64) (entry : Fin 55) (offset size : Word) (addr : BitVec 64),
     let r : CmdRef := ⟨page.val, entry.val⟩
     let verdict (i : Instr) (into : Bool) :=
       let bad := offset.toNat % 64 ≠ 0 ∨ size.toNat % 64 ≠ 0 ∨ addr.toNat % 64 ≠ 0 ∨ lentSize s < offset.toNat + size.toNat
       let outside := 2 ^ 40 ≤ addr.toNat ∨ rangeOk s addr.toNat size.toNat into = false
       (bad → Settles i s r codeREJECTED causeRANGE s) ∧
       (¬ bad → size = 0 → Settles i s r codeEMPTY 0 s) ∧
       (¬ bad → size ≠ 0 → outside ∨ 256 ≤ s.mem.copies.length → Settles i s r codeREJECTED causeRANGE s) ∧
       (¬ bad → size ≠ 0 → ¬ outside → s.mem.copies.length < 256 → Settles i s r codePENDING 0
         { s with mem := { s.mem with copies := s.mem.copies ++
           [{ ref := r, toDevice := into, offset := offset.toNat, size := size.toNat, addr := addr.toNat }] } })
     verdict (.copyIn page entry offset size addr) true ∧ verdict (.copyOut page entry offset size addr) false ∧
     Settles (.nopCommand page entry) s r codeOK 0 s) ∧
  (∀ s : State, s.mem.copies = [] → exec .copyEnd s = .next s) ∧
  (∀ (s : State) (c : Copy) (rest : List Copy), s.mem.copies = c :: rest →
     ∃ t, exec .copyEnd s = .next t ∧ t.mem.copies = rest ∧
       t.com = { s.com with ended := s.com.ended ++ [(c.ref,
         if c.failed || (copyRest s c).any (fun p => s.mem.poison.contains p.1) then codeMEMERROR else codeOK)] } ∧
       (Canonical s → s.mem.poison = [] → c.offset % 64 = 0 → c.size % 64 = 0 → c.addr % 64 = 0 → c.offset + c.size ≤ lentSize s →
         rangeOk s c.addr c.size c.toDevice = true → (∀ p ∈ copyRest s c, addrFenced s p.2 64 = false) →
         t = { s with mem := { s.mem with bytes := t.mem.bytes, copies := rest }, com := t.com, regs := t.regs } ∧
         (c.failed = false → t.regs = s.regs) ∧ (c.failed = true → (reg t Reg.MEM_EVENTS).testBit 4 = true) ∧
         (c.toDevice = true → ∀ x, devByte t x =
           if c.addr ≤ x ∧ x < c.addr + c.size ∧ x / 64 * 64 ∉ c.moved then
             (match apertureAddr s (c.offset + (x - c.addr)) with | some a => devByte s a | none => devByte s x)
           else devByte s x) ∧
         (c.toDevice = false →
           (∀ i a, i < c.size → apertureAddr s (c.offset + i) = some a →
             devByte t a = if a / 64 * 64 ∈ c.moved then devByte s a else devByte s (c.addr + i)) ∧
           ∀ x, (∀ i, i < c.size → apertureAddr s (c.offset + i) ≠ some x) → devByte t x = devByte s x)))

/-- R366, R369, R371–R373, R387: the verdicts on CTX_JOIN and CTX_LEAVE, and their effect: a join takes the lowest free banks of the
pool and shows its record, a leave takes away the context's residence, its entries and its requests; either begins a mode epoch.
The model's choices in it: assumption 9. -/
def Obligations.ContextCommands : Prop :=
  ∀ (s : State) (page : Fin 64) (entry : Fin 55), s.com.epochUp = false → Map.get s.sch.ctxs 0x100 = none →
    s.sch.ctxs.Pairwise (fun x y => x.1 < y.1) →
    let r : CmdRef := ⟨page.val, entry.val⟩
    (∀ id : BitVec 8, Map.get s.sch.ctxs id.toNat = none →
      Settles (.ctxLeave page entry id) s r codeREJECTED causeRANGE s) ∧
    (∀ (id : BitVec 8) (x : Ctx), Map.get s.sch.ctxs id.toNat = some x →
      (∀ h, ∀ j ∈ (hudOf s h).group, j.ctx ≠ id.toNat) → s.vw.pic = none → dvOf s = s.vw.dv →
      ∃ t, exec (.ctxLeave page entry id) s = .next t ∧ Map.get t.sch.ctxs id.toNat = none ∧
        t.com.epoch = (s.com.epoch + 1) % 2 ^ 32 ∧ t.com.ended = s.com.ended ++ [(r, codeOK)] ∧
        ((hudOf s x.record.huddle).taken.map (·.1) ≠ some id.toNat →
          t = { s with sch := { s.sch with ctxs := t.sch.ctxs, hud := t.sch.hud }, com := t.com,
                       fab := { s.fab with holdAge := s.fab.holdAge + 1 }, lys := { s.lys with rx := t.lys.rx } } ∧
          t.lys.rx = s.lys.rx.filter (fun e => e.ctx != id.toNat) ∧
          (∀ k, Map.get t.sch.ctxs k = if k = id.toNat then none else Map.get s.sch.ctxs k) ∧
          ∀ h, ((hudOf t h).taken.map (·.1) ≠ some id.toNat) ∧ (∀ q ∈ (hudOf t h).rerun, q.ctx ≠ id.toNat) ∧
            ((ownerOf s h).map (·.1) = some id.toNat → (hudOf t h).list.left = 0))) ∧
    ∀ record : BitVec 256,
      let b := leBytes 32 record.toNat
      let c := parseCtx b
      let planBad := ctxPlanBad s.fab.plan c (s.sch.ctxs.map (·.2.record))
      let free := poolFree s.fab.plan s.sch.ctxs
      let i : Instr := .ctxJoin page entry record
      (ctxFormatBad s.fab.plan b = true → Settles i s r codeREJECTED causeFORMAT s) ∧
      (ctxFormatBad s.fab.plan b = false → planBad = true → Settles i s r codeREJECTED causePLAN s) ∧
      (ctxFormatBad s.fab.plan b = false → planBad = false → Map.get s.sch.ctxs c.id ≠ none →
        Settles i s r codeREJECTED causeRANGE s) ∧
      (ctxFormatBad s.fab.plan b = false → planBad = false → Map.get s.sch.ctxs c.id = none → free.length < c.share →
        Settles i s r codeREJECTED causeNOSHARE (event s Reg.SCH_EVENTS 0)) ∧
      (ctxFormatBad s.fab.plan b = false → planBad = false → Map.get s.sch.ctxs c.id = none → c.share ≤ free.length →
        s.vw.pic = none → dvOf s = s.vw.dv → ∃ t x, exec i s = .next t ∧ Map.get t.sch.ctxs c.id = some x ∧ x.record = c ∧ x.banks = free.take c.share ∧
          x.epoch = t.com.epoch % 65536 ∧ (∀ k, k ≠ c.id → Map.get t.sch.ctxs k = Map.get s.sch.ctxs k) ∧
          t.com.epoch = (s.com.epoch + 1) % 2 ^ 32 ∧ t.com.ended = s.com.ended ++ [(r, codeOK)] ∧
          reg t (Reg.SCH_CTX_CTRL c.id) = c.cls * 2 + c.tickets * 256 ∧ reg t (Reg.SCH_CTX_JOB_COUNT c.id) = 0 ∧
          t = { s with sch := { s.sch with ctxs := t.sch.ctxs }, com := t.com, regs := t.regs,
                       fab := { s.fab with holdAge := s.fab.holdAge + 1 } })

/-- R80–R83: PLAN_LOAD, PLAN_DISCARD and the end of a verification move the PENDING state and its slot; a load or a discard abandons
a verification in progress; PLAN_SWITCH is rejected with its cause, or puts the pending plan in force, empties PENDING and keeps the
track table. The model's choices in it: assumptions 9 and 46. -/
def Obligations.PlanCommands : Prop :=
  ∀ (s : State) (page : Fin 64) (entry : Fin 55),
    let r : CmdRef := ⟨page.val, entry.val⟩
    let u : State := match s.fab.loading with
      | none => s
      | some q => { s with com := { s.com with ended := s.com.ended ++ [(q, codeABANDONED)] } }
    (∀ offset size : Word,
      let bad := offset.toNat % 256 ≠ 0 ∨ lentSize s < offset.toNat + size.toNat ∨ 33554432 < size.toNat
      (bad → Settles (.planLoad page entry offset size) s r codeREJECTED causeRANGE s) ∧
      (¬ bad → size = 0 → Settles (.planLoad page entry offset size) s r codeEMPTY 0 s) ∧
      (¬ bad → size ≠ 0 → Settles (.planLoad page entry offset size) s r codePENDING 0
        { u with fab := { s.fab with pend := 1, pendHash := [], pendPlan := none, loading := some r,
                                     loadOffset := offset.toNat, loadSize := size.toNat } })) ∧
    Settles (.planDiscard page entry) s r codeOK 0
      { u with fab := { s.fab with pend := 0, pendHash := [], pendPlan := none, loading := none } } ∧
    (s.fab.loading = none → exec .planVerificationEnd s = .next s) ∧
    (∀ q, s.fab.loading = some q → ∃ t, exec .planVerificationEnd s = .next t ∧ t.fab.loading = none ∧ t.fab.plan = s.fab.plan) ∧
    (∀ q, s.fab.loading = some q → Canonical s → s.mem.poison = [] →
      let b := apertureRead s s.fab.loadOffset s.fab.loadSize
      (planVerdict s b s.fab.loadSize = none → ∃ t, exec .planVerificationEnd s = .next t ∧
        t.fab = { s.fab with loading := none, pend := 2, pendHash := (parsePlan b).hash, pendPlan := some (parsePlan b) } ∧
        t = { s with fab := t.fab, mem := t.mem, com := { s.com with ended := s.com.ended ++ [(q, codeOK)] } } ∧
        ∀ x, devByte t x = if pendingSlot ≤ x ∧ x < pendingSlot + b.length then b.getD (x - pendingSlot) 0 else devByte s x) ∧
      ∀ c, planVerdict s b s.fab.loadSize = some c → ∃ t, exec .planVerificationEnd s = .next t ∧
        t.fab.pend = 3 ∧ t.fab.failCode = c ∧ t.fab.pendPlan = none ∧ t.fab.plan = s.fab.plan ∧ t.regs = s.regs ∧
        t.com = { s.com with ended := s.com.ended ++ [(q, codeFAILED)] }) ∧
    ∀ hash8 : BitVec 64,
      (∀ c, switchCause s (pendNow s) hash8.toNat = some c → Settles (.planSwitch page entry hash8) s r codeREJECTED c s) ∧
      (switchCause s (pendNow s) hash8.toNat = none → ∀ p, s.fab.pendPlan = some p → p.contexts = [] →
        ∃ t, exec (.planSwitch page entry hash8) s = .next t ∧ t.fab.plan = p ∧ t.fab.inForce = true ∧ t.fab.pend = 0 ∧
          t.fab.pendPlan = none ∧ t.fab.switches = (s.fab.switches + 1) % 65536 ∧ t.sch.ctxs = [] ∧
          t.com.epoch = (s.com.epoch + 1) % 2 ^ 32 ∧ t.trk.slots = s.trk.slots ∧ t.clk = s.clk)

/-- R487–R493, R502: the SEC commands' verdicts at the commit, the queue they enter, an EMPTY one as the latest that ended; what the end of a
measurement, of a boot-record clear and of an attestation leaves, with an identity and without one; WARM_RESET needs its key and sets its
instant, and its reset then asserts. The model's choices in it: assumptions 9, 40, 101 and 155. -/
def Obligations.SecurityCommands : Prop :=
  ∀ (s : State) (page : Fin 64) (entry : Fin 55), (∀ c, s.sec.queue.head? = some c → c.data.isSome = true) →
    let r : CmdRef := ⟨page.val, entry.val⟩
    let queued (i : Instr) (op : Nat) (bytes d : List Byte) :=
      (16 ≤ s.sec.queue.length → Settles i s r codeREJECTED causeRANGE s) ∧
      (s.sec.queue.length < 16 → ∃ t, exec i s = .next t ∧ t.sec.queue.map (·.ref) = s.sec.queue.map (·.ref) ++ [r]) ∧
      (s.sec.queue.length < 16 → s.mem.poison = [] → Settles i s r codePENDING 0 { s with sec := { s.sec with queue := s.sec.queue ++
        [{ ref := r, opcode := op, bytes := bytes, data := if s.sec.queue.isEmpty then some d else none }] } })
    (∀ offset size : Word,
      let i : Instr := .keyEnrol page entry offset size
      let bad := lentSize s < offset.toNat + size.toNat ∨ offset.toNat % 64 ≠ 0 ∨ (size ≠ 0 ∧ size ≠ 360)
      (bad → Settles i s r codeREJECTED causeRANGE s) ∧
      (¬ bad → size = 0 → Settles i s r codeEMPTY 0 (poke s Reg.SEC_LAST 0x1001)) ∧
      (¬ bad → size ≠ 0 → queued i 0x1001 (leBytes 4 offset.toNat ++ leBytes 4 size.toNat)
        (apertureRead s offset.toNat size.toNat))) ∧
    (∀ (target : Byte) (offset size : Word),
      let i : Instr := .flashUpdate page entry target offset size
      let bad := lentSize s < offset.toNat + size.toNat ∨ offset.toNat % 256 ≠ 0 ∨ 3 < target.toNat ∨
        slotSize target.toNat < size.toNat ∨ size.toNat % 16 ≠ 0
      let inUse := target.toNat < 2 ∧ target.toNat = s.sec.fwSlot
      (bad → Settles i s r codeREJECTED causeRANGE s) ∧ (¬ bad → inUse → Settles i s r codeREJECTED causePLAN s) ∧
      (¬ bad → ¬ inUse → size = 0 → Settles i s r codeEMPTY 0 (poke s Reg.SEC_LAST 0x1002)) ∧
      (¬ bad → ¬ inUse → size ≠ 0 → queued i 0x1002 ([target, 0, 0, 0] ++ leBytes 4 offset.toNat ++ leBytes 4 size.toNat)
        (apertureRead s offset.toNat size.toNat))) ∧
    (∀ (nonce : BitVec 256) (offset : Word),
      let i : Instr := .attest page entry nonce offset
      let bad := lentSize s < offset.toNat + 480 ∨ offset.toNat % 64 ≠ 0
      (bad → Settles i s r codeREJECTED causeRANGE s) ∧
      (¬ bad → queued i 0x1003 (leBytes 32 nonce.toNat ++ leBytes 4 offset.toNat)
        (attestReport s (leBytes 32 nonce.toNat)))) ∧
    (∀ digest : BitVec 384, queued (.measureExtend page entry digest) 0x1004 (leBytes 48 digest.toNat) []) ∧
    queued (.bootClear page entry) 0x1005 [] [] ∧
    (∀ (c : SecCmd) (rest : List SecCmd) (ok : Bool), s.sec.queue = c :: rest →
      (c.opcode = 0x1004 → ∃ t, exec (.secCommandEnd ok) s = .next t ∧ t.sec.queue.map (·.ref) = rest.map (·.ref) ∧
        t.sec.meas = setNth s.sec.meas 3 (sha384 ((s.sec.meas[3]?).getD [] ++ slice c.bytes 0 48)) ∧
        reg t Reg.SEC_LAST = 0x1004 ∧ t.com.ended = s.com.ended ++ [(c.ref, codeOK)]) ∧
      (c.opcode = 0x1005 → ∃ t, exec (.secCommandEnd ok) s = .next t ∧ t.sec.queue.map (·.ref) = rest.map (·.ref) ∧
        t.sec.failed = 0 ∧ t.sec.reason = 0 ∧ t.log.persist = 0xFFFF0000 ∧ t.com.ended = s.com.ended ++ [(c.ref, codeOK)]) ∧
      (c.opcode = 0x1003 → hasIdentity s = true → ∃ t, exec (.secCommandEnd ok) s = .next t ∧
        t.sec.queue.map (·.ref) = rest.map (·.ref) ∧ reg t Reg.SEC_LAST = 0x1003 ∧ (reg t Reg.SEC_EVENTS).testBit 3 = true ∧
        t.com.ended = s.com.ended ++ [(c.ref, codeOK)]) ∧
      (c.opcode = 0x1003 → hasIdentity s = false → ∃ t, exec (.secCommandEnd ok) s = .next t ∧ t.mem = s.mem ∧
        reg t Reg.SEC_LAST = 0x431003 ∧ (reg t Reg.SEC_EVENTS).testBit 2 = true ∧
        t.com.ended = s.com.ended ++ [(c.ref, codeFAILED)])) ∧
    (∀ key : Word, key ≠ 0x574D → Settles (.warmReset page entry key) s r codeREJECTED causeRANGE s) ∧
    exec (.warmReset page entry 0x574D) s = .next { s with pwr := { s.pwr with
      warmAt := some (match s.pwr.warmAt with
        | some t => min t (s.clk.inst + 1000000 * tuNs)
        | none => s.clk.inst + 1000000 * tuNs) } } ∧
    ∀ d, s.pwr.warmAt = some d → s.pwr.phase = .run → ∃ t, exec .warmResetDue s = .next t ∧ t.pwr.phase = .reset ∧
      t.pwr.cause = 5 ∧ t.pwr.causeAt = max s.clk.now d ∧ t.com.epoch = s.com.epoch ∧ t.clk.next = s.clk.next ∧
      t.regs = [] ∧ t.pages = s.pages ∧ t.pending = s.pending ∧ t.trk.slots = []

/-! ## Power and resets -/

/-- R8, R301, R393, R423, R472, R498–R504: POR_N, a brown-out and a low core supply assert a power-on reset and say why; WARM_RST_N asserts a
warm reset, which keeps the counters, the epoch, the key register, the host port's training and the memory outside Court; the straps are
sampled as POR_N rises; the start follows 1 ms after a warm reset's cause, or once the causes of a power-on reset are over; a conversion
enters the mean of the latest 16. The model's choices in it: assumptions 2, 36, 37, 38, 102 and 161. -/
def Obligations.PowerAndResets : Prop :=
  ∀ s : State,
    (s.pwr.phase = .run →
      let por (i : Instr) (cause fell pg : Nat) (porN : Bool) := ∃ t, exec i s = .next t ∧
        t = { State.reset with gradeX := s.gradeX, free := t.free, pending := s.pending, log := t.log, sec := t.sec, pwr := t.pwr } ∧
        t.pwr = { State.reset.pwr with cause := cause, pgFell := fell, pg := pg, porN := porN, straps := s.pwr.straps } ∧
        t.sec = { State.reset.sec with flash := t.sec.flash, flashOn := s.sec.flashOn } ∧
        (s.sec.queue = [] → t.sec.flash = s.sec.flash ∧ t.free = s.free) ∧ t.log.queue = []
      por .porNLow 0 0 s.pwr.pg false ∧ por .vddCoreLow 2 0 s.pwr.pg s.pwr.porN ∧
      (∀ fell : BitVec 6, fell ≠ 0 → por (.brownOut fell) 1 fell.toNat (s.pwr.pg - (s.pwr.pg &&& fell.toNat)) s.pwr.porN) ∧
      ∃ t, exec .warmRstN s = .next t ∧ t.pwr.phase = .reset ∧ t.pwr.cause = 3 ∧ t.clk = { s.clk with corr := 0 } ∧
        t.com.epoch = s.com.epoch ∧ t.regs = [] ∧ t.trk.slots = [] ∧ t.pmc.count = [] ∧ t.status = [] ∧
        t.sec.root = s.sec.root ∧ t.hpt.mr = s.hpt.mr ∧ t.hpt.fifo = s.hpt.fifo ∧ t.hpt.banks = [] ∧
        (Canonical s → ∀ a, devByte t a = if a < 0x4000000 then 0 else devByte s a)) ∧
    exec (.brownOut 0) s = .next s ∧
    (∀ straps : BitVec 4, exec (.porNRise straps) s =
      .next (if s.pwr.porN then s
        else { s with pwr := { s.pwr with porN := true, straps := straps.toNat, pg := 0x3F, causeAt := s.clk.now } })) ∧
    (∀ facts : BootFacts, (s.pwr.phase = .reset → s.pwr.cause ≤ 2 → s.pwr.porN = true → facts.suppliesUp = true →
        ∃ t, exec (.resetRelease facts) s = .next t ∧ t.pwr.phase = .boot ∧ t.pwr.pg = 0x3F ∧ t.clk.now = 0 ∧
          t.clk.started = false ∧ t.sec.readyAt = facts.steps.toNat * tuStep) ∧
      (s.pwr.phase = .reset → 2 < s.pwr.cause → ∃ t, exec (.resetRelease facts) s = .next t ∧ t.pwr.phase = .boot ∧
        t.sec.readyAt = max s.clk.now (s.pwr.causeAt + 1000000 * tuNs) + facts.steps.toNat * tuStep) ∧
      (s.pwr.phase ≠ .reset ∨ (s.pwr.cause ≤ 2 ∧ (s.pwr.porN = false ∨ facts.suppliesUp = false)) →
        exec (.resetRelease facts) s = .next s)) ∧
    (∀ c, s.sec.failing = some c → hasIdentity s = false → ∃ t, exec .failedStart s = .next t ∧
      t.sec = { s.sec with failing := none, resetDue := true, failed := s.sec.failNext, reason := c } ∧
      t.log.persist = persistWord s.sec.failNext c ∧ t.clk.now = max s.clk.now s.sec.readyAt) ∧
    (s.sec.resetDue = true → s.pwr.phase = .boot → ∃ t, exec .failedStartWarmReset s = .next t ∧ t.pwr.phase = .reset ∧
      t.pwr.cause = 4 ∧ t.pwr.causeAt = max s.clk.now (s.sec.readyAt + 100000000 * tuNs) ∧ t.sec.resetDue = false) ∧
    (∀ w, s.sec.okAt = some w → w ≤ tickNow s → hasIdentity s = false → s.sec.fwRaiseMin = false →
      ∃ t, exec .startOk s = .next t ∧ t.sec = { s.sec with okAt := none, startOk := true, failed := 0, reason := 0 } ∧
        (reg t Reg.SEC_EVENTS).testBit 5 = true ∧ ∀ a, a ≠ Reg.SEC_EVENTS → reg t a = reg s a) ∧
    (s.pwr.phase ≠ .reset →
      (∀ code : BitVec 12, ∃ t, exec (.busSample code) s = .next t ∧ t = { s with pwr := { s.pwr with
          busRing := (code.toNat :: s.pwr.busRing).take 16, samples := t.pwr.samples } } ∧
        t.pwr.samples = s.pwr.samples ++ [(s.clk.now, some ((rneDiv (sumN t.pwr.busRing) t.pwr.busRing.length).toNat * 75 / 8), none)]) ∧
      (∀ mv : BitVec 10, ∃ t, exec (.coreSample mv) s = .next t ∧ t = { s with pwr := { s.pwr with
          coreRing := (mv.toNat :: s.pwr.coreRing).take 16, samples := t.pwr.samples } } ∧
        t.pwr.samples = s.pwr.samples ++ [(s.clk.now, none, some (rneDiv (sumN t.pwr.coreRing) t.pwr.coreRing.length).toNat)]) ∧
      ∀ temps : BitVec 256, ∃ t, exec (.temperatureSample temps) s = .next t ∧ t.pwr.temps.length = 16 ∧
        (∀ i : Fin 16, t.pwr.temps[i.val]? = some (temps.extractLsb' (16 * i.val) 16).toInt) ∧
        (thermalMet t = true → thermalMet s = false → (reg t Reg.PWR_EVENTS).testBit 3 = true) ∧
        t = { s with regs := t.regs, pwr := { s.pwr with temps := t.pwr.temps, tempSamples := t.pwr.tempSamples } })

/-! ## Memory and the Draw -/

/-- R382, R384, R397–R399, R402, R404–R406: an arbiter advances its register by 32 steps and grants the highest latency-critical input that
it answers, else the lottery's winner; a withdrawn grant is a dead cycle, and a burst in progress without its grant loses a beat; a request
at a channel takes it out of self-refresh, and a granted beat of the running copy moves its line. Refresh notes the die's report. A channel
enters self-refresh under the conditions of R399, else stays, and leaves it, except while every channel is held. A scrub pass counts what
it corrects and poisons what it cannot. The model's choices in it: assumptions 45, 67, 88, 104 and 105. -/
def Obligations.MemoryEvents : Prop :=
  ∀ s : State,
    (∀ (arbiter : Fin 266) (rs : List DrawRequest) (withdraws : Bool),
      let a := arbiterOf s arbiter.val
      let w := stepLfsrN 32 a.lfsr
      let f := drawField s arbiter.val rs
      let g : Option Nat := match (f.filter (fun q => (drawClass s q).1 == 0)).getLast? with
        | some q => some q.input.toNat
        | none => lottery w (f.map (fun q => (q.input.toNat, (drawClass s q).2)))
      let moved := if withdraws then none else g
      let lost := rs.filter (fun q => drawAnswers s arbiter.val q && some q.input.toNat != moved &&
        decide (0 < Map.getD a.progress q.input.toNat 0))
      ∃ t, exec (.drawArbitration arbiter rs withdraws) s = .next t ∧
        (arbiterOf t arbiter.val).lfsr = w ∧ (arbiterOf t arbiter.val).last = moved ∧
        (∀ k, k ≠ arbiter.val → Map.get t.sch.arb k = Map.get s.sch.arb k) ∧
        reg t Reg.SCH_DRAW_DEAD = (reg s Reg.SCH_DRAW_DEAD + b2n (withdraws && g.isSome)) % 2 ^ 32 ∧
        reg t Reg.SCH_DRAW_REVOKE = (reg s Reg.SCH_DRAW_REVOKE + lost.length) % 2 ^ 32 ∧
        (arbiter.val < 256 → t.mem.chBytes = s.mem.chBytes ∧ t.mem.sr = s.mem.sr) ∧
        (256 ≤ arbiter.val → arbiter.val < 264 →
          Map.getD t.mem.chBytes (arbiter.val - 256) 0 =
            Map.getD s.mem.chBytes (arbiter.val - 256) 0 + (if moved.isSome then 64 else 0) ∧
          ((∃ q ∈ rs, drawAnswers s arbiter.val q = true) →
            Map.get t.mem.lastReq (arbiter.val - 256) = some s.clk.now ∧
            (srHeld s = false → t.mem.sr.testBit (arbiter.val - 256) = false))) ∧
        (264 ≤ arbiter.val → t.mem = s.mem) ∧
        ((∀ q ∈ rs, q.tag.toNat ≠ 33) →
          t = { s with sch := { s.sch with arb := t.sch.arb }, lys := { s.lys with links := t.lys.links },
                       mem := { s.mem with chBytes := t.mem.chBytes, lastReq := t.mem.lastReq, sr := t.mem.sr },
                       regs := t.regs, pmc := t.pmc } ∧
          (arbiter.val < 264 → t.lys = s.lys) ∧
          ∀ r, ¬ pmcRegister r →
            r ∉ [Reg.SCH_DRAW_DEAD, Reg.SCH_DRAW_REVOKE, Reg.MEM_COURT_CORR, Reg.MEM_DDR_CORR, Reg.MEM_EVENTS] → reg t r = reg s r) ∧
        (∀ (q : DrawRequest) (c : Copy) (rest : List Copy) (p : Nat × Nat), rs = [q] → withdraws = false → arbiter.val < 264 →
          drawAnswers s arbiter.val q = true → q.tag.toNat = 33 → (drawClass s q).1 = 0 → s.mem.copies = c :: rest →
          48 ≤ q.input.toNat → q.input.toNat ≤ 55 → (copyRest s c).find? (fun p => p.2 == q.addr.toNat / 64 * 64) = some p →
          Canonical s → s.mem.poison = [] → addrFenced s p.2 64 = false →
          t.mem.copies = { c with moved := c.moved ++ [p.2] } :: rest ∧
          ∀ x, devByte t x = if p.2 ≤ x ∧ x < p.2 + 64 then devByte s (p.1 + (x - p.2)) else devByte s x)) ∧
    (∀ (ch : Fin 8) (mr4 : BitVec 3) (hot : Bool), ∃ t, exec (.refreshDue ch mr4 hot) s = .next t ∧
      t = { s with mem := { s.mem with mr4 := t.mem.mr4, refreshes := s.mem.refreshes + 1 } } ∧
      Map.get t.mem.mr4 ch.val = some (mr4.toNat + 8 * b2n hot) ∧
      ∀ k, k ≠ ch.val → Map.get t.mem.mr4 k = Map.get s.mem.mr4 k) ∧
    (∀ ch : Fin 8,
      let idle := ∀ x, Map.get s.mem.lastReq ch.val = some x → x + fld s Reg.MEM_SR_CTRL 31 16 * tuNs ≤ s.clk.now
      let may := fld s Reg.MEM_SR_CTRL 0 0 = 1 ∧ idle ∧ beatDue s ch.val = false ∧ tolAllows s = true
      (may → s.mem.sr.testBit ch.val = false →
        ∃ t, exec (.selfRefreshEntry ch) s = .next t ∧ t.mem.sr = s.mem.sr ||| 2 ^ ch.val ∧
          t = { s with regs := t.regs, mem := { s.mem with sr := t.mem.sr, srTick := t.mem.srTick } } ∧
          reg t Reg.MEM_SR_ENTRIES = (reg s Reg.MEM_SR_ENTRIES + 1) % 2 ^ 32 ∧
          ∀ a, a ≠ Reg.MEM_SR_ENTRIES → reg t a = reg s a) ∧
      (¬ may ∨ s.mem.sr.testBit ch.val = true → exec (.selfRefreshEntry ch) s = .next s) ∧
      (orderlyStop s = true ∨ s.pwr.phase = .reset → exec (.selfRefreshExit ch) s = .next s) ∧
      (orderlyStop s = false → s.pwr.phase ≠ .reset → ∃ t, exec (.selfRefreshExit ch) s = .next t ∧
        t = { s with mem := { s.mem with sr := t.mem.sr } } ∧
        ∀ k, t.mem.sr.testBit k = (s.mem.sr.testBit k && !decide (k = ch.val)))) ∧
    ∀ (ddr : Bool) (corrected failed : List (BitVec 40)),
      let period := if ddr then fld s Reg.MEM_SCRUB 31 16 * 1000000000 * tuNs else fld s Reg.MEM_SCRUB 15 0 * 1000000 * tuNs
      let due := period ≠ 0 ∧ s.clk.started = true ∧ (ddr = true → s.mem.scrubOn = true ∧ tolAllows s = true)
      let u := advance s ((if ddr then s.mem.ddrPass else s.mem.courtPass) + period)
      let good := (corrected.map (·.toNat)).filter (lineIn ddr)
      let bad := (failed.map (·.toNat)).filter (lineIn ddr)
      let corr := if ddr then Reg.MEM_DDR_CORR else Reg.MEM_COURT_CORR
      let ue := if ddr then Reg.MEM_DDR_UE else Reg.MEM_COURT_UE
      (¬ due → exec (.scrub ddr corrected failed) s = .next s) ∧
      (due → ∃ t, exec (.scrub ddr corrected failed) s = .next t ∧
        t = { u with regs := t.regs, log := t.log, mem := { s.mem with
          poison := t.mem.poison, courtPass := t.mem.courtPass, ddrPass := t.mem.ddrPass } } ∧
        (ddr = true → t.mem.ddrPass = t.clk.now ∧ t.mem.courtPass = s.mem.courtPass) ∧
        (ddr = false → t.mem.courtPass = t.clk.now ∧ t.mem.ddrPass = s.mem.ddrPass) ∧
        reg t corr = min (reg s corr + good.length) 0xFFFFFFFF ∧
        (good ≠ [] → (reg t Reg.MEM_EVENTS).testBit (if ddr then 2 else 0) = true) ∧
        (∀ l, l ∈ t.mem.poison ↔ l ∈ s.mem.poison ∨ l ∈ bad) ∧
        (bad = [] → reg t ue = reg u ue) ∧
        ∀ l, bad = [l] → l ∉ s.mem.poison →
          reg t ue = min (reg u ue + 1) 0xFFFFFFFF ∧ reg t Reg.MEM_ERR_ADDR_LO = l % 2 ^ 32 ∧
          reg t Reg.MEM_ERR_ADDR_HI = l / 2 ^ 32 ∧ (reg t Reg.MEM_EVENTS).testBit (if ddr then 3 else 1) = true)

/-! ## Jobs -/

/-- R78, R192–R195, R199, R216–R220, R374, R376, R547: a huddle with nothing running takes the next entry of its list, which reads zero
with PROTECT where it lies outside, and passes over one of unknown KIND with BAD_ENTRY. A descriptor that passes its checks starts on its leaves, each with its part, under the registers in
force or, on a line path whose inputs carry the epoch before, under those of that epoch, and STATUS reads RUNNING; one that fails a
check ends with that check's status and runs nothing. Every core of a sliver job that is not fenced starts. The model's choices in
it: assumptions 50, 51 and 55. -/
def Obligations.EntriesAndJobs : Prop :=
  (∀ (s : State) (huddle : Byte), let h := huddle.toNat
     let r := hudOf s h
     let a := r.list.addr + 16 * r.list.index
     let e := unitRead s a 16
     FreeHuddle s h → topOf s.fab.plan h = h → s.sch.ctxs = [] → r.taken = none → r.romDue = [] → r.rerun = [] → r.ups = none →
     r.preempted = [] → 0 < r.list.left → s.mem.poison = [] →
     (fieldLE e 9 1 ≤ 1 → entryFormatBad s.fab.plan h e = false → ∃ t, exec (.jobListEntry huddle) s = .next t ∧
       hudOf t h = { r with list := { r.list with left := r.list.left - 1, index := r.list.index + 1 },
                            taken := some (32, fieldLE e 0 8, fieldLE e 9 1, fieldLE e 8 1) } ∧
       (∀ k, k ≠ h → hudOf t k = hudOf s k) ∧
       t = { s with sch := { s.sch with hud := t.sch.hud, arb := t.sch.arb }, regs := t.regs } ∧
       (rangeOk s a 16 false = true → t.regs = s.regs) ∧ (∀ x, x ≠ Reg.MEM_EVENTS → reg t x = reg s x) ∧
       (rangeOk s a 16 false = false → (reg t Reg.MEM_EVENTS).testBit 5 = true)) ∧
     (1 < fieldLE e 9 1 → ∃ t, exec (.jobListEntry huddle) s = .next t ∧ (hudOf t h).taken = none ∧
       (hudOf t h).list.left = r.list.left - 1 ∧ (reg t (Reg.HUD_EVENTS h)).testBit 4 = true ∧ t.mem = s.mem)) ∧
  (∀ (s : State) (huddle : Byte) (ctx desc child : Nat), let h := huddle.toNat
     let r := hudOf s h
     let underImage (j : Job) := (j.image = s.regs ∧ j.epoch = s.com.epoch % 65536) ∨
       (j.image = s.com.prevImage ∧ j.epoch = (s.com.epoch + 65535) % 65536)
     r.rom = [] → r.group = [] → r.takenUps = false → s.mem.poison = [] → Canonical s →
     (∀ (i : Byte → Instr) (op : Nat), (i = .conv ∧ op = 1) ∨ (i = .poolMax ∧ op = 2) ∨ (i = .poolAvg ∧ op = 3) ∨
         (i = .boxDecode ∧ op = 4) →
       r.taken = some (ctx, desc, 0, child) → rangeOk s desc 144 false = true → fieldLE (devRead s desc 144) 0 1 = op →
       let b := devRead s desc 144
       let d := parseMe b
       let parts := takenParts s h true ⟨h, 0, d.bands, 0, d.ncb⟩ child
       let leaves := parts.filterMap (fun x => findHuddle s.fab.plan x.leaf)
       let offPath := ∀ q ∈ s.fab.plan.routes, ∀ x ∈ parts, isUnder s.fab.plan x.leaf q.segHud = false
       (meCheck s leaves b = none → ∃ t, exec (i huddle) s = .next t ∧ (hudOf t h).taken = none ∧
         (hudOf t h).group.map (fun j => (⟨j.huddle, j.rowLo, j.rowN, j.chLo, j.chN⟩ : Part)) = parts ∧
         (∀ j, j ∈ (hudOf t h).group → j.kind = 0 ∧ j.ctx = ctx ∧ j.desc = desc ∧ j.bytes = b ∧ underImage j ∧
           (offPath → j.image = s.regs) ∧ j.tick = tickNow s ∧ j.budget = fieldLE b 0x20 3 ∧ j.tiles = []) ∧
         StatusCode s t (fieldLE b 0x88 8) 0xFF) ∧
       (∀ code, meCheck s leaves b = some code → NoWorkLeft s h → ∃ t, exec (i huddle) s = .next t ∧ (hudOf t h).taken = none ∧
         (hudOf t h).group = [] ∧ StatusCode s t (fieldLE b 0x88 8) code) ∧
       (op = 4 → meCheck s leaves b ≠ none)) ∧
     (r.taken = some (ctx, desc, 1, child) → rangeOk s desc 64 false = true →
       let b := devRead s desc 64
       let parts := takenParts s h false ⟨h, 0, fieldLE b 8 4, 0, 0⟩ child
       let leaves := parts.filterMap (fun x => findHuddle s.fab.plan x.leaf)
       let offPath := ∀ q ∈ s.fab.plan.routes, ∀ x ∈ parts, isUnder s.fab.plan x.leaf q.segHud = false
       (slvCheck s leaves b parts.length = none → ∃ t, exec (.sliverJob huddle) s = .next t ∧ (hudOf t h).taken = none ∧
         (hudOf t h).group.map (·.huddle) = leaves.map (·.id) ∧
         (∀ j, j ∈ (hudOf t h).group → j.kind = 1 ∧ j.ctx = ctx ∧ j.desc = desc ∧ j.bytes = b ∧ underImage j ∧
           (offPath → j.image = s.regs) ∧ j.budget = fieldLE b 4 3 ∧
           ∀ l, l ∈ j.cores → (coreOf t l).active = !coreFenced s l ∧ (coreOf t l).ended = false ∧ (coreOf t l).s = []) ∧
         StatusCode s t (fieldLE b 0x30 8) 0xFF) ∧
       (∀ code, slvCheck s leaves b parts.length = some code → NoWorkLeft s h → ∃ t, exec (.sliverJob huddle) s = .next t ∧
         (hudOf t h).taken = none ∧ (hudOf t h).group = [] ∧ (code ≠ stNOCORES → StatusCode s t (fieldLE b 0x30 8) code))))

/-- R56, R174, R178, R194, R195, R235: an engine's tile is noted with its leaf job; on a tag mismatch the whole entry stops with
SKEW; the last job's end writes STATUS OK, counts for its leaf and leaves the huddle free where no work is left; the shot clock stops
the entry and is reported, but a Matrix Engine job whose last tile completed in that cycle ends OK, and one that a tag mismatch stopped
in that cycle is reported only. The model's choices in it: assumptions 51, 107, 108, 119 and 150. -/
def Obligations.JobsProgressAndEnd : Prop :=
  ∀ s : State, s.sch.old = [] → Canonical s →
    (∀ (engine : Fin 16) (h k n t0 : Nat) (j : Job) (a ot : Tensor), jobOfEngine s engine.val = some (h, j, k, n) →
      (hudOf s h).group ≠ [] → s.mem.poison = [] →
      let d := parseMe j.bytes
      let w := if d.op = 1 then s.fab.plan.tensors[d.wT]? else none
      nextTile j d.ncb n k = some t0 → s.fab.plan.tensors[d.inT]? = some a → s.fab.plan.tensors[d.outT]? = some ot →
      (∀ x, x ∈ tileReads d a w t0 → rangeOk s x.1 x.2 false = true) →
      (∀ x, x ∈ tileWrites d ot t0 (bandRows d.oh d.tileH (t0 / d.ncb)) → rangeOk s x.1 x.2 true = true) →
      let skew := tileSkew s j d a w engine.val t0
      (skew = none → guarded s j.image ot = false → ∃ t, exec (.tileComplete engine) s = .next t ∧
        (hudOf t h).group = (hudOf s h).group.map (fun g => if g.huddle = j.huddle then
          { j with tiles := j.tiles ++ [t0], loaded := j.loaded ++ [(engine.val, t0 % d.ncb)], done := j.done + 1 } else g)) ∧
      (skew ≠ none → j.huddle < 256 → NoWorkLeft s h → ∃ t, exec (.tileComplete engine) s = .next t ∧ (hudOf t h).group = [] ∧
        (reg t (Reg.HUD_EVENTS j.huddle)).testBit 1 = true)) ∧
    (∀ (leaf : Byte) (j : Job), let h := topOf s.fab.plan leaf.toNat
      let r := hudOf s h
      r.group = [j] → j.huddle = leaf.toNat → j.view = false → j.kind ≤ 1 → NoWorkLeft s h →
      (leafFinished s j = true → ∃ t, exec (.jobEnd leaf) s = .next t ∧ (hudOf t h).group = [] ∧
        (hudOf t leaf.toNat).doneCount = ((hudOf s leaf.toNat).doneCount + 1) % 2 ^ 32 ∧
        StatusCode s t (statusAddr j) 0) ∧
      (j.kind = 0 → meDone j = true → skewNow s h leaf.toNat = none → ∀ stuck, ∃ t, exec (.shotClock leaf stuck) s = .next t ∧ (hudOf t h).group = [] ∧
        t.com.shots = s.com.shots ∧ StatusCode s t (statusAddr j) 0) ∧
      (¬ (j.kind = 0 ∧ meDone j = true) → skewNow s h leaf.toNat = none → ∀ stuck, ∃ t, exec (.shotClock leaf stuck) s = .next t ∧
        (hudOf t h).group = [] ∧ t.com.shots = s.com.shots + 1 ∧
        (reg t Reg.WHS_IRQ_STATUS).testBit 4 = true ∧ (reg t (Reg.HUD_EVENTS leaf.toNat)).testBit 0 = true)) ∧
    (∀ (leaf : Byte) (j : Job) (n : Nat) stuck, let h := topOf s.fab.plan leaf.toNat
      skewNow s h leaf.toNat = some (j, n) → j.huddle = leaf.toNat → ∃ t, exec (.shotClock leaf stuck) s = .next t ∧
        (hudOf t h).group = (hudOf s h).group ∧ (hudOf t h).lastSkew = none ∧ t.com.shots = s.com.shots + 1 ∧
        (reg t Reg.WHS_IRQ_STATUS).testBit 4 = true ∧ (reg t (Reg.HUD_EVENTS leaf.toNat)).testBit 0 = true ∧ t.mem = s.mem)

/-- R261, R271–R273, R290, R295, R374, R453: a ROM stage job that is due on a free huddle starts there, under its budget register and
the tick it is for; a view stage waits while another still runs: SYNTHESIS_JOB, DECISION_JOB, GEN with a picture in progress (or the event of a descriptor that is empty or ill
formed), COMPOSE for a later slice, and TAKEOVER_JOB. The model's choices in it: assumptions 52 and 54. -/
def Obligations.RomJobsStart : Prop :=
  ∀ (s : State) (huddle : Byte) (d : Nat × Nat × Nat × Nat), let h := huddle.toNat
    let top := topOf s.fab.plan h
    FreeHuddle s top → huddleDefined s h = true → romNoCores s h = false →
    let u := advance s d.2.2.2
    (romDueOf s 2 h = some d → ∃ t j, exec (.synthesisJob huddle) s = .next t ∧ (hudOf t top).rom = [j] ∧ j.kind = 2 ∧
      j.huddle = h ∧ j.tick = d.2.2.1 ∧ j.budget = fld s Reg.SYN_JOB 23 0 ∧ t.clk = u.clk ∧
      (∀ q, q ∈ j.syn → q.held = false ∧ ∃ r, r ∈ synRoutes s h ∧ q.route = r.route ∧ (q.route, d.2.2.1 + q.lead, d.2.2.1) ∈ j.lines) ∧
      j.units = 2048 * (synRoutes s h).length) ∧
    (romDueOf s 3 h = some d → segEnded s h d.2.2.1 = true → ∃ t j, exec (.decisionJob huddle) s = .next t ∧
      (hudOf t top).rom = [j] ∧ j.kind = 3 ∧ j.huddle = h ∧ j.tick = tickNow s ∧ j.budget = fld s Reg.TRK_JOB 23 0 ∧
      j.dec.map (·.route) = (decRoutes s h (d.2.2.1 / 4) (d.2.2.1 % 4)).map (·.route) ∧ t.clk = u.clk ∧ t.mem = s.mem) ∧
    (romDueOf s 4 h = some d → stageRuns s = true → exec (.gen huddle) s = .next s) ∧
    (romDueOf s 5 h = some d → stageRuns s = true → exec (.compose huddle) s = .next s) ∧
    (romDueOf s 4 h = some d → stageFirst s d = true → stageRuns s = false → viewSuspended s = false →
      let a := viewDesc u u.regs
      let head := unitRead u a 128
      let b := head ++ unitRead u (a + 128) (8 * vdTiles head)
      (vdEmpty b = true → ∃ t, exec (.gen huddle) s = .next t ∧ (reg t Reg.SYN_VW_EVENTS).testBit 7 = true ∧
        (hudOf t top).rom = [] ∧ t.vw = s.vw) ∧
      (vdEmpty b = false → viewFormatBad u b s.vw.dv = true ∨ rangeOk u a b.length false = false → ∃ t, exec (.gen huddle) s = .next t ∧
        (reg t Reg.SYN_VW_EVENTS).testBit 6 = true ∧ (hudOf t top).rom = [] ∧ t.vw = s.vw) ∧
      (vdEmpty b = false → viewFormatBad u b s.vw.dv = false → rangeOk u a b.length false = true →
        tickNow s + vdComp b < d.2.2.1 + s.vw.dv → ∃ t j p, exec (.gen huddle) s = .next t ∧ (hudOf t top).rom = [j] ∧ j.kind = 4 ∧ j.huddle = h ∧ j.tick = p.start ∧
          j.budget = vd b 0x14 3 ∧ t.vw.pic = some p ∧ p.start = d.2.2.1 + s.vw.dv ∧ p.desc = b ∧ t.mem = s.mem)) ∧
    (romDueOf s 5 h = some d → stageFirst s d = true → stageRuns s = false → ∀ p, s.vw.pic = some p → d.2.2.1 + vdComp p.desc ≠ p.start →
      p.start ≤ d.2.2.1 + vdComp p.desc → ∃ t j, exec (.compose huddle) s = .next t ∧ (hudOf t top).rom = [j] ∧ j.kind = 5 ∧
        j.huddle = h ∧ j.tick = p.start ∧ j.slice = d.2.2.1 + vdComp p.desc - p.start ∧ j.budget = vd p.desc 0x18 3 ∧
        t.vw = s.vw ∧ t.mem = s.mem) ∧
    (romDueOf s 6 h = some d → ∃ t j, exec (.takeoverJob huddle) s = .next t ∧ (hudOf t top).rom = [j] ∧ j.kind = 6 ∧
      j.huddle = h ∧ j.tick = d.2.2.1 ∧ j.budget = fld s Reg.LYS_TK_JOB 23 0 ∧ t.mem = s.mem)

/-! ## Vision -/

/-- R118–R131, R139, R148, R151: a sequencer issues the next instruction of its oldest open run where the command names its operation,
and nothing otherwise; END closes the run; an instruction that ends on its unit leaves its result with the run, new corners numbered
in frame order; refine work that holds its units refines the next chosen tile, or gives it up where a line of its images is poisoned.
The model's choices in it: assumptions 73, 127 and 149. -/
def Obligations.VisionWork : Prop :=
  ∀ (s : State) (seq : Fin 16), let n := seq.val
    let openAt := (runsOf s n).findIdx? (fun r => !r.idle && !r.closed)
    let endAt := (runsOf s n).findIdx? (fun r => !r.idle && !r.closed && r.issued == r.insns.length)
    (∀ (i : Instr) (op : Nat), (i, op) ∈ [((.pyr seq : Instr), 1), (.corner seq, 2), (.desc seq, 3), (.matchRow seq, 4), (.flow seq, 5),
        (.dvis seq, 6), (.stereo seq, 7), (.conf seq, 8)] →
      (openAt = none → exec i s = .next s) ∧
      ∀ k r x, openAt = some k → (runsOf s n)[k]? = some r → r.insns[r.issued]? = some x →
        (x.op ≠ op → exec i s = .next s) ∧
        (x.op = op → ∃ t r', exec i s = .next t ∧ t = { s with vsn := { s.vsn with runs := t.vsn.runs } } ∧
          (runsOf t n)[k]? = some r' ∧ r' = { r with issued := r.issued + 1, units := r'.units, refUnits := r'.refUnits })) ∧
    (endAt = none → exec (.playbookEnd seq) s = .next s) ∧
    (∀ k r, endAt = some k → (runsOf s n)[k]? = some r → ∃ t, exec (.playbookEnd seq) s = .next t ∧
      t = { s with vsn := { s.vsn with runs := t.vsn.runs } } ∧ (runsOf t n)[k]? = some { r with closed := true } ∧
      (∀ m, m ≠ k → (runsOf t n)[m]? = (runsOf s n)[m]?) ∧ ∀ m, m ≠ n → runsOf t m = runsOf s m) ∧
    (∀ (insn : Byte) k r x, let i := insn.toNat
      s.mem.poison = [] → (runsOf s n).findIdx? (fun r => r.units.any (fun u => u.1 == i)) = some k → (runsOf s n)[k]? = some r →
      r.insns[i]? = some x → inputsReady s n r i x = true →
      ∃ t r', exec (.visionInstructionEnd seq false insn) s = .next t ∧ (runsOf t n)[k]? = some r' ∧ i ∈ r'.done ∧
        (let y := execInsn s n r i x
         r'.descs = y.descs ∧ r'.matches_ = y.matches_ ∧ r'.dvis = y.dvis ∧ r'.disp = y.disp ∧ r'.tiles = y.tiles ∧
         r'.flags = y.flags ∧ (∃ g, r'.sets = (y.renumber g).sets ∧ r'.flows = (y.renumber g).flows) ∧
         ((∀ q ∈ runsOf s n, q.numbered = true ∨ q.idle = true) → r'.sets = y.sets ∧ r'.flows = y.flows)) ∧
        t.mem = s.mem) ∧
    ((∀ r, r ∈ runsOf s n → r.published = none ∨ r.finished = true ∨ r.chosen = []) →
      ∀ insn, exec (.visionInstructionEnd seq true insn) s = .next s) ∧
    ∀ k r, (runsOf s n).findIdx? VRun.refining = some k → (runsOf s n)[k]? = some r → r.refUnits.length = r.refineOps.length →
      (∀ insn, ∃ t r', exec (.visionInstructionEnd seq true insn) s = .next t ∧ (runsOf t n)[k]? = some r' ∧ r'.chosen = r.chosen.tail) ∧
      (s.mem.poison = [] → ∀ insn, ∃ t r', exec (.visionInstructionEnd seq true insn) s = .next t ∧ (runsOf t n)[k]? = some r' ∧
        r'.chosen = r.chosen.tail ∧ r'.patches.length = r.patches.length + 1 ∧
        t = { s with vsn := { s.vsn with runs := t.vsn.runs }, regs := t.regs } ∧
        ((refineImages s n r).any (imageOutside s) = false → t.regs = s.regs) ∧ ∀ x, x ≠ Reg.MEM_EVENTS → reg t x = reg s x) ∧
      ((refineImages s n r).findSome? (poisonIn s) ≠ none → ∀ insn, ∃ t r', exec (.visionInstructionEnd seq true insn) s = .next t ∧
        (runsOf t n)[k]? = some r' ∧ r'.chosen = r.chosen.tail ∧ r'.patches = r.patches ∧ r'.spoiled = true ∧ t.mem = s.mem)

/-! ## The field head -/

/-- R318, R320–R323, R326, R327, R329: at the fetch point the next line is taken into the buffer with its words resolved to
transitions and its cause of an underrun; at the deadline each driven chain's frame goes out; SYNC drops unless the code is SAFE and
rises with the line, carrying its code, unless an emergency write has sent its own; the direct pins change at their steps, those of the line
before first.
The model's choices in it: assumption 56. -/
def Obligations.FieldLine : Prop :=
  ∀ (s : State) (late : Bool) (pin : Fin 16),
    let n := s.clk.next
    let h := entryRead s n 0 64
    let length := fld s Reg.FRS_LINE 10 0
    let pulse := fld s Reg.FRS_PULSE 18 0
    let last := period s / tuEdge - 1
    ((s.clk.started = false ∨ s.frs.drive = false ∨ s.frs.fetched ≠ none) → exec (.sob late) s = .next s) ∧
    (s.clk.started = true → s.frs.drive = true → s.frs.fetched = none → s.mem.poison = [] →
      ∃ t l, exec (.sob late) s = .next t ∧
        TimeAnd [Reg.FRS_EVENTS, Reg.LYS_EVENTS] { s with frs := { s.frs with fetched := some l } } t ∧
        t.clk = { s.clk with now := max s.clk.now (fetchInst s) } ∧ (reg t Reg.FRS_EVENTS).testBit 0 = true ∧ l.target = n ∧ l.length = length ∧ l.epoch = fieldLE h 0x08 2 ∧
        l.flags = fieldLE h 0x0A 1 ∧ l.frameSent = false ∧ l.stopped = false ∧
        (if l.flags % 4 = 3 then l.words = [] else ∀ k, k < length → l.words[k]? = some (ofLE (entryRead s n (0x40 + 4 * k) 4))) ∧
        l.cause = (if fieldLE h 0x0A 1 % 2 = 0 then 1 else if fieldLE h 0 8 ≠ n then 2 else if late then 4 else 0) ∧
        ∀ k, k < 1040 →
          let w := if k < length then (l.words[k]?).getD 0 else 0
          let on := s.frs.levels.testBit k
          let at_ := min (bits w 20 2) last
          ((l.moves.find? (fun e => e.1 == k)).map (·.2)).getD [] =
            if w % 4 = 0 ∧ on = true then [(at_, false)] else if w % 4 = 1 ∧ on = false then [(at_, true)]
            else if w % 4 = 2 ∧ pulse ≠ 0 then [(at_, true), (min (at_ + pulse) last, false)] else []) ∧
    (s.frs.fetched = none → exec .chainFrameStart s = .next s) ∧
    (∀ l, s.frs.fetched = some l →
      (l.frameSent = true → exec .chainFrameStart s = .next s) ∧
      (l.frameSent = false → ∃ t l', exec .chainFrameStart s = .next t ∧
        TimeOnly { s with frs := { s.frs with
          frames := t.frs.frames, fetched := some l', frm := t.frs.frm, frmRise := t.clk.now } } t ∧
        l' = { l with frameSent := true, expCrc := l'.expCrc } ∧
        ∀ c, c < 8 → t.frs.frm.testBit c = chainDriven s l c ∧
          (chainDriven s l c = true → Map.get t.frs.frames c = some (chainFrame l c) ∧
            (chainFrame l c).length = 8 + 6 * (l.lens[c]?).getD 0 ∧ l'.expCrc[c]? = some (crc32 (frameBody l c))) ∧
          (chainDriven s l c = false → Map.get t.frs.frames c = Map.get s.frs.frames c ∧ l'.expCrc[c]? = some 0))) ∧
    ((s.clk.started = false ∨ (lineOutcome s n).1 = 2) → exec .syncDrop s = .next s) ∧
    (s.clk.started = true → (lineOutcome s n).1 ≠ 2 → ∃ t, exec .syncDrop s = .next t ∧
      TimeOnly { s with frs := { s.frs with sync := t.frs.sync, syncKept := t.frs.syncKept } } t ∧
      t.clk.now = max s.clk.now (nextInst s - 500 * tuNs) ∧
      ∀ c, c < 8 →
        let off := chainDriven s (s.frs.fetched.getD (settingsLine s n)) c = false
        (t.frs.sync.testBit c = true ↔ s.frs.sync.testBit c = true ∧ off) ∧
        (t.frs.syncKept.testBit c = true ↔ s.frs.syncKept.testBit c = true ∧ off)) ∧
    (s.frs.cur = none → exec (.lineRelease 0) s = .next s) ∧
    (∀ l, s.frs.cur = some l → ∃ t c, exec (.lineRelease 0) s = .next t ∧ t.frs.cur = some c ∧
      t.clk.now = max s.clk.now (s.clk.inst + 40 * tuNs) ∧
      TimeAnd [Reg.FRS_RB, Reg.FRS_STATUS, Reg.FRS_EVENTS] { s with frs := t.frs } t ∧
      t.frs.takeover = (s.frs.takeover || l.tk) ∧
      (l.cancelled = true → t.frs = { s.frs with
        cur := some c, prev := t.frs.prev, pins := t.frs.pins, takeover := t.frs.takeover }) ∧
      (l.cancelled = false → t.frs.syncRise = t.clk.now ∧ t.frs.pulseWas = 0 ∧
        t.frs.wireCode = (if l.outcome = 2 then 0 else if l.outcome = 1 then 1 else 2) ∧
        ∀ k, k < 8 →
          (t.frs.sync.testBit k = true ↔ chainDriven t l k = true ∧ (chainOutcome l k).1 ≠ 2) ∧
          (t.frs.syncKept.testBit k = true ↔ ¬ (chainDriven t l k = true ∧ (chainOutcome l k).1 ≠ 2)) ∧
          (t.frs.dat.testBit k = true ↔ chainDriven t l k = true ∧ (chainOutcome l k).1 = 0)) ∧
      (∀ m, m ∈ c.due ↔ m ∈ l.due ∧ m.2.1 ≠ 0) ∧ (∀ p, t.frs.prev = some p → p.due = []) ∧
      ((∀ p, s.frs.prev = some p → p.due = []) →
        (l.due.filter (fun m => m.2.1 == 0) = [] → t.frs.pins = s.frs.pins) ∧
        (∀ m, l.due.filter (fun m => m.2.1 == 0) = [m] → t.frs.pins.testBit m.1 = m.2.2))) ∧
    (let before := s.frs.prev.bind (fun l => (l.nextMove pin.val).map (fun m => (l, m)))
     let now := s.frs.cur.bind (fun l => (l.nextMove pin.val).map (fun m => (l, m)))
     let moves (l : Line) (m : Nat × Nat × Bool) (frs : Frs → Frs) := ∃ t, exec (.directPinTransition pin) s = .next t ∧
       TimeOnly { s with frs := frs { s.frs with pins := t.frs.pins } } t ∧
       t.frs.pins.testBit pin.val = m.2.2 ∧ (∀ p, p ≠ pin.val → t.frs.pins.testBit p = s.frs.pins.testBit p) ∧
       t.clk.now = max s.clk.now (l.stepInst m.2.1)
     (before = none → now = none → exec (.directPinTransition pin) s = .next s) ∧
     (∀ l m, before = some (l, m) → moves l m (fun f => { f with prev := some (l.moved m) })) ∧
     ∀ l m, before = none → now = some (l, m) → moves l m (fun f => { f with cur := some (l.moved m) }))

/-- R332–R334, R339, R340: a chain's CRC seen at the pad, and the direct pins' transitions of the line before, are compared with what
was meant; a mismatch is kept with its line and reported, a run of failing lines leads to FAULT_SAFE, and each line leaves its
record in the status page. The model's choices in it: assumption 5. -/
def Obligations.FieldReadBack : Prop :=
  ∀ (s : State) (chain : Fin 8) (crc : BitVec 32),
    (s.frs.fetched = none → exec (.chainReadback chain crc) s = .next s) ∧
    (∀ l, s.frs.fetched = some l →
      let l' := { l with actCrc := setNth l.actCrc chain.val crc.toNat }
      let offWire (t : State) := ∀ c, t.frs.frm.testBit c = (s.frs.frm.testBit c && decide (c ≠ chain.val))
      ((l.frameSent = false ∨ chainDriven s l chain.val = false) → exec (.chainReadback chain crc) s = .next s) ∧
      (l.frameSent = true → chainDriven s l chain.val = true →
        ((l.expCrc[chain.val]?).getD 0 = crc.toNat → ∃ t, exec (.chainReadback chain crc) s = .next t ∧ offWire t ∧
          t = { s with frs := { s.frs with fetched := some l', frm := t.frs.frm }, regs := t.regs }) ∧
        ((l.expCrc[chain.val]?).getD 0 ≠ crc.toNat → ∃ t, exec (.chainReadback chain crc) s = .next t ∧ offWire t ∧
          t.frs = { s.frs with fetched := some { l' with failChains := l.failChains ||| 2 ^ chain.val }, frm := t.frs.frm } ∧
          t = { s with frs := t.frs, regs := t.regs, log := t.log } ∧
          (fld t Reg.FRS_RB 7 0).testBit chain.val = true ∧ (reg t Reg.FRS_EVENTS).testBit 5 = true))) ∧
    (s.frs.prev = none → exec (.directReadback crc) s = .next s ∧ exec .lineRecord s = .next s) ∧
    ∀ l, s.frs.prev = some l →
      let seen := l.seen ++ l.due.map (fun m => (m.1, m.2.2, m.2.1))
      let good := directCrc seen
      let l' := { l with due := [], seen := seen, expCrc := setNth l.expCrc 8 good, actCrc := setNth l.actCrc 8 crc.toNat }
      let quiet (t : State) := l.due = [] → t.frs.pins = s.frs.pins
      (good = crc.toNat → l.failChains = 0 → l.failDirect = false → ∃ t, exec (.directReadback crc) s = .next t ∧
        TimeAnd [Reg.FRS_RB, Reg.FRS_EVENTS] { s with frs := { s.frs with prev := some l', rbRun := 0, pins := t.frs.pins } } t ∧
        quiet t ∧ fld t Reg.FRS_RB 31 16 = 0) ∧
      (good ≠ crc.toNat → ∃ t, exec (.directReadback crc) s = .next t ∧
        t.frs.prev = some { l' with failDirect := true } ∧ t.frs.rbRun = min (s.frs.rbRun + 1) 65535 ∧
        (reg t Reg.FRS_EVENTS).testBit 5 = true ∧
        t.frs.faultDue = (s.frs.faultDue || (l.ctrl.testBit 1 && bits l.ctrl 15 8 != 0 && decide (bits l.ctrl 15 8 ≤ t.frs.rbRun))) ∧
        t.frs = { s.frs with prev := t.frs.prev, rbRun := t.frs.rbRun, faultDue := t.frs.faultDue, pins := t.frs.pins } ∧
        quiet t ∧
        TimeAnd [Reg.FRS_RB, Reg.FRS_EVENTS] { s with frs := t.frs } t) ∧
      ∃ t, exec .lineRecord s = .next t ∧ TimeOnly { s with status := t.status } t ∧
        t.clk.now = max s.clk.now (s.clk.inst + 2000 * tuNs) ∧
        (∀ i b, (leBytes 8 l.target ++ [BitVec.ofNat 8 l.outcome, BitVec.ofNat 8 l.code])[i]? = some b →
          Mem.get 0 t.status (statBase 9 + i) = b) ∧
        ∀ a, (a < statBase 9 ∨ statBase 9 + (lineRecord l).length ≤ a) → Mem.get 0 t.status a = Mem.get 0 s.status a

/-! ## The view head -/

/-- R343–R345, R349–R351, R354–R358, R364: at a frame start the committed values take force and the frame begins on its line grid with the
picture shown and its first four lines fetched, the frame before it kept until its record; an active pixel that is missing is an underrun
of its line, and the fetch goes on with the next line; a frame's start of blanking, by which its lines are sent, its comparison with the
read-back receiver and its record follow in order. The lines of the frame go out as time advances to each of these instants.
The model's choices in it: assumptions 87 and 88. -/
def Obligations.ViewFrames : Prop :=
  ∀ (s : State) (clone : Bool) (line px : BitVec 12) (act : BitVec 32),
    let only (t : State) := TimeAnd [Reg.VRS_VTOTAL, Reg.VRS_LV_VTOTAL, Reg.VRS_CRC_EXP, Reg.VRS_CRC_ACT, Reg.VRS_LV_CRC_EXP,
      Reg.VRS_LV_CRC_ACT] { s with mem := { s.mem with sr := t.mem.sr } } t
    (s.vrs.dpDue = none → exec .viewFrameStart s = .next s) ∧
    (∀ v inst, s.vrs.dpDue = some (v, inst) → s.vrs.slow = false → ∃ t, exec .viewFrameStart s = .next t ∧
      t.vrs.dpDue = none ∧ t.vrs.dp = vrsImage s ∧ t.vrs.passed = 0 ∧ t.clk.now = max s.clk.now (dpStartInst s inst) ∧
      t.vw = s.vw ∧
      (vrsImage s = s.vrs.dp → dpVideo s = true → only t ∧
        let w := timingOf s s.vrs.dp false
        (∃ f, t.vrs.frame = some f ∧ f.view = v ∧ (f.base, f.line0) = dpGrid s inst ∧ f.img = s.vrs.dp ∧
          f.pic = s.vw.shown ∧ f.again = s.vw.repeated ∧ f.stage = 0 ∧ f.sent = 0 ∧ f.next = min 4 w.vact ∧
          (s.mem.poison = [] → f.bad = []) ∧ f.misfit = misfits s.vw.shown w false ∧
          (f.misfit = true → (reg t Reg.VRS_EVENTS).testBit 6 = true) ∧ reg t Reg.VRS_VTOTAL = f.lines % 2 ^ 32 ∧
          ((dpReg s Reg.VRS_CTRL).testBit 2 = false → f.lines = w.vtotal s.vw.dv (period s)) ∧
          ∀ i, (dpReg s Reg.VRS_CTRL).testBit 2 = true → nextView s 1 = some i →
            f.lines = w.lineFrom (i + 1000 * tuNs - f.base) - f.line0) ∧
        ∀ g, s.vrs.frame = some g → g.stage = 1 ∨ g.stage = 2 → t.vrs.prev = some g)) ∧
    (s.vrs.lvDue = none → exec .cloneFrameStart s = .next s) ∧
    (∀ v inst, s.vrs.lvDue = some (v, inst) → ∃ t, exec .cloneFrameStart s = .next t ∧ t.vrs.lvDue = none ∧ only t ∧
      let u := advance s (inst + 1000 * tuNs)
      t.vrs.lv = vrsImage s ∧ t.clk.now = max s.clk.now (inst + 1000 * tuNs) ∧ t.vrs.frame = u.vrs.frame ∧
      (let k := bits (ireg s (vrsImage s) Reg.VRS_LV_CTRL) 5 2
       let on := (ireg s (vrsImage s) Reg.VRS_CTRL).testBit 1 = true ∧ k ≠ 0
       (¬ on → t.vrs.clone = none ∧ t.vrs.clonePrev = none) ∧
       (on → (∃ f, t.vrs.clone = some f ∧ f.view = v ∧ f.base = inst + 1000 * tuNs ∧ f.line0 = 0 ∧ f.img = vrsImage s ∧
           f.pic = s.vw.shown ∧ f.again = s.vw.repeated ∧ (s.mem.poison = [] → f.bad = []) ∧ f.stage = 0 ∧ f.sent = 0 ∧
           f.lines = (timingOf s (vrsImage s) true).vtotal ((if shedStep s 1 then 1 else k) * s.vw.dv) (period s) ∧
           reg t Reg.VRS_LV_VTOTAL = f.lines % 2 ^ 32) ∧
         ∀ g, u.vrs.clone = some g → g.stage = 0 → t.vrs.clonePrev = some g))) ∧
    (outFrame s clone = none → exec (.viewUnderrun clone line px) s = .next s) ∧
    (∀ f, outFrame s clone = some f →
      let v := frameTiming s clone f
      let at_ := activeInst v f line.toNat + v.pixelsTu px.toNat
      let now := max s.clk.now at_
      (f.stage = 0 → f.misfit = false → f.pic ≠ none → line.toNat < v.vact → px.toNat < v.hact → Map.get f.bad line.toNat = none →
        s.mem.poison = [] → f.sent ≤ line.toNat → activeBy v f now ≤ line.toNat →
        ∃ t g, exec (.viewUnderrun clone line px) s = .next t ∧ only t ∧ outFrame t clone = some g ∧
          outFrame t (!clone) = outFrame (advance s at_) (!clone) ∧ g.bad = Map.set f.bad line.toNat px.toNat ∧
          g.next = min (line.toNat + 5) v.vact ∧ g.sent ≤ line.toNat ∧ g.view = f.view ∧ g.base = f.base ∧ g.line0 = f.line0 ∧
          g.pic = f.pic ∧ (reg t Reg.VRS_EVENTS).testBit (if clone then 10 else 3) = true ∧ t.clk.now = now ∧
          (let hi := if clone then 31 else 15
           fld t Reg.VRS_UNDERRUNS hi (hi - 15) = (fld s Reg.VRS_UNDERRUNS hi (hi - 15) + 1) % 65536)) ∧
      ((f.stage ≠ 0 ∨ Map.get f.bad line.toNat ≠ none ∨ f.misfit = true ∨ f.pic = none ∨ v.vact ≤ line.toNat ∨ v.hact ≤ px.toNat ∨
          line.toNat < f.sent ∨ (f.stage = 0 ∧ line.toNat < activeBy v f now)) →
        exec (.viewUnderrun clone line px) s = .next s)) ∧
    (let stage := if clone then 0 else 1
     (frameAt s clone stage = none → exec (.frameDone clone act) s = .next s) ∧
     ∀ older f, frameAt s clone stage = some (older, f) →
       let v := frameTiming s clone f
       let done := activeInst v f (v.vact + 2)
       let u := advance s done
       ∃ t h, exec (.frameDone clone act) s = .next t ∧ only t ∧ frameAt u clone stage = some (older, h) ∧ h.view = f.view ∧
         let y := sendLines u clone h v.vact
         let ex := y.2.expCrc
         (older = true → clone = true → t.vrs.clonePrev = none) ∧
         (older = false ∨ clone = false → ∃ g, (if older then t.vrs.prev else outFrame t clone) = some g ∧ g.stage = 2 ∧
           g.view = f.view ∧ g.crcs = [y.2.fetchCrc, ex, act.toNat]) ∧
         t.clk.now = max s.clk.now done ∧
         reg t (if clone then Reg.VRS_LV_CRC_EXP else Reg.VRS_CRC_EXP) = ex % 2 ^ 32 ∧
         reg t (if clone then Reg.VRS_LV_CRC_ACT else Reg.VRS_CRC_ACT) = act.toNat ∧
         (ex ≠ act.toNat → (reg t Reg.VRS_EVENTS).testBit (if clone then 11 else 4) = true) ∧
         ((if clone then t.vrs.lvBad else t.vrs.dpBad) = true ↔ ex ≠ act.toNat) ∧
         (clone = false → (reg t Reg.VRS_EVENTS).testBit 2 = true)) ∧
    (s.vrs.frame = none → exec .viewSob s = .next s) ∧
    (∀ f, s.vrs.frame = some f →
      let v := frameTiming s false f
      let u := advance s (activeInst v f v.vact)
      (f.stage ≠ 0 → exec .viewSob s = .next s) ∧
      (f.stage = 0 → ∃ t g, exec .viewSob s = .next t ∧ only t ∧ t.vrs.frame = some g ∧ g.stage = 1 ∧ g.view = f.view ∧
        (f.sent ≤ v.vact → 0 < v.pclk → 0 < v.htotal → g.sent = v.vact) ∧ t.vrs.clone = u.vrs.clone ∧ t.vrs.prev = s.vrs.prev ∧
        (reg t Reg.VRS_EVENTS).testBit 0 = true ∧ t.clk.now = max s.clk.now (activeInst v f v.vact) ∧
        (f.matched = false → ifld s f.img Reg.VRS_LINE 11 0 < v.vact → (reg t Reg.VRS_EVENTS).testBit 1 = true))) ∧
    (frameAt s false 2 = none → exec .frameRecord s = .next s) ∧
    ∀ older f, frameAt s false 2 = some (older, f) →
      let v := frameTiming s false f
      let at_ := activeInst v f (v.vact + 2) + 1000 * tuNs
      let u := advance s at_
      ∃ t, exec .frameRecord s = .next t ∧ TimeOnly { s with status := t.status } t ∧
        t.vrs = (if older then { u.vrs with prev := none } else { u.vrs with frame := some { f with stage := 3 } }) ∧
        t.clk.now = max s.clk.now at_ ∧
        (∀ i b, (frameRecordBytes f)[i]? = some b → Mem.get 0 t.status (statBase 10 + i) = b) ∧
        ∀ a, (a < statBase 10 ∨ statBase 10 + (frameRecordBytes f).length ≤ a) → Mem.get 0 t.status a = Mem.get 0 s.status a

/-- R341, R352, R359, R360, R362: training ends with the requested rate, with FALLBACK with the greatest lower one that trained and
carries the video, or fails; a sink that appears once the view head is on has its DPCD and EDID read and trains; a lost lock retrains; an
unplugged sink stops the output. The model's choices in it: assumptions 90 and 133. -/
def Obligations.ViewLink : Prop :=
  ∀ (s : State) (tr : Training) (dpcd edid : List Byte),
    let want := bits (dpReg s Reg.VRS_LINK) 1 0
    let lanes := bits (dpReg s Reg.VRS_LINK) 3 2
    let fallback := (dpReg s Reg.VRS_LINK).testBit 4
    let carries (r : Nat) := bandwidthOk (dpReg s Reg.VRS_PCLK) lanes r ((dpReg s Reg.VRS_CTRL).testBit 3)
    let starts := (dpReg s Reg.VRS_CTRL).testBit 0 = true ∧ s.vrs.blanked = false
    let ok (r : Nat) := Machine.trains tr.recovery.toNat tr.equalisation.toNat r
    let taken (r : Nat) := exec (.linkTrainingEnd tr) s = .next { s with vrs := { s.vrs with
      training := false, up := true, rate := r, lanes := lanes, tps := eqPattern s r } }
    (s.vrs.training = false → exec (.linkTrainingEnd tr) s = .next s) ∧
    (s.vrs.training = true →
      (ok want = true → taken want) ∧
      (∀ r, ok want = false → fallback = true → r < want → ok r = true → carries r = true →
        (∀ q, r < q → q < want → ok q = true → carries q = false) → taken r) ∧
      (ok want = false → (fallback = true → ∀ q, q < want → ok q = true → carries q = false) →
        ∃ t, exec (.linkTrainingEnd tr) s = .next t ∧ t.vrs = { s.vrs with training := false, up := false } ∧
          (reg t Reg.VRS_EVENTS).testBit 9 = true ∧ t = { s with vrs := t.vrs, regs := t.regs })) ∧
    (s.vrs.on = false → exec (.hpd dpcd edid) s = .next s) ∧
    (s.vrs.on = true → ∃ t, exec (.hpd dpcd edid) s = .next t ∧ t.vrs.hpd = true ∧ (reg t Reg.VRS_EVENTS).testBit 7 = true ∧
      (∀ i, i < 4 → reg t (Reg.VRS_DPCD i) = fieldLE dpcd (4 * i) 4) ∧
      (∀ i, i < 128 → reg t (Reg.VRS_EDID i) = fieldLE edid (4 * i) 4) ∧
      t.vrs.msaIgnore = (dpReg s Reg.VRS_CTRL).testBit 2 ∧
      (starts → t.vrs.training = true ∧ t.vrs.up = false ∧ t.vrs.frame = none ∧ t.vrs.d3 = false)) ∧
    (s.vrs.hpd = false → ∀ locked, exec (.hpdIrq locked) s = .next s) ∧
    (s.vrs.hpd = true → s.vrs.up = true → exec (.hpdIrq true) s = .next s ∧
      ∃ t, exec (.hpdIrq false) s = .next t ∧ (reg t Reg.VRS_EVENTS).testBit 8 = true ∧
        (starts → t.vrs.training = true ∧ t.vrs.up = false ∧ t.vrs.frame = none)) ∧
    (s.vrs.hpd = true → s.vrs.up = false → s.vrs.training = true → ∀ locked, exec (.hpdIrq locked) s = .next s) ∧
    ∃ t, exec .unplug s = .next t ∧ (reg t Reg.VRS_EVENTS).testBit 8 = true ∧
      t.vrs = { s.vrs with hpd := false, up := false, training := false, msaIgnore := false, frame := none,
                           prev := t.vrs.prev } ∧
      ∀ g, t.vrs.prev = some g → g.stage = 2

/-! ## The Lysba links -/

/-- R432, R435, R436, R438, R439: the steps of a link's bring-up; HELLO brings the link UP or fails it with the cause of the mismatch;
acknowledged frames leave the replay buffer; a NAK replays, control frames with the present ACKSEQ, the third for one SEQ retrains; a bad frame or one out of order is
answered by a NAK, and a dropped one is counted. The model's choices in it: assumption 92. -/
def Obligations.LinkBringUp : Prop :=
  ∀ (s : State) (link : Fin 2) (lanes : Byte) (ack : BitVec 16), s.lys.links.length = 2 →
    let n := link.val
    let l := linkOf s n
    let v := lanes.toNat
    let group := v % 16 = 15 ∨ v / 16 = 15
    let failed (t : State) (cause : Nat) := (linkOf t n).state = 6 ∧ (linkOf t n).cause = cause ∧
      (linkOf t n).fails = min (l.fails + 1) 65535 ∧ (linkOf t n).buffer = [] ∧ (linkOf t n).queue = [] ∧
      (reg t Reg.LYS_EVENTS).testBit 0 = true
    let only (t : State) := linkOf t (1 - n) = linkOf s (1 - n) ∧
      t = { s with lys := { s.lys with links := t.lys.links }, regs := t.regs, log := t.log, pmc := t.pmc }
    ((l.state ≠ 1 ∨ ¬ group) → exec (.linkDetect link lanes) s = .next s) ∧
    (l.state = 1 → group → ∃ t, exec (.linkDetect link lanes) s = .next t ∧ only t ∧
      linkOf t n = { l with state := 2, cause := 0, nakCount := 0 }) ∧
    (l.state ≠ 2 → exec (.linkTrain link lanes) s = .next s) ∧
    (l.state = 2 → ∃ t, exec (.linkTrain link lanes) s = .next t ∧ only t ∧ (linkOf t n).laneOk = v ∧
      (group → (linkOf t n).state = 3 ∧ ((linkOf t n).narrow = true ↔ v ≠ 255)) ∧ (¬ group → failed t 1)) ∧
    (l.state ≠ 3 → ∀ ok, exec (.linkAlign link ok) s = .next s) ∧
    (l.state = 3 → (∃ t, exec (.linkAlign link true) s = .next t ∧ only t ∧ (linkOf t n).state = 4 ∧
        (linkOf t n).control = { helloFrame s with seqNo := l.txSeq, ackNo := l.ackSeq } :: l.control ∧ (linkOf t n).txSeq = (l.txSeq + 1) % 65536) ∧
      ∃ t, exec (.linkAlign link false) s = .next t ∧ only t ∧ failed t 2) ∧
    (l.state ≠ 6 → exec (.linkFail link) s = .next s) ∧
    (l.state = 6 → ∃ t, exec (.linkFail link) s = .next t ∧ only t ∧ (linkOf t n).state = 1 ∧ (linkOf t n).cause = 0) ∧
    (l.state ≠ 5 → exec (.blockLockLoss link) s = .next s) ∧
    (l.state = 5 → ∃ t, exec (.blockLockLoss link) s = .next t ∧ only t ∧ (linkOf t n).state = 2 ∧ (linkOf t n).buffer = l.buffer ∧
      (linkOf t n).retrains = min (l.retrains + 1) 65535 ∧ (reg t Reg.LYS_EVENTS).testBit 1 = true) ∧
    ((l.state ≠ 5 ∧ l.state ≠ 4) → exec (.idleFrame link ack) s = .next s ∧ ∀ q nak, exec (.acknak link ack q nak) s = .next s) ∧
    ((l.state = 5 ∨ l.state = 4) →
      (∃ t, exec (.idleFrame link ack) s = .next t ∧ only t ∧ linkOf t n = l.acked ack.toNat ∧
        ∀ e, e ∈ (linkOf t n).buffer → e.1 ≠ ack.toNat) ∧
      ∀ replay : BitVec 16, let q := replay.toNat
        let l' := l.acked ack.toNat
        let times := if l.nakSeq = q ∧ 0 < l.nakCount then l.nakCount + 1 else 1
        (∃ t, exec (.acknak link ack replay false) s = .next t ∧ only t ∧ linkOf t n = l') ∧
        ∃ t, exec (.acknak link ack replay true) s = .next t ∧ only t ∧ (linkOf t n).buffer = l'.buffer ∧
          (linkOf t n).replays = min (l.replays + 1) 65535 ∧
          (times < 3 → (linkOf t n).state = l.state ∧ (linkOf t n).nakSeq = q ∧ (linkOf t n).nakCount = times ∧
            ∀ e, e ∈ l'.buffer → (e.1 + 65536 - q) % 65536 < 32768 → e.2.typ < 5 →
              { e.2 with ackNo := l.ackSeq } ∈ (linkOf t n).control) ∧
          (3 ≤ times → (linkOf t n).state = 2)) ∧
    ((l.state ≠ 5 ∧ l.state ≠ 4) → exec (.badFrame link) s = .next s ∧
      ∀ sq : BitVec 16, exec (.droppedFrame link sq ack) s = .next s) ∧
    ((l.state = 5 ∨ l.state = 4) →
      (∃ t f, exec (.badFrame link) s = .next t ∧ only t ∧
        linkOf t n = { l with crc := min (l.crc + 1) 65535, control := f :: l.control } ∧ f.typ = 2 ∧ f.info = l.rxSeq + 65536) ∧
      ∀ sq : BitVec 16,
        (sq.toNat = l.rxSeq → ∃ t, exec (.droppedFrame link sq ack) s = .next t ∧ only t ∧
          linkOf t n = { l.acked ack.toNat with rxSeq := (l.rxSeq + 1) % 65536 } ∧
          fld t Reg.LYS_DROPS 31 16 = min (fld s Reg.LYS_DROPS 31 16 + 1) 65535) ∧
        (sq.toNat ≠ l.rxSeq → ∃ t f, exec (.droppedFrame link sq ack) s = .next t ∧ only t ∧
          linkOf t n = { l.acked ack.toNat with control := f :: l.control } ∧ f.typ = 2 ∧ f.info = l.rxSeq + 65536)) ∧
    ∀ (h : FrameHead) (id sizeM1 : BitVec 3) (pair : Bool) (trip : BitVec 16), h.link = link → h.seqNo.toNat = l.rxSeq → l.state = 4 →
      let z := ringSize s
      let want := if n = 0 then (ringId s + z - 1) % z else (ringId s + 1) % z
      let fits := sizeM1.toNat + 1 = z ∧ pair = isPaired s
      ∃ t, exec (.hello h id sizeM1 pair trip) s = .next t ∧ only t ∧ (linkOf t n).peer = id.toNat ∧
        (linkOf t n).delay = (rneDiv (trip.toNat : Nat) 2).toNat ∧
        (id.toNat = want → fits → (linkOf t n).state = 5 ∧ (linkOf t n).rxSeq = (l.rxSeq + 1) % 65536 ∧
          (linkOf t n).buffer = (l.acked h.ackNo.toNat).buffer) ∧
        (id.toNat ≠ want → failed t 3) ∧ (id.toNat = want → ¬ fits → failed t 4)

/-- R438, R441–R445: a request for this device waits for its service, one for another goes on over the other link or is dropped,
counted and answered UNREACHABLE; a served request reads or writes local memory and its REPLY is queued toward the originator; a
reply reaches its entry, and its data the entry's place in the receive slot. The model's choices in it: assumption 95. -/
def Obligations.RemoteRequests : Prop :=
  ∀ (s : State) (h : FrameHead) (entry : BitVec 12) (join : BitVec 16) (addr : BitVec 40) (data : BitVec 256),
    s.lys.links.length = 2 →
    let n := h.link.val
    let l := linkOf s n
    let info := entry.toNat + join.toNat * 4096
    let here := h.dst.toNat = ringId s
    ((l.state ≠ 5 ∧ l.state ≠ 4) → exec (.rget h entry join addr) s = .next s ∧ exec (.rput h entry join addr data) s = .next s ∧
      ∀ st d, exec (.reply h entry join st d) s = .next s) ∧
    ((l.state = 5 ∨ l.state = 4) → h.seqNo.toNat = l.rxSeq →
      (∀ (i : Instr) (typ : Nat), (i = .rget h entry join addr ∧ typ = 5) ∨ (i = .rput h entry join addr data ∧ typ = 6) →
        (here → ∃ t f, exec i s = .next t ∧ t.lys.served = s.lys.served ++ [(n, f)] ∧ f.typ = typ ∧ f.src = h.src.toNat ∧
          f.ctx = h.ctx.toNat ∧ f.info = info ∧ fieldLE f.payload 0 8 = addr.toNat ∧
          (typ = 6 → slice f.payload 32 32 = leBytes 32 data.toNat) ∧
          linkOf t n = { l.acked h.ackNo.toNat with rxSeq := (l.rxSeq + 1) % 65536 }) ∧
        (¬ here → h.hops.toNat + 1 < ringSize s → linkUp s (1 - n) = true → ∃ t f, exec i s = .next t ∧
          (linkOf t (1 - n)).queue = (linkOf s (1 - n)).queue ++ [f] ∧ f.typ = typ ∧ f.dst = h.dst.toNat ∧ f.src = h.src.toNat ∧
          f.hops = h.hops.toNat + 1 ∧ f.info = info ∧ t.lys.served = s.lys.served) ∧
        (¬ here → (ringSize s ≤ h.hops.toNat + 1 ∨ linkUp s (1 - n) = false) → ∃ t, exec i s = .next t ∧
          fld t Reg.LYS_DROPS 15 0 = min (fld s Reg.LYS_DROPS 15 0 + 1) 65535 ∧
          ∀ m, routeTo s h.src.toNat = some m → ∃ f, (linkOf t m).queue = (linkOf s m).queue ++ [f] ∧ f.typ = 7 ∧
            f.dst = h.src.toNat ∧ f.info = info + 2 * 2 ^ 28)) ∧
      ∀ (st : BitVec 3) (d : BitVec 512), here →
        let orphan := ∀ c, Map.get s.sch.ctxs h.ctx.toNat = some c → c.epoch % 65536 ≠ join.toNat
        let entryOf_ (x : RxEntry) := x.ctx == h.ctx.toNat && x.entry == entry.toNat
        (¬ orphan → s.lys.rx.find? entryOf_ ≠ none → st = 0 → ∃ t, exec (.reply h entry join st d) s = .next t ∧
          t.lys.rx = s.lys.rx.map (fun x => if entryOf_ x then { x with reply := some 0 } else x) ∧
          ∀ a, rxAddr s h.ctx.toNat entry.toNat = some a → Canonical s → ∀ y, devByte t y =
            if a ≤ y ∧ y < a + 64 then ((leBytes 64 d.toNat)[y - a]?).getD 0 else devByte s y)) ∧
    (s.lys.served = [] → exec .remoteRequestServed s = .next s) ∧
    ∀ m f rest, s.lys.served = (m, f) :: rest → s.mem.poison = [] → s.frs.fetched = none →
      let a := fieldLE f.payload 0 8
      let answer (t : State) (status : Nat) (bytes : List Byte) := t.lys.served = rest ∧
        ∀ k, routeTo s f.src = some k → ∃ g, (linkOf t k).queue = (linkOf s k).queue ++ [g] ∧ g.typ = 7 ∧ g.dst = f.src ∧
          g.ctx = f.ctx ∧ g.info = f.info % 2 ^ 28 + status * 2 ^ 28 ∧ g.payload = slice bytes 0 64
      (f.typ ≠ 6 → rangeOk s a 64 false = true → ∃ t, exec .remoteRequestServed s = .next t ∧ answer t 0 (devRead s a 64) ∧
        t.mem = s.mem) ∧
      (f.typ ≠ 6 → rangeOk s a 64 false = false → ∃ t, exec .remoteRequestServed s = .next t ∧ answer t 1 []) ∧
      (f.typ = 6 → rangeOk s a 32 true = true → ∃ t, exec .remoteRequestServed s = .next t ∧ answer t 0 [] ∧
        (∀ i b, (slice f.payload 32 32)[i]? = some b → devByte t (a + i) = b) ∧
        ∀ x, (x < a ∨ a + 32 ≤ x) → devByte t x = devByte s x) ∧
      (f.typ = 6 → rangeOk s a 32 true = false → ∃ t, exec .remoteRequestServed s = .next t ∧ answer t 1 [] ∧ t.mem = s.mem)

/-- R445: a REPLY whose context is not resident, or whose JOIN differs from the context's join epoch, is dropped and counted in
LYS_STATS.ORPHAN_REPLY; one whose context is resident and whose entry has been freed is dropped and counted in
LYS_STATS.STALE_REPLY. -/
def Obligations.RepliesDropped : Prop :=
  ∀ (s : State) (h : FrameHead) (entry : BitVec 12) (join : BitVec 16) (st : BitVec 3) (d : BitVec 512),
    s.lys.links.length = 2 → h.dst.toNat = ringId s → h.seqNo.toNat = (linkOf s h.link.val).rxSeq →
    ((linkOf s h.link.val).state = 5 ∨ (linkOf s h.link.val).state = 4) →
    let c := Map.get s.sch.ctxs h.ctx.toNat
    let dropped (t : State) := t = { s with regs := t.regs, lys := { s.lys with links := t.lys.links } }
    ((c = none ∨ ∃ x, c = some x ∧ x.epoch % 65536 ≠ join.toNat) → ∃ t, exec (.reply h entry join st d) s = .next t ∧ dropped t ∧
      fld t Reg.LYS_STATS 15 0 = min (fld s Reg.LYS_STATS 15 0 + 1) 65535 ∧
      fld t Reg.LYS_STATS 31 16 = fld s Reg.LYS_STATS 31 16) ∧
    ((∃ x, c = some x ∧ x.epoch % 65536 = join.toNat) →
      (∀ x, x ∈ s.lys.rx → ¬ (x.ctx = h.ctx.toNat ∧ x.entry = entry.toNat)) →
      ∃ t, exec (.reply h entry join st d) s = .next t ∧ dropped t ∧
        fld t Reg.LYS_STATS 31 16 = min (fld s Reg.LYS_STATS 31 16 + 1) 65535 ∧
        fld t Reg.LYS_STATS 15 0 = fld s Reg.LYS_STATS 15 0)

/-- R446–R450, R454: the sections of a tick's batch are queued toward the partner one after another, its END last; a received beat
joins the batch and a sound END closes it, a bad or missing one is a gap; heartbeats go out, arrive, where their tick number runs on, and
are missed; a SYNC corrects the follower's next Whistle. The model's choices in it: assumptions 93, 94 and 96. -/
def Obligations.PairAndAlignment : Prop :=
  ∀ (s : State) (h : FrameHead), s.lys.links.length = 2 →
    let n := h.link.val
    let l := linkOf s n
    let taken := (l.state = 5 ∨ l.state = 4) ∧ h.seqNo.toNat = l.rxSeq
    let mate := h.dst.toNat = ringId s ∧ isPaired s = true ∧ h.src.toNat = partnerId s
    let off := isPaired s = false ∨ s.clk.started = false
    (isPaired s = false ∨ 5 < s.lys.sendSect → exec .mirrorSectionSend s = .next s) ∧
    (∀ k, s.lys.sendSect = k → isPaired s = true → k ≤ 5 → (k = 1 → decisionsOpen s = false) →
      let bs := if k = 1 then trackBeats s else if k = 2 then poseBeats s else if k = 3 then shiftBeats s
        else if k = 4 then logBeats s else blockBeats s
      let all := s.lys.sendBeats ++ bs
      ∃ t, exec .mirrorSectionSend s = .next t ∧ t.lys.sendSect = k + 1 ∧ t.lys.sendBeats = all ∧
        (k = 5 → t.lys.sent = all.length ∧ t.lys.routesDue = false) ∧
        ∀ m, routeTo s (partnerId s) = some m → (linkOf t m).queue = (linkOf s m).queue ++
          bs.map (fun b => mirrorFrame s 8 (b.sect + b.info * 256) b.payload) ++
          if k = 5 then [mirrorFrame s 9 0 (endPayload s all)] else []) ∧
    (∀ (sect : Byte) (info : BitVec 24) (data : BitVec 512), taken → ¬ (s.lys.batch.any (fun x => decide (sect.toNat < x.sect)) = true) →
      ∃ t, exec (.mirror h sect info data) s = .next t ∧
        (mate → t.lys.batch = s.lys.batch ++ [⟨sect.toNat, info.toNat, leBytes 64 data.toNat⟩]) ∧
        (h.dst.toNat = ringId s → ¬ mate → t.lys.batch = s.lys.batch)) ∧
    (∀ data : BitVec 512, taken → mate →
      let d := leBytes 64 data.toNat
      let w := fieldLE d 0 8
      let beats := s.lys.batch
      let sound := (∀ k, 1 ≤ k → k ≤ 5 → fieldLE d (0x0A + 2 * k) 2 = (beats.filter (fun b => b.sect == k)).length) ∧
        fieldLE d 0x16 2 = beats.length ∧ (∀ b, b ∈ beats → 1 ≤ b.sect ∧ b.sect ≤ 5) ∧
        fieldLE d 0x3C 4 = crc32 (beats.flatMap (·.payload))
      ∃ t, exec (.mirrorEnd h data) s = .next t ∧ t.lys.batch = [] ∧ t.lys.lastEnd = some w ∧ t.lys.received = beats.length ∧
        (sound → t.lys.ready = s.lys.ready ++ [(w, fieldLE d 0x18 4, beats)]) ∧ (¬ sound → t.lys.ready = s.lys.ready ∧ t.lys.gap = true) ∧
        ((¬ sound ∨ ∃ u, s.lys.lastEnd = some u ∧ w ≠ (u + 1) % 2 ^ 48) → (reg t Reg.LYS_EVENTS).testBit 5 = true)) ∧
    (∀ (tick : BitVec 16) (st : BitVec 4), taken → mate → ∃ t, exec (.heartbeat h tick st) s = .next t ∧
      let counts := (st = 0 ∨ st = 2) ∧ beatCounts s tick.toNat = true
      (counts → t.lys.heard = true ∧ t.lys.partnerOk = true ∧ t.lys.beatAt = some (tick.toNat, tickNow s)) ∧
      (¬ counts → t.lys.heard = s.lys.heard ∧ t.lys.partnerOk = s.lys.partnerOk ∧ t.lys.beatAt = s.lys.beatAt) ∧
      (t.lys.fullNext = true ↔ st = 2 ∨ s.lys.fullNext = true)) ∧
    (off → exec .heartbeatSend s = .next s ∧ exec .heartbeatDeadline s = .next s) ∧
    (¬ off →
      (∃ t, exec .heartbeatSend s = .next t ∧ t.clk.now = max s.clk.now (s.clk.inst + 4000 * tuNs) ∧
        TimeOnly { s with lys := { s.lys with links := t.lys.links } } t ∧
        ∀ k, k < 2 → (linkUp s k = false → linkOf t k = linkOf s k) ∧
          (linkUp s k = true → ∃ f, (linkOf t k).control = f :: (linkOf s k).control ∧ f.typ = 4 ∧ f.dst = partnerId s ∧
            f.seqNo = (linkOf s k).txSeq ∧ f.ackNo = (linkOf s k).ackSeq ∧
            f.info = tickNow s % 65536 + beatState s * 65536)) ∧
      ∃ t, exec .heartbeatDeadline s = .next t ∧ t.clk.now = max s.clk.now (nextInst s - 10000 * tuNs) ∧
        TimeOnly { s with lys := t.lys } t ∧
        (s.lys.heard = true → t.lys = { s.lys with missed := 0 }) ∧
        (s.lys.heard = false → t.lys.missed = min 3 (s.lys.missed + 1) ∧ t.lys.partnerOk = false ∧
          t.lys.beatAt = (if 1 ≤ s.lys.missed then none else s.lys.beatAt) ∧
          (t.lys.tkDue = true ↔ s.lys.tkDue = true ∨ (1 ≤ s.lys.missed ∧ s.lys.takeover = false)))) ∧
    ∀ (per : Word) (count : BitVec 48) (arrival : BitVec 64), taken →
      let at_ : Int := ((arrival.toNat * tuEdge : Nat) : Int) - (l.delay * tuEdge : Nat) - s.clk.inst
      let e := rneDiv at_ tuEdge
      ∃ t, exec (.syncFrame h per count arrival) s = .next t ∧
        ((ringId s = 0 ∨ n ≠ syncLink s) → t = { s with lys := { s.lys with links := t.lys.links } }) ∧
        (ringId s ≠ 0 → n = syncLink s → s.clk.started = true →
          (per.toNat ≠ reg s Reg.WHS_PERIOD → t.lys = { s.lys with links := t.lys.links, mismatch := true }) ∧
          (per.toNat = reg s Reg.WHS_PERIOD → 2 * at_ ≤ (period s : Int) →
            t.lys.synced = true ∧ t.lys.mismatch = false ∧ t.lys.syncErr = e ∧
            t.clk.corr = max (-(((128 * tuNs : Nat) : Int))) (min ((128 * tuNs : Nat) : Int) (e * (tuEdge : Int))) ∧
            (8 < e.natAbs → t.lys.syncRun = 0 ∧ t.lys.locked = false) ∧
            (e.natAbs ≤ 8 → t.lys.syncRun = min 16 (s.lys.syncRun + 1) ∧
              (t.lys.locked = true ↔ s.lys.locked = true ∨ 15 ≤ s.lys.syncRun) ∧
              (15 ≤ s.lys.syncRun → s.lys.locked = false →
                t.lys.offset = (count.toNat + 2 ^ 48 - (s.clk.next - 1) % 2 ^ 48) % 2 ^ 48))))

/-! ## Camera intake and motion -/

/-- R17, R89–R95, R99, R106: a frame start takes the next capture slot of the stream that it matches, or is discarded and reported; a line
is stored at its place in the slot, whose first line marks it rewritten; a bad CRC marks the frame; a frame end hands the frame over
with its timestamp and tick; a frame without packets for 8 ticks is TRUNCATED, and a port without a frame end for 240 ticks reports
NO_SIGNAL. The model's choices in it: assumptions 3 and 70. -/
def Obligations.CameraFrames : Prop :=
  ∀ (s : State) (port vc : Fin 16) (at_ : BitVec 64) (dt : BitVec 6) (num : BitVec 16), let p := port.val
    let x := camPort s p
    let frameOf (u : State) := (camPort u p).frames.find? (fun f => f.vc == vc.val)
    let start := max s.clk.now (at_.toNat * tuStep)
    let tick := if s.clk.started = true ∧ nextInst s / tuStep ≤ start / tuStep then s.clk.next else tickNow s
    kickoff s = false → portOn s p = true → orderlyStop s = false → Canonical s →
    (frameOf s = none → streamMatches s p 1 vc.val dt.toNat = false →
      (streamMatches s p 0 vc.val dt.toNat = true → ∃ t f, exec (.frameStart port at_ vc dt num .good) s = .next t ∧
        (camPort t p).frames = x.frames ++ [f] ∧ f.vc = vc.val ∧ f.dt = dt.toNat ∧ f.kind = 0 ∧ f.num = num.toNat ∧
        f.width = fld s (Reg.CAM_PORT_FULL_SIZE p) 13 0 ∧ f.height = fld s (Reg.CAM_PORT_FULL_SIZE p) 29 16 ∧
        f.addr = ringSlot s p 0 ∧ f.seq = x.count % 2 ^ 32 ∧ f.fsTs = start / tuStep ∧ f.lines = 0 ∧ f.discarded = false ∧
        (camPort t p).count = x.count + 1 ∧ t.clk.now = start) ∧
      (streamMatches s p 0 vc.val dt.toNat = false → ∃ t f, exec (.frameStart port at_ vc dt num .good) s = .next t ∧
        (camPort t p).frames = x.frames ++ [f] ∧ f.vc = vc.val ∧ f.discarded = true ∧
        (reg t (Reg.CAM_PORT_EVENTS p)).testBit 5 = true ∧ (camPort t p).count = x.count)) ∧
    (∀ (f : Frame) (a : Nat) (data : List Byte), frameOf s = some f → f.discarded = false → f.overflow = false → f.dt = dt.toNat →
      f.addr = some a → f.lines < f.height →
      let n := lineBytes f.dt f.width
      let o := a + 0x80 + f.lines * lineStride f.dt f.width
      rangeOk s a 4 true = true → rangeOk s o (min n data.length) true = true →
      addrFenced s a 4 = false → addrFenced s o (min n data.length) = false →
      (∃ t g, exec (.longPacket port at_ vc dt .good true false data) s = .next t ∧ frameOf t = some g ∧ g.lines = f.lines + 1 ∧
        g.bad = f.bad ∧ (∀ i b, i < n → data[i]? = some b → devByte t (o + i) = b) ∧
        (f.lines = 0 → devRead t a 4 = [0xFF, 0xFF, 0xFF, 0xFF]) ∧
        ∀ y, ¬ (o ≤ y ∧ y < o + min n data.length) → ¬ (f.lines = 0 ∧ a ≤ y ∧ y < a + 4) → devByte t y = devByte s y) ∧
      ∃ t g, exec (.longPacket port at_ vc dt .good false false data) s = .next t ∧ frameOf t = some g ∧ g.bad = f.bad ||| 2 ∧
        (reg t (Reg.CAM_PORT_EVENTS p)).testBit 2 = true) ∧
    (frameOf s = none → ∃ t, exec (.frameEnd port at_ vc .good) s = .next t ∧ (reg t (Reg.CAM_PORT_EVENTS p)).testBit 5 = true ∧
      (camPort t p).lastEnd = x.lastEnd ∧ (camPort t p).noSignal = x.noSignal ∧ t.cam.ended = s.cam.ended) ∧
    (∀ f, frameOf s = some f → f.discarded = false → f.overflow = false → f.odd = false → f.lines = f.height →
      ∃ t g, exec (.frameEnd port at_ vc .good) s = .next t ∧ frameOf t = none ∧ g ∈ t.cam.ended ∧ g.port = f.port ∧
        g.seq = f.seq ∧ g.addr = f.addr ∧ g.bad = f.bad ∧ g.feTs = start / tuStep ∧ g.tick = tick ∧
        (camPort t p).lastEnd = tick ∧ (camPort t p).noSignal = false) ∧
    ((∀ f, f ∈ x.frames → tickNow s < f.lastPkt + 8) → exec (.truncated port) s = .next s) ∧
    (∀ f, x.frames = [f] → f.lastPkt + 8 ≤ tickNow s → f.discarded = false → ∃ t g, exec (.truncated port) s = .next t ∧
      (camPort t p).frames = [] ∧ g ∈ t.cam.ended ∧ g.seq = f.seq ∧ g.bad = f.bad ||| 4 ∧
      (reg t (Reg.CAM_PORT_EVENTS p)).testBit 3 = true) ∧
    (x.noSignal = false → x.lastEnd + 240 ≤ tickNow s → ∃ t, exec (.noSignal port) s = .next t ∧
      (camPort t p) = { x with noSignal := true } ∧ (reg t (Reg.CAM_PORT_EVENTS p)).testBit 8 = true ∧
      t = { s with cam := t.cam, regs := t.regs, log := t.log }) ∧
    (tickNow s < x.lastEnd + 240 → exec (.noSignal port) s = .next s)

/-- R88, R98–R103: an FSYNC pulse begins the next schedule slot at its phase, and its fall issues the list for the slot after; the
master's writes go out byte by byte, a refused or stretched one ends its list, a wait lets time pass, in-band interrupts are refused,
and a first deskew sequence is noted. The model's choices in it: assumption 71. -/
def Obligations.CameraSchedule : Prop :=
  ∀ (s : State) (port : Fin 16) (master : Fin 3), let p := port.val
    let m := master.val
    let x := camPort s p
    let b := busOf s m
    let pulse := s.clk.started = true ∧ orderlyStop s = false ∧ fsyncOn s p = true ∧
      tickNow s % fld s (Reg.CAM_PORT_FSYNC p) 7 0 = fld s (Reg.CAM_PORT_FSYNC p) 15 8 ∧ x.pulseTick ≠ some (tickNow s)
    (pulse → ∃ t, exec (.fsyncPulse port) s = .next t ∧ (camPort t p).pulses = x.pulses + 1 ∧ (camPort t p).high = true ∧
      (camPort t p).slot = nextSlot s p ∧ (camPort t p).pulseTick = some (tickNow s) ∧
      t.clk.now = max s.clk.now (pulseInst s p) ∧ (camPort t p).pulseTs = t.clk.now / tuStep) ∧
    (¬ pulse → exec (.fsyncPulse port) s = .next s) ∧
    (x.high = false → exec (.fsyncFall port) s = .next s) ∧
    (x.high = true → ∃ t, exec (.fsyncFall port) s = .next t ∧ (camPort t p).high = false ∧
      t.clk.now = max s.clk.now (x.pulseAt + fld s (Reg.CAM_PORT_FSYNC p) 23 16 * 1000 * tuNs) ∧
      ∀ k l, routeOfPort s p = none → x.slot = some k → schedCount s p ≠ 0 → listOf s p ((k + 1) % schedCount s p) = some l →
        fld s (Reg.CAM_PORT_CTRL p) 4 3 = m → b.queue = [] → listEntries s l ≠ [] →
        (busOf t m).queue = [{ port := p, slot := (k + 1) % schedCount s p, pulse := x.pulses + 1, at_ := t.clk.now,
                               entries := listEntries s l }]) ∧
    (∀ step rest, b.setup = step :: rest → ∃ t, exec (.busTransactionEnd master false) s = .next t ∧
      t = { s with cam := { s.cam with buses := t.cam.buses } } ∧ (busOf t m).setup = rest ∧ (busOf t m).queue = b.queue ∧
      (busOf t m).dyn = (match step with | .rstdaa => [] | .disec => b.dyn | .setdasa q a => Map.set b.dyn q a)) ∧
    (b.setup = [] → fld s (Reg.CAM_BUS_CTRL m) 1 0 ≠ 0 → ∀ l r e es, b.queue = l :: r → l.entries = e :: es →
      (bits e 33 32 ≠ 3 →
        (∃ t, exec (.busTransactionEnd master false) s = .next t ∧ (busOf t m).sent = entryWrites (sensorAddr s m l.port) e ∧
          t.clk.now = max s.clk.now (b.since + entryTu s m e) ∧
          (es ≠ [] → (busOf t m).queue = { l with entries := es } :: r)) ∧
        (∃ t, exec (.busTransactionEnd master true) s = .next t ∧ l.pulse ∈ (camPort t l.port).failed ∧
          (∀ f, f ∈ s.cam.ended → f.port = l.port → f.fsyncSeq = l.pulse % 2 ^ 32 → { f with note := f.note ||| 4 } ∈ t.cam.ended) ∧
          (reg t (Reg.CAM_BUS_EVENTS m)).testBit 0 = true ∧ (busOf t m).queue.length ≤ r.length) ∧
        (fld s (Reg.CAM_BUS_CTRL m) 1 0 = 1 → ∃ t, exec (.stretch master) s = .next t ∧
          l.pulse ∈ (camPort t l.port).failed ∧ (reg t (Reg.CAM_BUS_EVENTS m)).testBit 2 = true)) ∧
      (bits e 33 32 = 3 → ∃ t, exec (.busWaitEnd master) s = .next t ∧ (busOf t m).sent = b.sent ∧
        t.clk.now = max s.clk.now (b.since + bits e 47 40 * 1000 * tuNs) ∧
        (es ≠ [] → (busOf t m).queue = { l with entries := es } :: r))) ∧
    exec (.inBandInterrupt master) s = .next s ∧
    exec (.deskew port false true) s = .next s ∧
    (∃ t, exec (.deskew port true true) s = .next t ∧ camPort t p = { x with deskewed := true } ∧
      t = { s with cam := { s.cam with ports := t.cam.ports } }) ∧
    ∀ initial, ∃ t, exec (.deskew port initial false) s = .next t ∧ t = { s with regs := t.regs } ∧
      (reg t (Reg.CAM_PORT_EVENTS p)).testBit 10 = true

/-- R107–R109: an encoder edge counts by one, up when A leads unless INV is set, and a change of both levels is an error that counts
nothing; a PPS edge is stamped in 10 ns steps and its distance recorded, and its absence for 1.5 s is reported; an IMU read is
stamped by DRDY and gives six signed numbers in the order that BIG_ENDIAN selects, negated as INV selects.
The model's choices in it: assumptions 3 and 77. -/
def Obligations.MotionInputs : Prop :=
  ∀ (s : State) (enc : Fin 2) (a b : Bool) (at_ : BitVec 64) (data : BitVec 96), s.cam.encs.length = 2 →
    let x := encOf s enc.val
    let inv := (fld s Reg.CAM_ENC_CTRL 3 2).testBit enc.val
    let now := max s.clk.now (at_.toNat * tuStep)
    (∃ t, exec (.encoderEdge enc a b at_) s = .next t ∧ t.clk.now = now ∧
      encOf t enc.val = { x with a := a, b := b, count :=
        if a = x.a ∧ b = x.b then x.count
        else if a ≠ x.a ∧ b ≠ x.b then x.count
        else if ((if a ≠ x.a then a ≠ x.b else b = x.a) ↔ inv = false) then (x.count + 1) % 2 ^ 32
        else (x.count + (2 ^ 32 - 1)) % 2 ^ 32 } ∧
      (∀ e, e ≠ enc.val → encOf t e = encOf s e) ∧
      (a ≠ x.a → b ≠ x.b → (reg t Reg.CAM_MOTION_EVENTS).testBit 0 = true ∧
        fld t Reg.CAM_ENC_ERRCNT (16 * enc.val + 15) (16 * enc.val) =
          min (fld s Reg.CAM_ENC_ERRCNT (16 * enc.val + 15) (16 * enc.val) + 1) 65535) ∧
      TimeAnd [Reg.CAM_MOTION_EVENTS, Reg.CAM_ENC_ERRCNT, Reg.CAM_IRQ_STATUS] { s with cam := t.cam } t) ∧
    (fld s Reg.CAM_PPS_CTRL 0 0 = 0 → exec (.ppsEdge at_) s = .next s ∧ exec .ppsLost s = .next s) ∧
    (fld s Reg.CAM_PPS_CTRL 0 0 = 1 →
      (∃ t, exec (.ppsEdge at_) s = .next t ∧ t.clk.now = now ∧ t.cam = { s.cam with pps := some (now / tuStep), ppsLost := false } ∧
        reg t Reg.CAM_PPS_TS_LO = now / tuStep % 2 ^ 32 ∧ reg t Reg.CAM_PPS_TS_HI = now / tuStep / 2 ^ 32 % 2 ^ 32 ∧
        ∀ u, s.cam.pps = some u → reg t Reg.CAM_PPS_PERIOD = (now / tuStep - u) % 2 ^ 32) ∧
      (s.cam.ppsLost = true → exec .ppsLost s = .next s) ∧
      (s.cam.ppsLost = false → ∀ u, s.cam.pps = some u → ∃ t, exec .ppsLost s = .next t ∧ t.cam = { s.cam with ppsLost := true } ∧
        t.clk.now = max s.clk.now ((u + 150000000) * tuStep) ∧ (reg t Reg.CAM_MOTION_EVENTS).testBit 2 = true)) ∧
    (fld s Reg.CAM_IMU_CTRL 0 0 = 1 → fld s Reg.CAM_IMU_CTRL 7 7 = 1 →
      (s.cam.imuRead = none → ∃ t, exec (.imuDrdy at_) s = .next t ∧ t.cam = { s.cam with
          imuRead := some (now / tuStep), imuSent := leBytes 1 (fld s Reg.CAM_IMU_CTRL 22 16 + 128) } ∧
        TimeOnly { s with cam := t.cam } t) ∧
      (s.cam.imuRead ≠ none → ∃ t, exec (.imuDrdy at_) s = .next t ∧ t.cam = s.cam ∧
        (reg t Reg.CAM_MOTION_EVENTS).testBit 5 = true)) ∧
    (fld s Reg.CAM_IMU_CTRL 0 0 = 0 ∨ fld s Reg.CAM_IMU_CTRL 7 7 = 0 → exec (.imuDrdy at_) s = .next s) ∧
    (s.cam.imuRead = none → exec (.imuReadDone data) s = .next s) ∧
    ∀ u, s.cam.imuRead = some u → ∃ t l, exec (.imuReadDone data) s = .next t ∧
      t = { s with cam := { s.cam with imuRead := none, imu := some (u, l) } } ∧ l.length = 6 ∧
      ∀ k, k < 6 →
        let lo := data.extractLsb' (16 * k) 8
        let hi := data.extractLsb' (16 * k + 8) 8
        let v : Int := if (reg s Reg.CAM_IMU_CTRL).testBit 8 then (lo ++ hi : BitVec 16).toInt else (hi ++ lo : BitVec 16).toInt
        l[k]? = some (if (reg s Reg.CAM_IMU_CTRL).testBit (9 + k % 3) then -v else v)

/-! ## The whole machine -/

/-- R4, R47, R409: whatever the front command is, and on an empty queue, a step keeps the stores of device memory, of the command
pages and of the status pages in their one canonical form, so that equal contents are equal data.
The model's choices in it: assumption 113. -/
def Obligations.CanonicalKept : Prop :=
  ∀ s t : State, Canonical s → step s = .next t → Canonical t
end

