-- ==== Sys2Proof/Laws/Map.lean ====
section
/-! SUPPORT. Maps by number: what a read gives after a write. -/

namespace Sys2Proof.Machine

theorem Map.get_set_self {α : Type} (q : Nat) (v : α) : ∀ m : Map α, Map.get (Map.set m q v) q = some v
  | [] => by simp [Map.set, Map.get]
  | (k, u) :: r => by
    unfold Map.set
    split
    · simp [Map.get]
    · split
      · simp [Map.get]
      · rename_i h1 h2
        simp [Map.get, h1, h2, Map.get_set_self q v r]

theorem Map.get_set_ne {α : Type} (q p : Nat) (v : α) (h : p ≠ q) : ∀ m : Map α, Map.get (Map.set m q v) p = Map.get m p
  | [] => by simp [Map.set, Map.get, h]
  | (k, u) :: r => by
    unfold Map.set
    split
    · rename_i e; subst e; simp [Map.get, h]
    · split
      · rename_i h1 h2
        by_cases hp : p < q
        · have : p ≠ k := by omega
          have : p < k := by omega
          simp [Map.get, *]
        · simp [Map.get, h, hp]
      · rename_i h1 h2
        simp only [Map.get]
        rw [Map.get_set_ne q p v h r]

@[simp] theorem Map.getD_set_self {α : Type} (m : Map α) (q : Nat) (v d : α) : Map.getD (Map.set m q v) q d = v := by
  simp [Map.getD, Map.get_set_self]

theorem Map.getD_set_ne {α : Type} (m : Map α) (q p : Nat) (v d : α) (h : p ≠ q) :
    Map.getD (Map.set m q v) p d = Map.getD m p d := by
  simp [Map.getD, Map.get_set_ne q p v h]

end Sys2Proof.Machine
end

