-- ==== Sys2Proof/Laws/State.lean ====
section
/-! SUPPORT. What each named operation of Machine/Ops.lean and each write of Machine/Ring.lean leaves unchanged: one lemma for each field and operation. -/

namespace Sys2Proof.Machine

/-- A fold of steps that each keep a part of the state keeps it. -/
theorem foldl_keeps {α β : Type} (g : State → β) (f : State → α → State) (h : ∀ s a, g (f s a) = g s) :
    ∀ (l : List α) (s : State), g (l.foldl f s) = g s
  | [], _ => rfl
  | a :: r, s => by rw [List.foldl_cons, foldl_keeps g f h r (f s a), h]

@[simp] theorem poke_gradeX (s : State) (a v : Nat) : (poke s a v).gradeX = s.gradeX := rfl
@[simp] theorem poke_clk (s : State) (a v : Nat) : (poke s a v).clk = s.clk := rfl
@[simp] theorem poke_com (s : State) (a v : Nat) : (poke s a v).com = s.com := rfl
@[simp] theorem poke_log (s : State) (a v : Nat) : (poke s a v).log = s.log := rfl
@[simp] theorem poke_hpt (s : State) (a v : Nat) : (poke s a v).hpt = s.hpt := rfl
@[simp] theorem poke_pages (s : State) (a v : Nat) : (poke s a v).pages = s.pages := rfl
@[simp] theorem poke_status (s : State) (a v : Nat) : (poke s a v).status = s.status := rfl
@[simp] theorem poke_mem (s : State) (a v : Nat) : (poke s a v).mem = s.mem := rfl
@[simp] theorem poke_fab (s : State) (a v : Nat) : (poke s a v).fab = s.fab := rfl
@[simp] theorem poke_sch (s : State) (a v : Nat) : (poke s a v).sch = s.sch := rfl
@[simp] theorem poke_sec (s : State) (a v : Nat) : (poke s a v).sec = s.sec := rfl
@[simp] theorem poke_pwr (s : State) (a v : Nat) : (poke s a v).pwr = s.pwr := rfl
@[simp] theorem poke_pmc (s : State) (a v : Nat) : (poke s a v).pmc = s.pmc := rfl
@[simp] theorem poke_frs (s : State) (a v : Nat) : (poke s a v).frs = s.frs := rfl
@[simp] theorem poke_slv (s : State) (a v : Nat) : (poke s a v).slv = s.slv := rfl
@[simp] theorem poke_lys (s : State) (a v : Nat) : (poke s a v).lys = s.lys := rfl
@[simp] theorem poke_cam (s : State) (a v : Nat) : (poke s a v).cam = s.cam := rfl
@[simp] theorem poke_vsn (s : State) (a v : Nat) : (poke s a v).vsn = s.vsn := rfl
@[simp] theorem poke_syn (s : State) (a v : Nat) : (poke s a v).syn = s.syn := rfl
@[simp] theorem poke_trk (s : State) (a v : Nat) : (poke s a v).trk = s.trk := rfl
@[simp] theorem poke_vw (s : State) (a v : Nat) : (poke s a v).vw = s.vw := rfl
@[simp] theorem poke_vrs (s : State) (a v : Nat) : (poke s a v).vrs = s.vrs := rfl
@[simp] theorem poke_free (s : State) (a v : Nat) : (poke s a v).free = s.free := rfl
@[simp] theorem poke_pending (s : State) (a v : Nat) : (poke s a v).pending = s.pending := rfl

@[simp] theorem pokeF_gradeX (s : State) (a hi lo v : Nat) : (pokeF s a hi lo v).gradeX = s.gradeX := rfl
@[simp] theorem pokeF_clk (s : State) (a hi lo v : Nat) : (pokeF s a hi lo v).clk = s.clk := rfl
@[simp] theorem pokeF_com (s : State) (a hi lo v : Nat) : (pokeF s a hi lo v).com = s.com := rfl
@[simp] theorem pokeF_log (s : State) (a hi lo v : Nat) : (pokeF s a hi lo v).log = s.log := rfl
@[simp] theorem pokeF_hpt (s : State) (a hi lo v : Nat) : (pokeF s a hi lo v).hpt = s.hpt := rfl
@[simp] theorem pokeF_pages (s : State) (a hi lo v : Nat) : (pokeF s a hi lo v).pages = s.pages := rfl
@[simp] theorem pokeF_status (s : State) (a hi lo v : Nat) : (pokeF s a hi lo v).status = s.status := rfl
@[simp] theorem pokeF_mem (s : State) (a hi lo v : Nat) : (pokeF s a hi lo v).mem = s.mem := rfl
@[simp] theorem pokeF_fab (s : State) (a hi lo v : Nat) : (pokeF s a hi lo v).fab = s.fab := rfl
@[simp] theorem pokeF_sch (s : State) (a hi lo v : Nat) : (pokeF s a hi lo v).sch = s.sch := rfl
@[simp] theorem pokeF_sec (s : State) (a hi lo v : Nat) : (pokeF s a hi lo v).sec = s.sec := rfl
@[simp] theorem pokeF_pwr (s : State) (a hi lo v : Nat) : (pokeF s a hi lo v).pwr = s.pwr := rfl
@[simp] theorem pokeF_pmc (s : State) (a hi lo v : Nat) : (pokeF s a hi lo v).pmc = s.pmc := rfl
@[simp] theorem pokeF_frs (s : State) (a hi lo v : Nat) : (pokeF s a hi lo v).frs = s.frs := rfl
@[simp] theorem pokeF_slv (s : State) (a hi lo v : Nat) : (pokeF s a hi lo v).slv = s.slv := rfl
@[simp] theorem pokeF_lys (s : State) (a hi lo v : Nat) : (pokeF s a hi lo v).lys = s.lys := rfl
@[simp] theorem pokeF_cam (s : State) (a hi lo v : Nat) : (pokeF s a hi lo v).cam = s.cam := rfl
@[simp] theorem pokeF_vsn (s : State) (a hi lo v : Nat) : (pokeF s a hi lo v).vsn = s.vsn := rfl
@[simp] theorem pokeF_syn (s : State) (a hi lo v : Nat) : (pokeF s a hi lo v).syn = s.syn := rfl
@[simp] theorem pokeF_trk (s : State) (a hi lo v : Nat) : (pokeF s a hi lo v).trk = s.trk := rfl
@[simp] theorem pokeF_vw (s : State) (a hi lo v : Nat) : (pokeF s a hi lo v).vw = s.vw := rfl
@[simp] theorem pokeF_vrs (s : State) (a hi lo v : Nat) : (pokeF s a hi lo v).vrs = s.vrs := rfl
@[simp] theorem pokeF_free (s : State) (a hi lo v : Nat) : (pokeF s a hi lo v).free = s.free := rfl
@[simp] theorem pokeF_pending (s : State) (a hi lo v : Nat) : (pokeF s a hi lo v).pending = s.pending := rfl

@[simp] theorem orReg_gradeX (s : State) (a m : Nat) : (orReg s a m).gradeX = s.gradeX := rfl
@[simp] theorem orReg_clk (s : State) (a m : Nat) : (orReg s a m).clk = s.clk := rfl
@[simp] theorem orReg_com (s : State) (a m : Nat) : (orReg s a m).com = s.com := rfl
@[simp] theorem orReg_log (s : State) (a m : Nat) : (orReg s a m).log = s.log := rfl
@[simp] theorem orReg_hpt (s : State) (a m : Nat) : (orReg s a m).hpt = s.hpt := rfl
@[simp] theorem orReg_pages (s : State) (a m : Nat) : (orReg s a m).pages = s.pages := rfl
@[simp] theorem orReg_status (s : State) (a m : Nat) : (orReg s a m).status = s.status := rfl
@[simp] theorem orReg_mem (s : State) (a m : Nat) : (orReg s a m).mem = s.mem := rfl
@[simp] theorem orReg_fab (s : State) (a m : Nat) : (orReg s a m).fab = s.fab := rfl
@[simp] theorem orReg_sch (s : State) (a m : Nat) : (orReg s a m).sch = s.sch := rfl
@[simp] theorem orReg_sec (s : State) (a m : Nat) : (orReg s a m).sec = s.sec := rfl
@[simp] theorem orReg_pwr (s : State) (a m : Nat) : (orReg s a m).pwr = s.pwr := rfl
@[simp] theorem orReg_pmc (s : State) (a m : Nat) : (orReg s a m).pmc = s.pmc := rfl
@[simp] theorem orReg_frs (s : State) (a m : Nat) : (orReg s a m).frs = s.frs := rfl
@[simp] theorem orReg_slv (s : State) (a m : Nat) : (orReg s a m).slv = s.slv := rfl
@[simp] theorem orReg_lys (s : State) (a m : Nat) : (orReg s a m).lys = s.lys := rfl
@[simp] theorem orReg_cam (s : State) (a m : Nat) : (orReg s a m).cam = s.cam := rfl
@[simp] theorem orReg_vsn (s : State) (a m : Nat) : (orReg s a m).vsn = s.vsn := rfl
@[simp] theorem orReg_syn (s : State) (a m : Nat) : (orReg s a m).syn = s.syn := rfl
@[simp] theorem orReg_trk (s : State) (a m : Nat) : (orReg s a m).trk = s.trk := rfl
@[simp] theorem orReg_vw (s : State) (a m : Nat) : (orReg s a m).vw = s.vw := rfl
@[simp] theorem orReg_vrs (s : State) (a m : Nat) : (orReg s a m).vrs = s.vrs := rfl
@[simp] theorem orReg_free (s : State) (a m : Nat) : (orReg s a m).free = s.free := rfl
@[simp] theorem orReg_pending (s : State) (a m : Nat) : (orReg s a m).pending = s.pending := rfl

@[simp] theorem event_gradeX (s : State) (a k : Nat) : (event s a k).gradeX = s.gradeX := rfl
@[simp] theorem event_clk (s : State) (a k : Nat) : (event s a k).clk = s.clk := rfl
@[simp] theorem event_com (s : State) (a k : Nat) : (event s a k).com = s.com := rfl
@[simp] theorem event_log (s : State) (a k : Nat) : (event s a k).log = s.log := rfl
@[simp] theorem event_hpt (s : State) (a k : Nat) : (event s a k).hpt = s.hpt := rfl
@[simp] theorem event_pages (s : State) (a k : Nat) : (event s a k).pages = s.pages := rfl
@[simp] theorem event_status (s : State) (a k : Nat) : (event s a k).status = s.status := rfl
@[simp] theorem event_mem (s : State) (a k : Nat) : (event s a k).mem = s.mem := rfl
@[simp] theorem event_fab (s : State) (a k : Nat) : (event s a k).fab = s.fab := rfl
@[simp] theorem event_sch (s : State) (a k : Nat) : (event s a k).sch = s.sch := rfl
@[simp] theorem event_sec (s : State) (a k : Nat) : (event s a k).sec = s.sec := rfl
@[simp] theorem event_pwr (s : State) (a k : Nat) : (event s a k).pwr = s.pwr := rfl
@[simp] theorem event_pmc (s : State) (a k : Nat) : (event s a k).pmc = s.pmc := rfl
@[simp] theorem event_frs (s : State) (a k : Nat) : (event s a k).frs = s.frs := rfl
@[simp] theorem event_slv (s : State) (a k : Nat) : (event s a k).slv = s.slv := rfl
@[simp] theorem event_lys (s : State) (a k : Nat) : (event s a k).lys = s.lys := rfl
@[simp] theorem event_cam (s : State) (a k : Nat) : (event s a k).cam = s.cam := rfl
@[simp] theorem event_vsn (s : State) (a k : Nat) : (event s a k).vsn = s.vsn := rfl
@[simp] theorem event_syn (s : State) (a k : Nat) : (event s a k).syn = s.syn := rfl
@[simp] theorem event_trk (s : State) (a k : Nat) : (event s a k).trk = s.trk := rfl
@[simp] theorem event_vw (s : State) (a k : Nat) : (event s a k).vw = s.vw := rfl
@[simp] theorem event_vrs (s : State) (a k : Nat) : (event s a k).vrs = s.vrs := rfl
@[simp] theorem event_free (s : State) (a k : Nat) : (event s a k).free = s.free := rfl
@[simp] theorem event_pending (s : State) (a k : Nat) : (event s a k).pending = s.pending := rfl

@[simp] theorem countReg_gradeX (s : State) (a n : Nat) : (countReg s a n).gradeX = s.gradeX := rfl
@[simp] theorem countReg_clk (s : State) (a n : Nat) : (countReg s a n).clk = s.clk := rfl
@[simp] theorem countReg_com (s : State) (a n : Nat) : (countReg s a n).com = s.com := rfl
@[simp] theorem countReg_log (s : State) (a n : Nat) : (countReg s a n).log = s.log := rfl
@[simp] theorem countReg_hpt (s : State) (a n : Nat) : (countReg s a n).hpt = s.hpt := rfl
@[simp] theorem countReg_pages (s : State) (a n : Nat) : (countReg s a n).pages = s.pages := rfl
@[simp] theorem countReg_status (s : State) (a n : Nat) : (countReg s a n).status = s.status := rfl
@[simp] theorem countReg_mem (s : State) (a n : Nat) : (countReg s a n).mem = s.mem := rfl
@[simp] theorem countReg_fab (s : State) (a n : Nat) : (countReg s a n).fab = s.fab := rfl
@[simp] theorem countReg_sch (s : State) (a n : Nat) : (countReg s a n).sch = s.sch := rfl
@[simp] theorem countReg_sec (s : State) (a n : Nat) : (countReg s a n).sec = s.sec := rfl
@[simp] theorem countReg_pwr (s : State) (a n : Nat) : (countReg s a n).pwr = s.pwr := rfl
@[simp] theorem countReg_pmc (s : State) (a n : Nat) : (countReg s a n).pmc = s.pmc := rfl
@[simp] theorem countReg_frs (s : State) (a n : Nat) : (countReg s a n).frs = s.frs := rfl
@[simp] theorem countReg_slv (s : State) (a n : Nat) : (countReg s a n).slv = s.slv := rfl
@[simp] theorem countReg_lys (s : State) (a n : Nat) : (countReg s a n).lys = s.lys := rfl
@[simp] theorem countReg_cam (s : State) (a n : Nat) : (countReg s a n).cam = s.cam := rfl
@[simp] theorem countReg_vsn (s : State) (a n : Nat) : (countReg s a n).vsn = s.vsn := rfl
@[simp] theorem countReg_syn (s : State) (a n : Nat) : (countReg s a n).syn = s.syn := rfl
@[simp] theorem countReg_trk (s : State) (a n : Nat) : (countReg s a n).trk = s.trk := rfl
@[simp] theorem countReg_vw (s : State) (a n : Nat) : (countReg s a n).vw = s.vw := rfl
@[simp] theorem countReg_vrs (s : State) (a n : Nat) : (countReg s a n).vrs = s.vrs := rfl
@[simp] theorem countReg_free (s : State) (a n : Nat) : (countReg s a n).free = s.free := rfl
@[simp] theorem countReg_pending (s : State) (a n : Nat) : (countReg s a n).pending = s.pending := rfl

@[simp] theorem countSat_gradeX (s : State) (a n : Nat) : (countSat s a n).gradeX = s.gradeX := rfl
@[simp] theorem countSat_clk (s : State) (a n : Nat) : (countSat s a n).clk = s.clk := rfl
@[simp] theorem countSat_com (s : State) (a n : Nat) : (countSat s a n).com = s.com := rfl
@[simp] theorem countSat_log (s : State) (a n : Nat) : (countSat s a n).log = s.log := rfl
@[simp] theorem countSat_hpt (s : State) (a n : Nat) : (countSat s a n).hpt = s.hpt := rfl
@[simp] theorem countSat_pages (s : State) (a n : Nat) : (countSat s a n).pages = s.pages := rfl
@[simp] theorem countSat_status (s : State) (a n : Nat) : (countSat s a n).status = s.status := rfl
@[simp] theorem countSat_mem (s : State) (a n : Nat) : (countSat s a n).mem = s.mem := rfl
@[simp] theorem countSat_fab (s : State) (a n : Nat) : (countSat s a n).fab = s.fab := rfl
@[simp] theorem countSat_sch (s : State) (a n : Nat) : (countSat s a n).sch = s.sch := rfl
@[simp] theorem countSat_sec (s : State) (a n : Nat) : (countSat s a n).sec = s.sec := rfl
@[simp] theorem countSat_pwr (s : State) (a n : Nat) : (countSat s a n).pwr = s.pwr := rfl
@[simp] theorem countSat_pmc (s : State) (a n : Nat) : (countSat s a n).pmc = s.pmc := rfl
@[simp] theorem countSat_frs (s : State) (a n : Nat) : (countSat s a n).frs = s.frs := rfl
@[simp] theorem countSat_slv (s : State) (a n : Nat) : (countSat s a n).slv = s.slv := rfl
@[simp] theorem countSat_lys (s : State) (a n : Nat) : (countSat s a n).lys = s.lys := rfl
@[simp] theorem countSat_cam (s : State) (a n : Nat) : (countSat s a n).cam = s.cam := rfl
@[simp] theorem countSat_vsn (s : State) (a n : Nat) : (countSat s a n).vsn = s.vsn := rfl
@[simp] theorem countSat_syn (s : State) (a n : Nat) : (countSat s a n).syn = s.syn := rfl
@[simp] theorem countSat_trk (s : State) (a n : Nat) : (countSat s a n).trk = s.trk := rfl
@[simp] theorem countSat_vw (s : State) (a n : Nat) : (countSat s a n).vw = s.vw := rfl
@[simp] theorem countSat_vrs (s : State) (a n : Nat) : (countSat s a n).vrs = s.vrs := rfl
@[simp] theorem countSat_free (s : State) (a n : Nat) : (countSat s a n).free = s.free := rfl
@[simp] theorem countSat_pending (s : State) (a n : Nat) : (countSat s a n).pending = s.pending := rfl

@[simp] theorem countFieldSat_gradeX (s : State) (a hi lo n : Nat) : (countFieldSat s a hi lo n).gradeX = s.gradeX := rfl
@[simp] theorem countFieldSat_clk (s : State) (a hi lo n : Nat) : (countFieldSat s a hi lo n).clk = s.clk := rfl
@[simp] theorem countFieldSat_com (s : State) (a hi lo n : Nat) : (countFieldSat s a hi lo n).com = s.com := rfl
@[simp] theorem countFieldSat_log (s : State) (a hi lo n : Nat) : (countFieldSat s a hi lo n).log = s.log := rfl
@[simp] theorem countFieldSat_hpt (s : State) (a hi lo n : Nat) : (countFieldSat s a hi lo n).hpt = s.hpt := rfl
@[simp] theorem countFieldSat_pages (s : State) (a hi lo n : Nat) : (countFieldSat s a hi lo n).pages = s.pages := rfl
@[simp] theorem countFieldSat_status (s : State) (a hi lo n : Nat) : (countFieldSat s a hi lo n).status = s.status := rfl
@[simp] theorem countFieldSat_mem (s : State) (a hi lo n : Nat) : (countFieldSat s a hi lo n).mem = s.mem := rfl
@[simp] theorem countFieldSat_fab (s : State) (a hi lo n : Nat) : (countFieldSat s a hi lo n).fab = s.fab := rfl
@[simp] theorem countFieldSat_sch (s : State) (a hi lo n : Nat) : (countFieldSat s a hi lo n).sch = s.sch := rfl
@[simp] theorem countFieldSat_sec (s : State) (a hi lo n : Nat) : (countFieldSat s a hi lo n).sec = s.sec := rfl
@[simp] theorem countFieldSat_pwr (s : State) (a hi lo n : Nat) : (countFieldSat s a hi lo n).pwr = s.pwr := rfl
@[simp] theorem countFieldSat_pmc (s : State) (a hi lo n : Nat) : (countFieldSat s a hi lo n).pmc = s.pmc := rfl
@[simp] theorem countFieldSat_frs (s : State) (a hi lo n : Nat) : (countFieldSat s a hi lo n).frs = s.frs := rfl
@[simp] theorem countFieldSat_slv (s : State) (a hi lo n : Nat) : (countFieldSat s a hi lo n).slv = s.slv := rfl
@[simp] theorem countFieldSat_lys (s : State) (a hi lo n : Nat) : (countFieldSat s a hi lo n).lys = s.lys := rfl
@[simp] theorem countFieldSat_cam (s : State) (a hi lo n : Nat) : (countFieldSat s a hi lo n).cam = s.cam := rfl
@[simp] theorem countFieldSat_vsn (s : State) (a hi lo n : Nat) : (countFieldSat s a hi lo n).vsn = s.vsn := rfl
@[simp] theorem countFieldSat_syn (s : State) (a hi lo n : Nat) : (countFieldSat s a hi lo n).syn = s.syn := rfl
@[simp] theorem countFieldSat_trk (s : State) (a hi lo n : Nat) : (countFieldSat s a hi lo n).trk = s.trk := rfl
@[simp] theorem countFieldSat_vw (s : State) (a hi lo n : Nat) : (countFieldSat s a hi lo n).vw = s.vw := rfl
@[simp] theorem countFieldSat_vrs (s : State) (a hi lo n : Nat) : (countFieldSat s a hi lo n).vrs = s.vrs := rfl
@[simp] theorem countFieldSat_free (s : State) (a hi lo n : Nat) : (countFieldSat s a hi lo n).free = s.free := rfl
@[simp] theorem countFieldSat_pending (s : State) (a hi lo n : Nat) : (countFieldSat s a hi lo n).pending = s.pending := rfl

@[simp] theorem countField_gradeX (s : State) (a hi lo n : Nat) : (countField s a hi lo n).gradeX = s.gradeX := rfl
@[simp] theorem countField_clk (s : State) (a hi lo n : Nat) : (countField s a hi lo n).clk = s.clk := rfl
@[simp] theorem countField_com (s : State) (a hi lo n : Nat) : (countField s a hi lo n).com = s.com := rfl
@[simp] theorem countField_log (s : State) (a hi lo n : Nat) : (countField s a hi lo n).log = s.log := rfl
@[simp] theorem countField_hpt (s : State) (a hi lo n : Nat) : (countField s a hi lo n).hpt = s.hpt := rfl
@[simp] theorem countField_pages (s : State) (a hi lo n : Nat) : (countField s a hi lo n).pages = s.pages := rfl
@[simp] theorem countField_status (s : State) (a hi lo n : Nat) : (countField s a hi lo n).status = s.status := rfl
@[simp] theorem countField_mem (s : State) (a hi lo n : Nat) : (countField s a hi lo n).mem = s.mem := rfl
@[simp] theorem countField_fab (s : State) (a hi lo n : Nat) : (countField s a hi lo n).fab = s.fab := rfl
@[simp] theorem countField_sch (s : State) (a hi lo n : Nat) : (countField s a hi lo n).sch = s.sch := rfl
@[simp] theorem countField_sec (s : State) (a hi lo n : Nat) : (countField s a hi lo n).sec = s.sec := rfl
@[simp] theorem countField_pwr (s : State) (a hi lo n : Nat) : (countField s a hi lo n).pwr = s.pwr := rfl
@[simp] theorem countField_pmc (s : State) (a hi lo n : Nat) : (countField s a hi lo n).pmc = s.pmc := rfl
@[simp] theorem countField_frs (s : State) (a hi lo n : Nat) : (countField s a hi lo n).frs = s.frs := rfl
@[simp] theorem countField_slv (s : State) (a hi lo n : Nat) : (countField s a hi lo n).slv = s.slv := rfl
@[simp] theorem countField_lys (s : State) (a hi lo n : Nat) : (countField s a hi lo n).lys = s.lys := rfl
@[simp] theorem countField_cam (s : State) (a hi lo n : Nat) : (countField s a hi lo n).cam = s.cam := rfl
@[simp] theorem countField_vsn (s : State) (a hi lo n : Nat) : (countField s a hi lo n).vsn = s.vsn := rfl
@[simp] theorem countField_syn (s : State) (a hi lo n : Nat) : (countField s a hi lo n).syn = s.syn := rfl
@[simp] theorem countField_trk (s : State) (a hi lo n : Nat) : (countField s a hi lo n).trk = s.trk := rfl
@[simp] theorem countField_vw (s : State) (a hi lo n : Nat) : (countField s a hi lo n).vw = s.vw := rfl
@[simp] theorem countField_vrs (s : State) (a hi lo n : Nat) : (countField s a hi lo n).vrs = s.vrs := rfl
@[simp] theorem countField_free (s : State) (a hi lo n : Nat) : (countField s a hi lo n).free = s.free := rfl
@[simp] theorem countField_pending (s : State) (a hi lo n : Nat) : (countField s a hi lo n).pending = s.pending := rfl

@[simp] theorem protect_gradeX (s : State) : (protect s).gradeX = s.gradeX := rfl
@[simp] theorem protect_clk (s : State) : (protect s).clk = s.clk := rfl
@[simp] theorem protect_com (s : State) : (protect s).com = s.com := rfl
@[simp] theorem protect_log (s : State) : (protect s).log = s.log := rfl
@[simp] theorem protect_hpt (s : State) : (protect s).hpt = s.hpt := rfl
@[simp] theorem protect_pages (s : State) : (protect s).pages = s.pages := rfl
@[simp] theorem protect_status (s : State) : (protect s).status = s.status := rfl
@[simp] theorem protect_mem (s : State) : (protect s).mem = s.mem := rfl
@[simp] theorem protect_fab (s : State) : (protect s).fab = s.fab := rfl
@[simp] theorem protect_sch (s : State) : (protect s).sch = s.sch := rfl
@[simp] theorem protect_sec (s : State) : (protect s).sec = s.sec := rfl
@[simp] theorem protect_pwr (s : State) : (protect s).pwr = s.pwr := rfl
@[simp] theorem protect_pmc (s : State) : (protect s).pmc = s.pmc := rfl
@[simp] theorem protect_frs (s : State) : (protect s).frs = s.frs := rfl
@[simp] theorem protect_slv (s : State) : (protect s).slv = s.slv := rfl
@[simp] theorem protect_lys (s : State) : (protect s).lys = s.lys := rfl
@[simp] theorem protect_cam (s : State) : (protect s).cam = s.cam := rfl
@[simp] theorem protect_vsn (s : State) : (protect s).vsn = s.vsn := rfl
@[simp] theorem protect_syn (s : State) : (protect s).syn = s.syn := rfl
@[simp] theorem protect_trk (s : State) : (protect s).trk = s.trk := rfl
@[simp] theorem protect_vw (s : State) : (protect s).vw = s.vw := rfl
@[simp] theorem protect_vrs (s : State) : (protect s).vrs = s.vrs := rfl
@[simp] theorem protect_free (s : State) : (protect s).free = s.free := rfl
@[simp] theorem protect_pending (s : State) : (protect s).pending = s.pending := rfl

@[simp] theorem devWrite_gradeX (s : State) (a : Nat) (d : List Byte) : (devWrite s a d).gradeX = s.gradeX := rfl
@[simp] theorem devWrite_regs (s : State) (a : Nat) (d : List Byte) : (devWrite s a d).regs = s.regs := rfl
@[simp] theorem devWrite_clk (s : State) (a : Nat) (d : List Byte) : (devWrite s a d).clk = s.clk := rfl
@[simp] theorem devWrite_com (s : State) (a : Nat) (d : List Byte) : (devWrite s a d).com = s.com := rfl
@[simp] theorem devWrite_log (s : State) (a : Nat) (d : List Byte) : (devWrite s a d).log = s.log := rfl
@[simp] theorem devWrite_hpt (s : State) (a : Nat) (d : List Byte) : (devWrite s a d).hpt = s.hpt := rfl
@[simp] theorem devWrite_pages (s : State) (a : Nat) (d : List Byte) : (devWrite s a d).pages = s.pages := rfl
@[simp] theorem devWrite_status (s : State) (a : Nat) (d : List Byte) : (devWrite s a d).status = s.status := rfl
@[simp] theorem devWrite_fab (s : State) (a : Nat) (d : List Byte) : (devWrite s a d).fab = s.fab := rfl
@[simp] theorem devWrite_sch (s : State) (a : Nat) (d : List Byte) : (devWrite s a d).sch = s.sch := rfl
@[simp] theorem devWrite_sec (s : State) (a : Nat) (d : List Byte) : (devWrite s a d).sec = s.sec := rfl
@[simp] theorem devWrite_pwr (s : State) (a : Nat) (d : List Byte) : (devWrite s a d).pwr = s.pwr := rfl
@[simp] theorem devWrite_pmc (s : State) (a : Nat) (d : List Byte) : (devWrite s a d).pmc = s.pmc := rfl
@[simp] theorem devWrite_frs (s : State) (a : Nat) (d : List Byte) : (devWrite s a d).frs = s.frs := rfl
@[simp] theorem devWrite_slv (s : State) (a : Nat) (d : List Byte) : (devWrite s a d).slv = s.slv := rfl
@[simp] theorem devWrite_lys (s : State) (a : Nat) (d : List Byte) : (devWrite s a d).lys = s.lys := rfl
@[simp] theorem devWrite_cam (s : State) (a : Nat) (d : List Byte) : (devWrite s a d).cam = s.cam := rfl
@[simp] theorem devWrite_vsn (s : State) (a : Nat) (d : List Byte) : (devWrite s a d).vsn = s.vsn := rfl
@[simp] theorem devWrite_syn (s : State) (a : Nat) (d : List Byte) : (devWrite s a d).syn = s.syn := rfl
@[simp] theorem devWrite_trk (s : State) (a : Nat) (d : List Byte) : (devWrite s a d).trk = s.trk := rfl
@[simp] theorem devWrite_vw (s : State) (a : Nat) (d : List Byte) : (devWrite s a d).vw = s.vw := rfl
@[simp] theorem devWrite_vrs (s : State) (a : Nat) (d : List Byte) : (devWrite s a d).vrs = s.vrs := rfl
@[simp] theorem devWrite_free (s : State) (a : Nat) (d : List Byte) : (devWrite s a d).free = s.free := rfl
@[simp] theorem devWrite_pending (s : State) (a : Nat) (d : List Byte) : (devWrite s a d).pending = s.pending := rfl

@[simp] theorem devWriteMasked_gradeX (s : State) (a : Nat) (d : List (Byte × Bool)) : (devWriteMasked s a d).gradeX = s.gradeX := by unfold devWriteMasked; split <;> rfl
@[simp] theorem devWriteMasked_regs (s : State) (a : Nat) (d : List (Byte × Bool)) : (devWriteMasked s a d).regs = s.regs := by unfold devWriteMasked; split <;> rfl
@[simp] theorem devWriteMasked_clk (s : State) (a : Nat) (d : List (Byte × Bool)) : (devWriteMasked s a d).clk = s.clk := by unfold devWriteMasked; split <;> rfl
@[simp] theorem devWriteMasked_com (s : State) (a : Nat) (d : List (Byte × Bool)) : (devWriteMasked s a d).com = s.com := by unfold devWriteMasked; split <;> rfl
@[simp] theorem devWriteMasked_log (s : State) (a : Nat) (d : List (Byte × Bool)) : (devWriteMasked s a d).log = s.log := by unfold devWriteMasked; split <;> rfl
@[simp] theorem devWriteMasked_hpt (s : State) (a : Nat) (d : List (Byte × Bool)) : (devWriteMasked s a d).hpt = s.hpt := by unfold devWriteMasked; split <;> rfl
@[simp] theorem devWriteMasked_pages (s : State) (a : Nat) (d : List (Byte × Bool)) : (devWriteMasked s a d).pages = s.pages := by unfold devWriteMasked; split <;> rfl
@[simp] theorem devWriteMasked_status (s : State) (a : Nat) (d : List (Byte × Bool)) : (devWriteMasked s a d).status = s.status := by unfold devWriteMasked; split <;> rfl
@[simp] theorem devWriteMasked_fab (s : State) (a : Nat) (d : List (Byte × Bool)) : (devWriteMasked s a d).fab = s.fab := by unfold devWriteMasked; split <;> rfl
@[simp] theorem devWriteMasked_sch (s : State) (a : Nat) (d : List (Byte × Bool)) : (devWriteMasked s a d).sch = s.sch := by unfold devWriteMasked; split <;> rfl
@[simp] theorem devWriteMasked_sec (s : State) (a : Nat) (d : List (Byte × Bool)) : (devWriteMasked s a d).sec = s.sec := by unfold devWriteMasked; split <;> rfl
@[simp] theorem devWriteMasked_pwr (s : State) (a : Nat) (d : List (Byte × Bool)) : (devWriteMasked s a d).pwr = s.pwr := by unfold devWriteMasked; split <;> rfl
@[simp] theorem devWriteMasked_pmc (s : State) (a : Nat) (d : List (Byte × Bool)) : (devWriteMasked s a d).pmc = s.pmc := by unfold devWriteMasked; split <;> rfl
@[simp] theorem devWriteMasked_frs (s : State) (a : Nat) (d : List (Byte × Bool)) : (devWriteMasked s a d).frs = s.frs := by unfold devWriteMasked; split <;> rfl
@[simp] theorem devWriteMasked_slv (s : State) (a : Nat) (d : List (Byte × Bool)) : (devWriteMasked s a d).slv = s.slv := by unfold devWriteMasked; split <;> rfl
@[simp] theorem devWriteMasked_lys (s : State) (a : Nat) (d : List (Byte × Bool)) : (devWriteMasked s a d).lys = s.lys := by unfold devWriteMasked; split <;> rfl
@[simp] theorem devWriteMasked_cam (s : State) (a : Nat) (d : List (Byte × Bool)) : (devWriteMasked s a d).cam = s.cam := by unfold devWriteMasked; split <;> rfl
@[simp] theorem devWriteMasked_vsn (s : State) (a : Nat) (d : List (Byte × Bool)) : (devWriteMasked s a d).vsn = s.vsn := by unfold devWriteMasked; split <;> rfl
@[simp] theorem devWriteMasked_syn (s : State) (a : Nat) (d : List (Byte × Bool)) : (devWriteMasked s a d).syn = s.syn := by unfold devWriteMasked; split <;> rfl
@[simp] theorem devWriteMasked_trk (s : State) (a : Nat) (d : List (Byte × Bool)) : (devWriteMasked s a d).trk = s.trk := by unfold devWriteMasked; split <;> rfl
@[simp] theorem devWriteMasked_vw (s : State) (a : Nat) (d : List (Byte × Bool)) : (devWriteMasked s a d).vw = s.vw := by unfold devWriteMasked; split <;> rfl
@[simp] theorem devWriteMasked_vrs (s : State) (a : Nat) (d : List (Byte × Bool)) : (devWriteMasked s a d).vrs = s.vrs := by unfold devWriteMasked; split <;> rfl
@[simp] theorem devWriteMasked_free (s : State) (a : Nat) (d : List (Byte × Bool)) : (devWriteMasked s a d).free = s.free := by unfold devWriteMasked; split <;> rfl
@[simp] theorem devWriteMasked_pending (s : State) (a : Nat) (d : List (Byte × Bool)) : (devWriteMasked s a d).pending = s.pending := by unfold devWriteMasked; split <;> rfl

@[simp] theorem devPoison_gradeX (s : State) (l : List Nat) : (devPoison s l).gradeX = s.gradeX := rfl
@[simp] theorem devPoison_regs (s : State) (l : List Nat) : (devPoison s l).regs = s.regs := rfl
@[simp] theorem devPoison_clk (s : State) (l : List Nat) : (devPoison s l).clk = s.clk := rfl
@[simp] theorem devPoison_com (s : State) (l : List Nat) : (devPoison s l).com = s.com := rfl
@[simp] theorem devPoison_log (s : State) (l : List Nat) : (devPoison s l).log = s.log := rfl
@[simp] theorem devPoison_hpt (s : State) (l : List Nat) : (devPoison s l).hpt = s.hpt := rfl
@[simp] theorem devPoison_pages (s : State) (l : List Nat) : (devPoison s l).pages = s.pages := rfl
@[simp] theorem devPoison_status (s : State) (l : List Nat) : (devPoison s l).status = s.status := rfl
@[simp] theorem devPoison_fab (s : State) (l : List Nat) : (devPoison s l).fab = s.fab := rfl
@[simp] theorem devPoison_sch (s : State) (l : List Nat) : (devPoison s l).sch = s.sch := rfl
@[simp] theorem devPoison_sec (s : State) (l : List Nat) : (devPoison s l).sec = s.sec := rfl
@[simp] theorem devPoison_pwr (s : State) (l : List Nat) : (devPoison s l).pwr = s.pwr := rfl
@[simp] theorem devPoison_pmc (s : State) (l : List Nat) : (devPoison s l).pmc = s.pmc := rfl
@[simp] theorem devPoison_frs (s : State) (l : List Nat) : (devPoison s l).frs = s.frs := rfl
@[simp] theorem devPoison_slv (s : State) (l : List Nat) : (devPoison s l).slv = s.slv := rfl
@[simp] theorem devPoison_lys (s : State) (l : List Nat) : (devPoison s l).lys = s.lys := rfl
@[simp] theorem devPoison_cam (s : State) (l : List Nat) : (devPoison s l).cam = s.cam := rfl
@[simp] theorem devPoison_vsn (s : State) (l : List Nat) : (devPoison s l).vsn = s.vsn := rfl
@[simp] theorem devPoison_syn (s : State) (l : List Nat) : (devPoison s l).syn = s.syn := rfl
@[simp] theorem devPoison_trk (s : State) (l : List Nat) : (devPoison s l).trk = s.trk := rfl
@[simp] theorem devPoison_vw (s : State) (l : List Nat) : (devPoison s l).vw = s.vw := rfl
@[simp] theorem devPoison_vrs (s : State) (l : List Nat) : (devPoison s l).vrs = s.vrs := rfl
@[simp] theorem devPoison_free (s : State) (l : List Nat) : (devPoison s l).free = s.free := rfl
@[simp] theorem devPoison_pending (s : State) (l : List Nat) : (devPoison s l).pending = s.pending := rfl

@[simp] theorem statWrite_gradeX (s : State) (a : Nat) (d : List Byte) : (statWrite s a d).gradeX = s.gradeX := rfl
@[simp] theorem statWrite_regs (s : State) (a : Nat) (d : List Byte) : (statWrite s a d).regs = s.regs := rfl
@[simp] theorem statWrite_clk (s : State) (a : Nat) (d : List Byte) : (statWrite s a d).clk = s.clk := rfl
@[simp] theorem statWrite_com (s : State) (a : Nat) (d : List Byte) : (statWrite s a d).com = s.com := rfl
@[simp] theorem statWrite_log (s : State) (a : Nat) (d : List Byte) : (statWrite s a d).log = s.log := rfl
@[simp] theorem statWrite_hpt (s : State) (a : Nat) (d : List Byte) : (statWrite s a d).hpt = s.hpt := rfl
@[simp] theorem statWrite_pages (s : State) (a : Nat) (d : List Byte) : (statWrite s a d).pages = s.pages := rfl
@[simp] theorem statWrite_mem (s : State) (a : Nat) (d : List Byte) : (statWrite s a d).mem = s.mem := rfl
@[simp] theorem statWrite_fab (s : State) (a : Nat) (d : List Byte) : (statWrite s a d).fab = s.fab := rfl
@[simp] theorem statWrite_sch (s : State) (a : Nat) (d : List Byte) : (statWrite s a d).sch = s.sch := rfl
@[simp] theorem statWrite_sec (s : State) (a : Nat) (d : List Byte) : (statWrite s a d).sec = s.sec := rfl
@[simp] theorem statWrite_pwr (s : State) (a : Nat) (d : List Byte) : (statWrite s a d).pwr = s.pwr := rfl
@[simp] theorem statWrite_pmc (s : State) (a : Nat) (d : List Byte) : (statWrite s a d).pmc = s.pmc := rfl
@[simp] theorem statWrite_frs (s : State) (a : Nat) (d : List Byte) : (statWrite s a d).frs = s.frs := rfl
@[simp] theorem statWrite_slv (s : State) (a : Nat) (d : List Byte) : (statWrite s a d).slv = s.slv := rfl
@[simp] theorem statWrite_lys (s : State) (a : Nat) (d : List Byte) : (statWrite s a d).lys = s.lys := rfl
@[simp] theorem statWrite_cam (s : State) (a : Nat) (d : List Byte) : (statWrite s a d).cam = s.cam := rfl
@[simp] theorem statWrite_vsn (s : State) (a : Nat) (d : List Byte) : (statWrite s a d).vsn = s.vsn := rfl
@[simp] theorem statWrite_syn (s : State) (a : Nat) (d : List Byte) : (statWrite s a d).syn = s.syn := rfl
@[simp] theorem statWrite_trk (s : State) (a : Nat) (d : List Byte) : (statWrite s a d).trk = s.trk := rfl
@[simp] theorem statWrite_vw (s : State) (a : Nat) (d : List Byte) : (statWrite s a d).vw = s.vw := rfl
@[simp] theorem statWrite_vrs (s : State) (a : Nat) (d : List Byte) : (statWrite s a d).vrs = s.vrs := rfl
@[simp] theorem statWrite_free (s : State) (a : Nat) (d : List Byte) : (statWrite s a d).free = s.free := rfl
@[simp] theorem statWrite_pending (s : State) (a : Nat) (d : List Byte) : (statWrite s a d).pending = s.pending := rfl

@[simp] theorem stat4_gradeX (s : State) (a v : Nat) : (stat4 s a v).gradeX = s.gradeX := rfl
@[simp] theorem stat4_regs (s : State) (a v : Nat) : (stat4 s a v).regs = s.regs := rfl
@[simp] theorem stat4_clk (s : State) (a v : Nat) : (stat4 s a v).clk = s.clk := rfl
@[simp] theorem stat4_com (s : State) (a v : Nat) : (stat4 s a v).com = s.com := rfl
@[simp] theorem stat4_log (s : State) (a v : Nat) : (stat4 s a v).log = s.log := rfl
@[simp] theorem stat4_hpt (s : State) (a v : Nat) : (stat4 s a v).hpt = s.hpt := rfl
@[simp] theorem stat4_pages (s : State) (a v : Nat) : (stat4 s a v).pages = s.pages := rfl
@[simp] theorem stat4_mem (s : State) (a v : Nat) : (stat4 s a v).mem = s.mem := rfl
@[simp] theorem stat4_fab (s : State) (a v : Nat) : (stat4 s a v).fab = s.fab := rfl
@[simp] theorem stat4_sch (s : State) (a v : Nat) : (stat4 s a v).sch = s.sch := rfl
@[simp] theorem stat4_sec (s : State) (a v : Nat) : (stat4 s a v).sec = s.sec := rfl
@[simp] theorem stat4_pwr (s : State) (a v : Nat) : (stat4 s a v).pwr = s.pwr := rfl
@[simp] theorem stat4_pmc (s : State) (a v : Nat) : (stat4 s a v).pmc = s.pmc := rfl
@[simp] theorem stat4_frs (s : State) (a v : Nat) : (stat4 s a v).frs = s.frs := rfl
@[simp] theorem stat4_slv (s : State) (a v : Nat) : (stat4 s a v).slv = s.slv := rfl
@[simp] theorem stat4_lys (s : State) (a v : Nat) : (stat4 s a v).lys = s.lys := rfl
@[simp] theorem stat4_cam (s : State) (a v : Nat) : (stat4 s a v).cam = s.cam := rfl
@[simp] theorem stat4_vsn (s : State) (a v : Nat) : (stat4 s a v).vsn = s.vsn := rfl
@[simp] theorem stat4_syn (s : State) (a v : Nat) : (stat4 s a v).syn = s.syn := rfl
@[simp] theorem stat4_trk (s : State) (a v : Nat) : (stat4 s a v).trk = s.trk := rfl
@[simp] theorem stat4_vw (s : State) (a v : Nat) : (stat4 s a v).vw = s.vw := rfl
@[simp] theorem stat4_vrs (s : State) (a v : Nat) : (stat4 s a v).vrs = s.vrs := rfl
@[simp] theorem stat4_free (s : State) (a v : Nat) : (stat4 s a v).free = s.free := rfl
@[simp] theorem stat4_pending (s : State) (a v : Nat) : (stat4 s a v).pending = s.pending := rfl

@[simp] theorem drawFree_gradeX (s : State) : (drawFree s).gradeX = s.gradeX := rfl
@[simp] theorem drawFree_regs (s : State) : (drawFree s).regs = s.regs := rfl
@[simp] theorem drawFree_clk (s : State) : (drawFree s).clk = s.clk := rfl
@[simp] theorem drawFree_com (s : State) : (drawFree s).com = s.com := rfl
@[simp] theorem drawFree_log (s : State) : (drawFree s).log = s.log := rfl
@[simp] theorem drawFree_hpt (s : State) : (drawFree s).hpt = s.hpt := rfl
@[simp] theorem drawFree_pages (s : State) : (drawFree s).pages = s.pages := rfl
@[simp] theorem drawFree_status (s : State) : (drawFree s).status = s.status := rfl
@[simp] theorem drawFree_mem (s : State) : (drawFree s).mem = s.mem := rfl
@[simp] theorem drawFree_fab (s : State) : (drawFree s).fab = s.fab := rfl
@[simp] theorem drawFree_sch (s : State) : (drawFree s).sch = s.sch := rfl
@[simp] theorem drawFree_sec (s : State) : (drawFree s).sec = s.sec := rfl
@[simp] theorem drawFree_pwr (s : State) : (drawFree s).pwr = s.pwr := rfl
@[simp] theorem drawFree_pmc (s : State) : (drawFree s).pmc = s.pmc := rfl
@[simp] theorem drawFree_frs (s : State) : (drawFree s).frs = s.frs := rfl
@[simp] theorem drawFree_slv (s : State) : (drawFree s).slv = s.slv := rfl
@[simp] theorem drawFree_lys (s : State) : (drawFree s).lys = s.lys := rfl
@[simp] theorem drawFree_cam (s : State) : (drawFree s).cam = s.cam := rfl
@[simp] theorem drawFree_vsn (s : State) : (drawFree s).vsn = s.vsn := rfl
@[simp] theorem drawFree_syn (s : State) : (drawFree s).syn = s.syn := rfl
@[simp] theorem drawFree_trk (s : State) : (drawFree s).trk = s.trk := rfl
@[simp] theorem drawFree_vw (s : State) : (drawFree s).vw = s.vw := rfl
@[simp] theorem drawFree_vrs (s : State) : (drawFree s).vrs = s.vrs := rfl
@[simp] theorem drawFree_pending (s : State) : (drawFree s).pending = s.pending := rfl

@[simp] theorem pmcBump_gradeX (s : State) (n k : Nat) : (pmcBump s n k).gradeX = s.gradeX := by
  unfold pmcBump; dsimp only; repeat' split
  all_goals rfl
@[simp] theorem pmcBump_clk (s : State) (n k : Nat) : (pmcBump s n k).clk = s.clk := by
  unfold pmcBump; dsimp only; repeat' split
  all_goals rfl
@[simp] theorem pmcBump_com (s : State) (n k : Nat) : (pmcBump s n k).com = s.com := by
  unfold pmcBump; dsimp only; repeat' split
  all_goals rfl
@[simp] theorem pmcBump_log (s : State) (n k : Nat) : (pmcBump s n k).log = s.log := by
  unfold pmcBump; dsimp only; repeat' split
  all_goals rfl
@[simp] theorem pmcBump_hpt (s : State) (n k : Nat) : (pmcBump s n k).hpt = s.hpt := by
  unfold pmcBump; dsimp only; repeat' split
  all_goals rfl
@[simp] theorem pmcBump_pages (s : State) (n k : Nat) : (pmcBump s n k).pages = s.pages := by
  unfold pmcBump; dsimp only; repeat' split
  all_goals rfl
@[simp] theorem pmcBump_status (s : State) (n k : Nat) : (pmcBump s n k).status = s.status := by
  unfold pmcBump; dsimp only; repeat' split
  all_goals rfl
@[simp] theorem pmcBump_mem (s : State) (n k : Nat) : (pmcBump s n k).mem = s.mem := by
  unfold pmcBump; dsimp only; repeat' split
  all_goals rfl
@[simp] theorem pmcBump_fab (s : State) (n k : Nat) : (pmcBump s n k).fab = s.fab := by
  unfold pmcBump; dsimp only; repeat' split
  all_goals rfl
@[simp] theorem pmcBump_sch (s : State) (n k : Nat) : (pmcBump s n k).sch = s.sch := by
  unfold pmcBump; dsimp only; repeat' split
  all_goals rfl
@[simp] theorem pmcBump_sec (s : State) (n k : Nat) : (pmcBump s n k).sec = s.sec := by
  unfold pmcBump; dsimp only; repeat' split
  all_goals rfl
@[simp] theorem pmcBump_pwr (s : State) (n k : Nat) : (pmcBump s n k).pwr = s.pwr := by
  unfold pmcBump; dsimp only; repeat' split
  all_goals rfl
@[simp] theorem pmcBump_frs (s : State) (n k : Nat) : (pmcBump s n k).frs = s.frs := by
  unfold pmcBump; dsimp only; repeat' split
  all_goals rfl
@[simp] theorem pmcBump_slv (s : State) (n k : Nat) : (pmcBump s n k).slv = s.slv := by
  unfold pmcBump; dsimp only; repeat' split
  all_goals rfl
@[simp] theorem pmcBump_lys (s : State) (n k : Nat) : (pmcBump s n k).lys = s.lys := by
  unfold pmcBump; dsimp only; repeat' split
  all_goals rfl
@[simp] theorem pmcBump_cam (s : State) (n k : Nat) : (pmcBump s n k).cam = s.cam := by
  unfold pmcBump; dsimp only; repeat' split
  all_goals rfl
@[simp] theorem pmcBump_vsn (s : State) (n k : Nat) : (pmcBump s n k).vsn = s.vsn := by
  unfold pmcBump; dsimp only; repeat' split
  all_goals rfl
@[simp] theorem pmcBump_syn (s : State) (n k : Nat) : (pmcBump s n k).syn = s.syn := by
  unfold pmcBump; dsimp only; repeat' split
  all_goals rfl
@[simp] theorem pmcBump_trk (s : State) (n k : Nat) : (pmcBump s n k).trk = s.trk := by
  unfold pmcBump; dsimp only; repeat' split
  all_goals rfl
@[simp] theorem pmcBump_vw (s : State) (n k : Nat) : (pmcBump s n k).vw = s.vw := by
  unfold pmcBump; dsimp only; repeat' split
  all_goals rfl
@[simp] theorem pmcBump_vrs (s : State) (n k : Nat) : (pmcBump s n k).vrs = s.vrs := by
  unfold pmcBump; dsimp only; repeat' split
  all_goals rfl
@[simp] theorem pmcBump_free (s : State) (n k : Nat) : (pmcBump s n k).free = s.free := by
  unfold pmcBump; dsimp only; repeat' split
  all_goals rfl
@[simp] theorem pmcBump_pending (s : State) (n k : Nat) : (pmcBump s n k).pending = s.pending := by
  unfold pmcBump; dsimp only; repeat' split
  all_goals rfl

@[simp] theorem pmcAdd_gradeX (s : State) (ev k : Nat) (t : Attrs) : (pmcAdd s ev k t).gradeX = s.gradeX := by
  unfold pmcAdd; split
  · rfl
  · refine foldl_keeps (·.gradeX) _ (fun s n => ?_) _ s
    split
    · exact pmcBump_gradeX s n k
    · rfl
@[simp] theorem pmcAdd_clk (s : State) (ev k : Nat) (t : Attrs) : (pmcAdd s ev k t).clk = s.clk := by
  unfold pmcAdd; split
  · rfl
  · refine foldl_keeps (·.clk) _ (fun s n => ?_) _ s
    split
    · exact pmcBump_clk s n k
    · rfl
@[simp] theorem pmcAdd_com (s : State) (ev k : Nat) (t : Attrs) : (pmcAdd s ev k t).com = s.com := by
  unfold pmcAdd; split
  · rfl
  · refine foldl_keeps (·.com) _ (fun s n => ?_) _ s
    split
    · exact pmcBump_com s n k
    · rfl
@[simp] theorem pmcAdd_log (s : State) (ev k : Nat) (t : Attrs) : (pmcAdd s ev k t).log = s.log := by
  unfold pmcAdd; split
  · rfl
  · refine foldl_keeps (·.log) _ (fun s n => ?_) _ s
    split
    · exact pmcBump_log s n k
    · rfl
@[simp] theorem pmcAdd_hpt (s : State) (ev k : Nat) (t : Attrs) : (pmcAdd s ev k t).hpt = s.hpt := by
  unfold pmcAdd; split
  · rfl
  · refine foldl_keeps (·.hpt) _ (fun s n => ?_) _ s
    split
    · exact pmcBump_hpt s n k
    · rfl
@[simp] theorem pmcAdd_pages (s : State) (ev k : Nat) (t : Attrs) : (pmcAdd s ev k t).pages = s.pages := by
  unfold pmcAdd; split
  · rfl
  · refine foldl_keeps (·.pages) _ (fun s n => ?_) _ s
    split
    · exact pmcBump_pages s n k
    · rfl
@[simp] theorem pmcAdd_status (s : State) (ev k : Nat) (t : Attrs) : (pmcAdd s ev k t).status = s.status := by
  unfold pmcAdd; split
  · rfl
  · refine foldl_keeps (·.status) _ (fun s n => ?_) _ s
    split
    · exact pmcBump_status s n k
    · rfl
@[simp] theorem pmcAdd_mem (s : State) (ev k : Nat) (t : Attrs) : (pmcAdd s ev k t).mem = s.mem := by
  unfold pmcAdd; split
  · rfl
  · refine foldl_keeps (·.mem) _ (fun s n => ?_) _ s
    split
    · exact pmcBump_mem s n k
    · rfl
@[simp] theorem pmcAdd_fab (s : State) (ev k : Nat) (t : Attrs) : (pmcAdd s ev k t).fab = s.fab := by
  unfold pmcAdd; split
  · rfl
  · refine foldl_keeps (·.fab) _ (fun s n => ?_) _ s
    split
    · exact pmcBump_fab s n k
    · rfl
@[simp] theorem pmcAdd_sch (s : State) (ev k : Nat) (t : Attrs) : (pmcAdd s ev k t).sch = s.sch := by
  unfold pmcAdd; split
  · rfl
  · refine foldl_keeps (·.sch) _ (fun s n => ?_) _ s
    split
    · exact pmcBump_sch s n k
    · rfl
@[simp] theorem pmcAdd_sec (s : State) (ev k : Nat) (t : Attrs) : (pmcAdd s ev k t).sec = s.sec := by
  unfold pmcAdd; split
  · rfl
  · refine foldl_keeps (·.sec) _ (fun s n => ?_) _ s
    split
    · exact pmcBump_sec s n k
    · rfl
@[simp] theorem pmcAdd_pwr (s : State) (ev k : Nat) (t : Attrs) : (pmcAdd s ev k t).pwr = s.pwr := by
  unfold pmcAdd; split
  · rfl
  · refine foldl_keeps (·.pwr) _ (fun s n => ?_) _ s
    split
    · exact pmcBump_pwr s n k
    · rfl
@[simp] theorem pmcAdd_frs (s : State) (ev k : Nat) (t : Attrs) : (pmcAdd s ev k t).frs = s.frs := by
  unfold pmcAdd; split
  · rfl
  · refine foldl_keeps (·.frs) _ (fun s n => ?_) _ s
    split
    · exact pmcBump_frs s n k
    · rfl
@[simp] theorem pmcAdd_slv (s : State) (ev k : Nat) (t : Attrs) : (pmcAdd s ev k t).slv = s.slv := by
  unfold pmcAdd; split
  · rfl
  · refine foldl_keeps (·.slv) _ (fun s n => ?_) _ s
    split
    · exact pmcBump_slv s n k
    · rfl
@[simp] theorem pmcAdd_lys (s : State) (ev k : Nat) (t : Attrs) : (pmcAdd s ev k t).lys = s.lys := by
  unfold pmcAdd; split
  · rfl
  · refine foldl_keeps (·.lys) _ (fun s n => ?_) _ s
    split
    · exact pmcBump_lys s n k
    · rfl
@[simp] theorem pmcAdd_cam (s : State) (ev k : Nat) (t : Attrs) : (pmcAdd s ev k t).cam = s.cam := by
  unfold pmcAdd; split
  · rfl
  · refine foldl_keeps (·.cam) _ (fun s n => ?_) _ s
    split
    · exact pmcBump_cam s n k
    · rfl
@[simp] theorem pmcAdd_vsn (s : State) (ev k : Nat) (t : Attrs) : (pmcAdd s ev k t).vsn = s.vsn := by
  unfold pmcAdd; split
  · rfl
  · refine foldl_keeps (·.vsn) _ (fun s n => ?_) _ s
    split
    · exact pmcBump_vsn s n k
    · rfl
@[simp] theorem pmcAdd_syn (s : State) (ev k : Nat) (t : Attrs) : (pmcAdd s ev k t).syn = s.syn := by
  unfold pmcAdd; split
  · rfl
  · refine foldl_keeps (·.syn) _ (fun s n => ?_) _ s
    split
    · exact pmcBump_syn s n k
    · rfl
@[simp] theorem pmcAdd_trk (s : State) (ev k : Nat) (t : Attrs) : (pmcAdd s ev k t).trk = s.trk := by
  unfold pmcAdd; split
  · rfl
  · refine foldl_keeps (·.trk) _ (fun s n => ?_) _ s
    split
    · exact pmcBump_trk s n k
    · rfl
@[simp] theorem pmcAdd_vw (s : State) (ev k : Nat) (t : Attrs) : (pmcAdd s ev k t).vw = s.vw := by
  unfold pmcAdd; split
  · rfl
  · refine foldl_keeps (·.vw) _ (fun s n => ?_) _ s
    split
    · exact pmcBump_vw s n k
    · rfl
@[simp] theorem pmcAdd_vrs (s : State) (ev k : Nat) (t : Attrs) : (pmcAdd s ev k t).vrs = s.vrs := by
  unfold pmcAdd; split
  · rfl
  · refine foldl_keeps (·.vrs) _ (fun s n => ?_) _ s
    split
    · exact pmcBump_vrs s n k
    · rfl
@[simp] theorem pmcAdd_free (s : State) (ev k : Nat) (t : Attrs) : (pmcAdd s ev k t).free = s.free := by
  unfold pmcAdd; split
  · rfl
  · refine foldl_keeps (·.free) _ (fun s n => ?_) _ s
    split
    · exact pmcBump_free s n k
    · rfl
@[simp] theorem pmcAdd_pending (s : State) (ev k : Nat) (t : Attrs) : (pmcAdd s ev k t).pending = s.pending := by
  unfold pmcAdd; split
  · rfl
  · refine foldl_keeps (·.pending) _ (fun s n => ?_) _ s
    split
    · exact pmcBump_pending s n k
    · rfl

@[simp] theorem pmcAddAll_gradeX : ∀ (l : List (Nat × Nat × Attrs)) (s : State), (pmcAddAll s l).gradeX = s.gradeX
  | [], _ => rfl
  | e :: r, s => by rw [pmcAddAll, pmcAddAll_gradeX r, pmcAdd_gradeX]
@[simp] theorem pmcAddAll_com : ∀ (l : List (Nat × Nat × Attrs)) (s : State), (pmcAddAll s l).com = s.com
  | [], _ => rfl
  | e :: r, s => by rw [pmcAddAll, pmcAddAll_com r, pmcAdd_com]
@[simp] theorem pmcAddAll_log : ∀ (l : List (Nat × Nat × Attrs)) (s : State), (pmcAddAll s l).log = s.log
  | [], _ => rfl
  | e :: r, s => by rw [pmcAddAll, pmcAddAll_log r, pmcAdd_log]
@[simp] theorem pmcAddAll_hpt : ∀ (l : List (Nat × Nat × Attrs)) (s : State), (pmcAddAll s l).hpt = s.hpt
  | [], _ => rfl
  | e :: r, s => by rw [pmcAddAll, pmcAddAll_hpt r, pmcAdd_hpt]
@[simp] theorem pmcAddAll_pages : ∀ (l : List (Nat × Nat × Attrs)) (s : State), (pmcAddAll s l).pages = s.pages
  | [], _ => rfl
  | e :: r, s => by rw [pmcAddAll, pmcAddAll_pages r, pmcAdd_pages]
@[simp] theorem pmcAddAll_status : ∀ (l : List (Nat × Nat × Attrs)) (s : State), (pmcAddAll s l).status = s.status
  | [], _ => rfl
  | e :: r, s => by rw [pmcAddAll, pmcAddAll_status r, pmcAdd_status]
@[simp] theorem pmcAddAll_mem : ∀ (l : List (Nat × Nat × Attrs)) (s : State), (pmcAddAll s l).mem = s.mem
  | [], _ => rfl
  | e :: r, s => by rw [pmcAddAll, pmcAddAll_mem r, pmcAdd_mem]
@[simp] theorem pmcAddAll_fab : ∀ (l : List (Nat × Nat × Attrs)) (s : State), (pmcAddAll s l).fab = s.fab
  | [], _ => rfl
  | e :: r, s => by rw [pmcAddAll, pmcAddAll_fab r, pmcAdd_fab]
@[simp] theorem pmcAddAll_sch : ∀ (l : List (Nat × Nat × Attrs)) (s : State), (pmcAddAll s l).sch = s.sch
  | [], _ => rfl
  | e :: r, s => by rw [pmcAddAll, pmcAddAll_sch r, pmcAdd_sch]
@[simp] theorem pmcAddAll_sec : ∀ (l : List (Nat × Nat × Attrs)) (s : State), (pmcAddAll s l).sec = s.sec
  | [], _ => rfl
  | e :: r, s => by rw [pmcAddAll, pmcAddAll_sec r, pmcAdd_sec]
@[simp] theorem pmcAddAll_pwr : ∀ (l : List (Nat × Nat × Attrs)) (s : State), (pmcAddAll s l).pwr = s.pwr
  | [], _ => rfl
  | e :: r, s => by rw [pmcAddAll, pmcAddAll_pwr r, pmcAdd_pwr]
@[simp] theorem pmcAddAll_frs : ∀ (l : List (Nat × Nat × Attrs)) (s : State), (pmcAddAll s l).frs = s.frs
  | [], _ => rfl
  | e :: r, s => by rw [pmcAddAll, pmcAddAll_frs r, pmcAdd_frs]
@[simp] theorem pmcAddAll_slv : ∀ (l : List (Nat × Nat × Attrs)) (s : State), (pmcAddAll s l).slv = s.slv
  | [], _ => rfl
  | e :: r, s => by rw [pmcAddAll, pmcAddAll_slv r, pmcAdd_slv]
@[simp] theorem pmcAddAll_lys : ∀ (l : List (Nat × Nat × Attrs)) (s : State), (pmcAddAll s l).lys = s.lys
  | [], _ => rfl
  | e :: r, s => by rw [pmcAddAll, pmcAddAll_lys r, pmcAdd_lys]
@[simp] theorem pmcAddAll_cam : ∀ (l : List (Nat × Nat × Attrs)) (s : State), (pmcAddAll s l).cam = s.cam
  | [], _ => rfl
  | e :: r, s => by rw [pmcAddAll, pmcAddAll_cam r, pmcAdd_cam]
@[simp] theorem pmcAddAll_vsn : ∀ (l : List (Nat × Nat × Attrs)) (s : State), (pmcAddAll s l).vsn = s.vsn
  | [], _ => rfl
  | e :: r, s => by rw [pmcAddAll, pmcAddAll_vsn r, pmcAdd_vsn]
@[simp] theorem pmcAddAll_syn : ∀ (l : List (Nat × Nat × Attrs)) (s : State), (pmcAddAll s l).syn = s.syn
  | [], _ => rfl
  | e :: r, s => by rw [pmcAddAll, pmcAddAll_syn r, pmcAdd_syn]
@[simp] theorem pmcAddAll_trk : ∀ (l : List (Nat × Nat × Attrs)) (s : State), (pmcAddAll s l).trk = s.trk
  | [], _ => rfl
  | e :: r, s => by rw [pmcAddAll, pmcAddAll_trk r, pmcAdd_trk]
@[simp] theorem pmcAddAll_vw : ∀ (l : List (Nat × Nat × Attrs)) (s : State), (pmcAddAll s l).vw = s.vw
  | [], _ => rfl
  | e :: r, s => by rw [pmcAddAll, pmcAddAll_vw r, pmcAdd_vw]
@[simp] theorem pmcAddAll_vrs : ∀ (l : List (Nat × Nat × Attrs)) (s : State), (pmcAddAll s l).vrs = s.vrs
  | [], _ => rfl
  | e :: r, s => by rw [pmcAddAll, pmcAddAll_vrs r, pmcAdd_vrs]
@[simp] theorem pmcAddAll_free : ∀ (l : List (Nat × Nat × Attrs)) (s : State), (pmcAddAll s l).free = s.free
  | [], _ => rfl
  | e :: r, s => by rw [pmcAddAll, pmcAddAll_free r, pmcAdd_free]
@[simp] theorem pmcAddAll_pending : ∀ (l : List (Nat × Nat × Attrs)) (s : State), (pmcAddAll s l).pending = s.pending
  | [], _ => rfl
  | e :: r, s => by rw [pmcAddAll, pmcAddAll_pending r, pmcAdd_pending]

@[simp] theorem logEvent_gradeX (s : State) (c b v : Nat) (l : List Byte) (two : Bool) : (logEvent s c b v l two).gradeX = s.gradeX := by
  unfold logEvent; dsimp only; repeat' split
  all_goals rfl
@[simp] theorem logEvent_clk (s : State) (c b v : Nat) (l : List Byte) (two : Bool) : (logEvent s c b v l two).clk = s.clk := by
  unfold logEvent; dsimp only; repeat' split
  all_goals rfl
@[simp] theorem logEvent_com (s : State) (c b v : Nat) (l : List Byte) (two : Bool) : (logEvent s c b v l two).com = s.com := by
  unfold logEvent; dsimp only; repeat' split
  all_goals rfl
@[simp] theorem logEvent_hpt (s : State) (c b v : Nat) (l : List Byte) (two : Bool) : (logEvent s c b v l two).hpt = s.hpt := by
  unfold logEvent; dsimp only; repeat' split
  all_goals rfl
@[simp] theorem logEvent_pages (s : State) (c b v : Nat) (l : List Byte) (two : Bool) : (logEvent s c b v l two).pages = s.pages := by
  unfold logEvent; dsimp only; repeat' split
  all_goals rfl
@[simp] theorem logEvent_status (s : State) (c b v : Nat) (l : List Byte) (two : Bool) : (logEvent s c b v l two).status = s.status := by
  unfold logEvent; dsimp only; repeat' split
  all_goals rfl
@[simp] theorem logEvent_mem (s : State) (c b v : Nat) (l : List Byte) (two : Bool) : (logEvent s c b v l two).mem = s.mem := by
  unfold logEvent; dsimp only; repeat' split
  all_goals rfl
@[simp] theorem logEvent_fab (s : State) (c b v : Nat) (l : List Byte) (two : Bool) : (logEvent s c b v l two).fab = s.fab := by
  unfold logEvent; dsimp only; repeat' split
  all_goals rfl
@[simp] theorem logEvent_sch (s : State) (c b v : Nat) (l : List Byte) (two : Bool) : (logEvent s c b v l two).sch = s.sch := by
  unfold logEvent; dsimp only; repeat' split
  all_goals rfl
@[simp] theorem logEvent_sec (s : State) (c b v : Nat) (l : List Byte) (two : Bool) : (logEvent s c b v l two).sec = s.sec := by
  unfold logEvent; dsimp only; repeat' split
  all_goals rfl
@[simp] theorem logEvent_pwr (s : State) (c b v : Nat) (l : List Byte) (two : Bool) : (logEvent s c b v l two).pwr = s.pwr := by
  unfold logEvent; dsimp only; repeat' split
  all_goals rfl
@[simp] theorem logEvent_pmc (s : State) (c b v : Nat) (l : List Byte) (two : Bool) : (logEvent s c b v l two).pmc = s.pmc := by
  unfold logEvent; dsimp only; repeat' split
  all_goals rfl
@[simp] theorem logEvent_frs (s : State) (c b v : Nat) (l : List Byte) (two : Bool) : (logEvent s c b v l two).frs = s.frs := by
  unfold logEvent; dsimp only; repeat' split
  all_goals rfl
@[simp] theorem logEvent_slv (s : State) (c b v : Nat) (l : List Byte) (two : Bool) : (logEvent s c b v l two).slv = s.slv := by
  unfold logEvent; dsimp only; repeat' split
  all_goals rfl
@[simp] theorem logEvent_lys (s : State) (c b v : Nat) (l : List Byte) (two : Bool) : (logEvent s c b v l two).lys = s.lys := by
  unfold logEvent; dsimp only; repeat' split
  all_goals rfl
@[simp] theorem logEvent_cam (s : State) (c b v : Nat) (l : List Byte) (two : Bool) : (logEvent s c b v l two).cam = s.cam := by
  unfold logEvent; dsimp only; repeat' split
  all_goals rfl
@[simp] theorem logEvent_vsn (s : State) (c b v : Nat) (l : List Byte) (two : Bool) : (logEvent s c b v l two).vsn = s.vsn := by
  unfold logEvent; dsimp only; repeat' split
  all_goals rfl
@[simp] theorem logEvent_syn (s : State) (c b v : Nat) (l : List Byte) (two : Bool) : (logEvent s c b v l two).syn = s.syn := by
  unfold logEvent; dsimp only; repeat' split
  all_goals rfl
@[simp] theorem logEvent_trk (s : State) (c b v : Nat) (l : List Byte) (two : Bool) : (logEvent s c b v l two).trk = s.trk := by
  unfold logEvent; dsimp only; repeat' split
  all_goals rfl
@[simp] theorem logEvent_vw (s : State) (c b v : Nat) (l : List Byte) (two : Bool) : (logEvent s c b v l two).vw = s.vw := by
  unfold logEvent; dsimp only; repeat' split
  all_goals rfl
@[simp] theorem logEvent_vrs (s : State) (c b v : Nat) (l : List Byte) (two : Bool) : (logEvent s c b v l two).vrs = s.vrs := by
  unfold logEvent; dsimp only; repeat' split
  all_goals rfl
@[simp] theorem logEvent_free (s : State) (c b v : Nat) (l : List Byte) (two : Bool) : (logEvent s c b v l two).free = s.free := by
  unfold logEvent; dsimp only; repeat' split
  all_goals rfl
@[simp] theorem logEvent_pending (s : State) (c b v : Nat) (l : List Byte) (two : Bool) : (logEvent s c b v l two).pending = s.pending := by
  unfold logEvent; dsimp only; repeat' split
  all_goals rfl

@[simp] theorem logOncePerTick_gradeX (s : State) (c b v : Nat) (l : List Byte) : (logOncePerTick s c b v l).gradeX = s.gradeX := by
  unfold logOncePerTick; split
  · rfl
  · exact logEvent_gradeX s c b v l false
@[simp] theorem logOncePerTick_clk (s : State) (c b v : Nat) (l : List Byte) : (logOncePerTick s c b v l).clk = s.clk := by
  unfold logOncePerTick; split
  · rfl
  · exact logEvent_clk s c b v l false
@[simp] theorem logOncePerTick_com (s : State) (c b v : Nat) (l : List Byte) : (logOncePerTick s c b v l).com = s.com := by
  unfold logOncePerTick; split
  · rfl
  · exact logEvent_com s c b v l false
@[simp] theorem logOncePerTick_hpt (s : State) (c b v : Nat) (l : List Byte) : (logOncePerTick s c b v l).hpt = s.hpt := by
  unfold logOncePerTick; split
  · rfl
  · exact logEvent_hpt s c b v l false
@[simp] theorem logOncePerTick_pages (s : State) (c b v : Nat) (l : List Byte) : (logOncePerTick s c b v l).pages = s.pages := by
  unfold logOncePerTick; split
  · rfl
  · exact logEvent_pages s c b v l false
@[simp] theorem logOncePerTick_status (s : State) (c b v : Nat) (l : List Byte) : (logOncePerTick s c b v l).status = s.status := by
  unfold logOncePerTick; split
  · rfl
  · exact logEvent_status s c b v l false
@[simp] theorem logOncePerTick_mem (s : State) (c b v : Nat) (l : List Byte) : (logOncePerTick s c b v l).mem = s.mem := by
  unfold logOncePerTick; split
  · rfl
  · exact logEvent_mem s c b v l false
@[simp] theorem logOncePerTick_fab (s : State) (c b v : Nat) (l : List Byte) : (logOncePerTick s c b v l).fab = s.fab := by
  unfold logOncePerTick; split
  · rfl
  · exact logEvent_fab s c b v l false
@[simp] theorem logOncePerTick_sch (s : State) (c b v : Nat) (l : List Byte) : (logOncePerTick s c b v l).sch = s.sch := by
  unfold logOncePerTick; split
  · rfl
  · exact logEvent_sch s c b v l false
@[simp] theorem logOncePerTick_sec (s : State) (c b v : Nat) (l : List Byte) : (logOncePerTick s c b v l).sec = s.sec := by
  unfold logOncePerTick; split
  · rfl
  · exact logEvent_sec s c b v l false
@[simp] theorem logOncePerTick_pwr (s : State) (c b v : Nat) (l : List Byte) : (logOncePerTick s c b v l).pwr = s.pwr := by
  unfold logOncePerTick; split
  · rfl
  · exact logEvent_pwr s c b v l false
@[simp] theorem logOncePerTick_pmc (s : State) (c b v : Nat) (l : List Byte) : (logOncePerTick s c b v l).pmc = s.pmc := by
  unfold logOncePerTick; split
  · rfl
  · exact logEvent_pmc s c b v l false
@[simp] theorem logOncePerTick_frs (s : State) (c b v : Nat) (l : List Byte) : (logOncePerTick s c b v l).frs = s.frs := by
  unfold logOncePerTick; split
  · rfl
  · exact logEvent_frs s c b v l false
@[simp] theorem logOncePerTick_slv (s : State) (c b v : Nat) (l : List Byte) : (logOncePerTick s c b v l).slv = s.slv := by
  unfold logOncePerTick; split
  · rfl
  · exact logEvent_slv s c b v l false
@[simp] theorem logOncePerTick_lys (s : State) (c b v : Nat) (l : List Byte) : (logOncePerTick s c b v l).lys = s.lys := by
  unfold logOncePerTick; split
  · rfl
  · exact logEvent_lys s c b v l false
@[simp] theorem logOncePerTick_cam (s : State) (c b v : Nat) (l : List Byte) : (logOncePerTick s c b v l).cam = s.cam := by
  unfold logOncePerTick; split
  · rfl
  · exact logEvent_cam s c b v l false
@[simp] theorem logOncePerTick_vsn (s : State) (c b v : Nat) (l : List Byte) : (logOncePerTick s c b v l).vsn = s.vsn := by
  unfold logOncePerTick; split
  · rfl
  · exact logEvent_vsn s c b v l false
@[simp] theorem logOncePerTick_syn (s : State) (c b v : Nat) (l : List Byte) : (logOncePerTick s c b v l).syn = s.syn := by
  unfold logOncePerTick; split
  · rfl
  · exact logEvent_syn s c b v l false
@[simp] theorem logOncePerTick_trk (s : State) (c b v : Nat) (l : List Byte) : (logOncePerTick s c b v l).trk = s.trk := by
  unfold logOncePerTick; split
  · rfl
  · exact logEvent_trk s c b v l false
@[simp] theorem logOncePerTick_vw (s : State) (c b v : Nat) (l : List Byte) : (logOncePerTick s c b v l).vw = s.vw := by
  unfold logOncePerTick; split
  · rfl
  · exact logEvent_vw s c b v l false
@[simp] theorem logOncePerTick_vrs (s : State) (c b v : Nat) (l : List Byte) : (logOncePerTick s c b v l).vrs = s.vrs := by
  unfold logOncePerTick; split
  · rfl
  · exact logEvent_vrs s c b v l false
@[simp] theorem logOncePerTick_free (s : State) (c b v : Nat) (l : List Byte) : (logOncePerTick s c b v l).free = s.free := by
  unfold logOncePerTick; split
  · rfl
  · exact logEvent_free s c b v l false
@[simp] theorem logOncePerTick_pending (s : State) (c b v : Nat) (l : List Byte) : (logOncePerTick s c b v l).pending = s.pending := by
  unfold logOncePerTick; split
  · rfl
  · exact logEvent_pending s c b v l false

@[simp] theorem memUncorr_gradeX (s : State) (a k : Nat) : (memUncorr s a k).gradeX = s.gradeX := by unfold memUncorr; dsimp only; rw [logEvent_gradeX]; rfl
@[simp] theorem memUncorr_clk (s : State) (a k : Nat) : (memUncorr s a k).clk = s.clk := by unfold memUncorr; dsimp only; rw [logEvent_clk]; rfl
@[simp] theorem memUncorr_com (s : State) (a k : Nat) : (memUncorr s a k).com = s.com := by unfold memUncorr; dsimp only; rw [logEvent_com]; rfl
@[simp] theorem memUncorr_hpt (s : State) (a k : Nat) : (memUncorr s a k).hpt = s.hpt := by unfold memUncorr; dsimp only; rw [logEvent_hpt]; rfl
@[simp] theorem memUncorr_pages (s : State) (a k : Nat) : (memUncorr s a k).pages = s.pages := by unfold memUncorr; dsimp only; rw [logEvent_pages]; rfl
@[simp] theorem memUncorr_status (s : State) (a k : Nat) : (memUncorr s a k).status = s.status := by unfold memUncorr; dsimp only; rw [logEvent_status]; rfl
@[simp] theorem memUncorr_mem (s : State) (a k : Nat) : (memUncorr s a k).mem = s.mem := by unfold memUncorr; dsimp only; rw [logEvent_mem]; rfl
@[simp] theorem memUncorr_fab (s : State) (a k : Nat) : (memUncorr s a k).fab = s.fab := by unfold memUncorr; dsimp only; rw [logEvent_fab]; rfl
@[simp] theorem memUncorr_sch (s : State) (a k : Nat) : (memUncorr s a k).sch = s.sch := by unfold memUncorr; dsimp only; rw [logEvent_sch]; rfl
@[simp] theorem memUncorr_sec (s : State) (a k : Nat) : (memUncorr s a k).sec = s.sec := by unfold memUncorr; dsimp only; rw [logEvent_sec]; rfl
@[simp] theorem memUncorr_pwr (s : State) (a k : Nat) : (memUncorr s a k).pwr = s.pwr := by unfold memUncorr; dsimp only; rw [logEvent_pwr]; rfl
@[simp] theorem memUncorr_pmc (s : State) (a k : Nat) : (memUncorr s a k).pmc = s.pmc := by unfold memUncorr; dsimp only; rw [logEvent_pmc]; rfl
@[simp] theorem memUncorr_frs (s : State) (a k : Nat) : (memUncorr s a k).frs = s.frs := by unfold memUncorr; dsimp only; rw [logEvent_frs]; rfl
@[simp] theorem memUncorr_slv (s : State) (a k : Nat) : (memUncorr s a k).slv = s.slv := by unfold memUncorr; dsimp only; rw [logEvent_slv]; rfl
@[simp] theorem memUncorr_lys (s : State) (a k : Nat) : (memUncorr s a k).lys = s.lys := by unfold memUncorr; dsimp only; rw [logEvent_lys]; rfl
@[simp] theorem memUncorr_cam (s : State) (a k : Nat) : (memUncorr s a k).cam = s.cam := by unfold memUncorr; dsimp only; rw [logEvent_cam]; rfl
@[simp] theorem memUncorr_vsn (s : State) (a k : Nat) : (memUncorr s a k).vsn = s.vsn := by unfold memUncorr; dsimp only; rw [logEvent_vsn]; rfl
@[simp] theorem memUncorr_syn (s : State) (a k : Nat) : (memUncorr s a k).syn = s.syn := by unfold memUncorr; dsimp only; rw [logEvent_syn]; rfl
@[simp] theorem memUncorr_trk (s : State) (a k : Nat) : (memUncorr s a k).trk = s.trk := by unfold memUncorr; dsimp only; rw [logEvent_trk]; rfl
@[simp] theorem memUncorr_vw (s : State) (a k : Nat) : (memUncorr s a k).vw = s.vw := by unfold memUncorr; dsimp only; rw [logEvent_vw]; rfl
@[simp] theorem memUncorr_vrs (s : State) (a k : Nat) : (memUncorr s a k).vrs = s.vrs := by unfold memUncorr; dsimp only; rw [logEvent_vrs]; rfl
@[simp] theorem memUncorr_free (s : State) (a k : Nat) : (memUncorr s a k).free = s.free := by unfold memUncorr; dsimp only; rw [logEvent_free]; rfl
@[simp] theorem memUncorr_pending (s : State) (a k : Nat) : (memUncorr s a k).pending = s.pending := by unfold memUncorr; dsimp only; rw [logEvent_pending]; rfl

@[simp] theorem lateWrite_gradeX (s : State) : (lateWrite s).gradeX = s.gradeX := by unfold lateWrite; split <;> rfl
@[simp] theorem lateWrite_clk (s : State) : (lateWrite s).clk = s.clk := by unfold lateWrite; split <;> rfl
@[simp] theorem lateWrite_com (s : State) : (lateWrite s).com = s.com := by unfold lateWrite; split <;> rfl
@[simp] theorem lateWrite_log (s : State) : (lateWrite s).log = s.log := by unfold lateWrite; split <;> rfl
@[simp] theorem lateWrite_hpt (s : State) : (lateWrite s).hpt = s.hpt := by unfold lateWrite; split <;> rfl
@[simp] theorem lateWrite_pages (s : State) : (lateWrite s).pages = s.pages := by unfold lateWrite; split <;> rfl
@[simp] theorem lateWrite_status (s : State) : (lateWrite s).status = s.status := by unfold lateWrite; split <;> rfl
@[simp] theorem lateWrite_fab (s : State) : (lateWrite s).fab = s.fab := by unfold lateWrite; split <;> rfl
@[simp] theorem lateWrite_sch (s : State) : (lateWrite s).sch = s.sch := by unfold lateWrite; split <;> rfl
@[simp] theorem lateWrite_sec (s : State) : (lateWrite s).sec = s.sec := by unfold lateWrite; split <;> rfl
@[simp] theorem lateWrite_pwr (s : State) : (lateWrite s).pwr = s.pwr := by unfold lateWrite; split <;> rfl
@[simp] theorem lateWrite_pmc (s : State) : (lateWrite s).pmc = s.pmc := by unfold lateWrite; split <;> rfl
@[simp] theorem lateWrite_slv (s : State) : (lateWrite s).slv = s.slv := by unfold lateWrite; split <;> rfl
@[simp] theorem lateWrite_lys (s : State) : (lateWrite s).lys = s.lys := by unfold lateWrite; split <;> rfl
@[simp] theorem lateWrite_cam (s : State) : (lateWrite s).cam = s.cam := by unfold lateWrite; split <;> rfl
@[simp] theorem lateWrite_vsn (s : State) : (lateWrite s).vsn = s.vsn := by unfold lateWrite; split <;> rfl
@[simp] theorem lateWrite_syn (s : State) : (lateWrite s).syn = s.syn := by unfold lateWrite; split <;> rfl
@[simp] theorem lateWrite_trk (s : State) : (lateWrite s).trk = s.trk := by unfold lateWrite; split <;> rfl
@[simp] theorem lateWrite_vw (s : State) : (lateWrite s).vw = s.vw := by unfold lateWrite; split <;> rfl
@[simp] theorem lateWrite_vrs (s : State) : (lateWrite s).vrs = s.vrs := by unfold lateWrite; split <;> rfl
@[simp] theorem lateWrite_free (s : State) : (lateWrite s).free = s.free := by unfold lateWrite; split <;> rfl
@[simp] theorem lateWrite_pending (s : State) : (lateWrite s).pending = s.pending := by unfold lateWrite; split <;> rfl

@[simp] theorem jobWrite_gradeX (s : State) (a : Nat) (d : List Byte) : (jobWrite s a d).gradeX = s.gradeX := by
  unfold jobWrite; split
  · rw [lateWrite_gradeX, devWriteMasked_gradeX]
  · split <;> rfl
@[simp] theorem jobWrite_clk (s : State) (a : Nat) (d : List Byte) : (jobWrite s a d).clk = s.clk := by
  unfold jobWrite; split
  · rw [lateWrite_clk, devWriteMasked_clk]
  · split <;> rfl
@[simp] theorem jobWrite_com (s : State) (a : Nat) (d : List Byte) : (jobWrite s a d).com = s.com := by
  unfold jobWrite; split
  · rw [lateWrite_com, devWriteMasked_com]
  · split <;> rfl
@[simp] theorem jobWrite_log (s : State) (a : Nat) (d : List Byte) : (jobWrite s a d).log = s.log := by
  unfold jobWrite; split
  · rw [lateWrite_log, devWriteMasked_log]
  · split <;> rfl
@[simp] theorem jobWrite_hpt (s : State) (a : Nat) (d : List Byte) : (jobWrite s a d).hpt = s.hpt := by
  unfold jobWrite; split
  · rw [lateWrite_hpt, devWriteMasked_hpt]
  · split <;> rfl
@[simp] theorem jobWrite_pages (s : State) (a : Nat) (d : List Byte) : (jobWrite s a d).pages = s.pages := by
  unfold jobWrite; split
  · rw [lateWrite_pages, devWriteMasked_pages]
  · split <;> rfl
@[simp] theorem jobWrite_status (s : State) (a : Nat) (d : List Byte) : (jobWrite s a d).status = s.status := by
  unfold jobWrite; split
  · rw [lateWrite_status, devWriteMasked_status]
  · split <;> rfl
@[simp] theorem jobWrite_fab (s : State) (a : Nat) (d : List Byte) : (jobWrite s a d).fab = s.fab := by
  unfold jobWrite; split
  · rw [lateWrite_fab, devWriteMasked_fab]
  · split <;> rfl
@[simp] theorem jobWrite_sch (s : State) (a : Nat) (d : List Byte) : (jobWrite s a d).sch = s.sch := by
  unfold jobWrite; split
  · rw [lateWrite_sch, devWriteMasked_sch]
  · split <;> rfl
@[simp] theorem jobWrite_sec (s : State) (a : Nat) (d : List Byte) : (jobWrite s a d).sec = s.sec := by
  unfold jobWrite; split
  · rw [lateWrite_sec, devWriteMasked_sec]
  · split <;> rfl
@[simp] theorem jobWrite_pwr (s : State) (a : Nat) (d : List Byte) : (jobWrite s a d).pwr = s.pwr := by
  unfold jobWrite; split
  · rw [lateWrite_pwr, devWriteMasked_pwr]
  · split <;> rfl
@[simp] theorem jobWrite_pmc (s : State) (a : Nat) (d : List Byte) : (jobWrite s a d).pmc = s.pmc := by
  unfold jobWrite; split
  · rw [lateWrite_pmc, devWriteMasked_pmc]
  · split <;> rfl
@[simp] theorem jobWrite_slv (s : State) (a : Nat) (d : List Byte) : (jobWrite s a d).slv = s.slv := by
  unfold jobWrite; split
  · rw [lateWrite_slv, devWriteMasked_slv]
  · split <;> rfl
@[simp] theorem jobWrite_lys (s : State) (a : Nat) (d : List Byte) : (jobWrite s a d).lys = s.lys := by
  unfold jobWrite; split
  · rw [lateWrite_lys, devWriteMasked_lys]
  · split <;> rfl
@[simp] theorem jobWrite_cam (s : State) (a : Nat) (d : List Byte) : (jobWrite s a d).cam = s.cam := by
  unfold jobWrite; split
  · rw [lateWrite_cam, devWriteMasked_cam]
  · split <;> rfl
@[simp] theorem jobWrite_vsn (s : State) (a : Nat) (d : List Byte) : (jobWrite s a d).vsn = s.vsn := by
  unfold jobWrite; split
  · rw [lateWrite_vsn, devWriteMasked_vsn]
  · split <;> rfl
@[simp] theorem jobWrite_syn (s : State) (a : Nat) (d : List Byte) : (jobWrite s a d).syn = s.syn := by
  unfold jobWrite; split
  · rw [lateWrite_syn, devWriteMasked_syn]
  · split <;> rfl
@[simp] theorem jobWrite_trk (s : State) (a : Nat) (d : List Byte) : (jobWrite s a d).trk = s.trk := by
  unfold jobWrite; split
  · rw [lateWrite_trk, devWriteMasked_trk]
  · split <;> rfl
@[simp] theorem jobWrite_vw (s : State) (a : Nat) (d : List Byte) : (jobWrite s a d).vw = s.vw := by
  unfold jobWrite; split
  · rw [lateWrite_vw, devWriteMasked_vw]
  · split <;> rfl
@[simp] theorem jobWrite_vrs (s : State) (a : Nat) (d : List Byte) : (jobWrite s a d).vrs = s.vrs := by
  unfold jobWrite; split
  · rw [lateWrite_vrs, devWriteMasked_vrs]
  · split <;> rfl
@[simp] theorem jobWrite_free (s : State) (a : Nat) (d : List Byte) : (jobWrite s a d).free = s.free := by
  unfold jobWrite; split
  · rw [lateWrite_free, devWriteMasked_free]
  · split <;> rfl
@[simp] theorem jobWrite_pending (s : State) (a : Nat) (d : List Byte) : (jobWrite s a d).pending = s.pending := by
  unfold jobWrite; split
  · rw [lateWrite_pending, devWriteMasked_pending]
  · split <;> rfl

@[simp] theorem unitWrite_gradeX (s : State) (a : Nat) (d : List Byte) : (unitWrite s a d).gradeX = s.gradeX := by
  unfold unitWrite; split
  · exact jobWrite_gradeX s a d
  · exact foldl_keeps (·.gradeX) _ (fun s p => by split <;> simp) _ s
@[simp] theorem unitWrite_clk (s : State) (a : Nat) (d : List Byte) : (unitWrite s a d).clk = s.clk := by
  unfold unitWrite; split
  · exact jobWrite_clk s a d
  · exact foldl_keeps (·.clk) _ (fun s p => by split <;> simp) _ s
@[simp] theorem unitWrite_com (s : State) (a : Nat) (d : List Byte) : (unitWrite s a d).com = s.com := by
  unfold unitWrite; split
  · exact jobWrite_com s a d
  · exact foldl_keeps (·.com) _ (fun s p => by split <;> simp) _ s
@[simp] theorem unitWrite_log (s : State) (a : Nat) (d : List Byte) : (unitWrite s a d).log = s.log := by
  unfold unitWrite; split
  · exact jobWrite_log s a d
  · exact foldl_keeps (·.log) _ (fun s p => by split <;> simp) _ s
@[simp] theorem unitWrite_hpt (s : State) (a : Nat) (d : List Byte) : (unitWrite s a d).hpt = s.hpt := by
  unfold unitWrite; split
  · exact jobWrite_hpt s a d
  · exact foldl_keeps (·.hpt) _ (fun s p => by split <;> simp) _ s
@[simp] theorem unitWrite_pages (s : State) (a : Nat) (d : List Byte) : (unitWrite s a d).pages = s.pages := by
  unfold unitWrite; split
  · exact jobWrite_pages s a d
  · exact foldl_keeps (·.pages) _ (fun s p => by split <;> simp) _ s
@[simp] theorem unitWrite_status (s : State) (a : Nat) (d : List Byte) : (unitWrite s a d).status = s.status := by
  unfold unitWrite; split
  · exact jobWrite_status s a d
  · exact foldl_keeps (·.status) _ (fun s p => by split <;> simp) _ s
@[simp] theorem unitWrite_fab (s : State) (a : Nat) (d : List Byte) : (unitWrite s a d).fab = s.fab := by
  unfold unitWrite; split
  · exact jobWrite_fab s a d
  · exact foldl_keeps (·.fab) _ (fun s p => by split <;> simp) _ s
@[simp] theorem unitWrite_sch (s : State) (a : Nat) (d : List Byte) : (unitWrite s a d).sch = s.sch := by
  unfold unitWrite; split
  · exact jobWrite_sch s a d
  · exact foldl_keeps (·.sch) _ (fun s p => by split <;> simp) _ s
@[simp] theorem unitWrite_sec (s : State) (a : Nat) (d : List Byte) : (unitWrite s a d).sec = s.sec := by
  unfold unitWrite; split
  · exact jobWrite_sec s a d
  · exact foldl_keeps (·.sec) _ (fun s p => by split <;> simp) _ s
@[simp] theorem unitWrite_pwr (s : State) (a : Nat) (d : List Byte) : (unitWrite s a d).pwr = s.pwr := by
  unfold unitWrite; split
  · exact jobWrite_pwr s a d
  · exact foldl_keeps (·.pwr) _ (fun s p => by split <;> simp) _ s
@[simp] theorem unitWrite_pmc (s : State) (a : Nat) (d : List Byte) : (unitWrite s a d).pmc = s.pmc := by
  unfold unitWrite; split
  · exact jobWrite_pmc s a d
  · exact foldl_keeps (·.pmc) _ (fun s p => by split <;> simp) _ s
@[simp] theorem unitWrite_slv (s : State) (a : Nat) (d : List Byte) : (unitWrite s a d).slv = s.slv := by
  unfold unitWrite; split
  · exact jobWrite_slv s a d
  · exact foldl_keeps (·.slv) _ (fun s p => by split <;> simp) _ s
@[simp] theorem unitWrite_lys (s : State) (a : Nat) (d : List Byte) : (unitWrite s a d).lys = s.lys := by
  unfold unitWrite; split
  · exact jobWrite_lys s a d
  · exact foldl_keeps (·.lys) _ (fun s p => by split <;> simp) _ s
@[simp] theorem unitWrite_cam (s : State) (a : Nat) (d : List Byte) : (unitWrite s a d).cam = s.cam := by
  unfold unitWrite; split
  · exact jobWrite_cam s a d
  · exact foldl_keeps (·.cam) _ (fun s p => by split <;> simp) _ s
@[simp] theorem unitWrite_vsn (s : State) (a : Nat) (d : List Byte) : (unitWrite s a d).vsn = s.vsn := by
  unfold unitWrite; split
  · exact jobWrite_vsn s a d
  · exact foldl_keeps (·.vsn) _ (fun s p => by split <;> simp) _ s
@[simp] theorem unitWrite_syn (s : State) (a : Nat) (d : List Byte) : (unitWrite s a d).syn = s.syn := by
  unfold unitWrite; split
  · exact jobWrite_syn s a d
  · exact foldl_keeps (·.syn) _ (fun s p => by split <;> simp) _ s
@[simp] theorem unitWrite_trk (s : State) (a : Nat) (d : List Byte) : (unitWrite s a d).trk = s.trk := by
  unfold unitWrite; split
  · exact jobWrite_trk s a d
  · exact foldl_keeps (·.trk) _ (fun s p => by split <;> simp) _ s
@[simp] theorem unitWrite_vw (s : State) (a : Nat) (d : List Byte) : (unitWrite s a d).vw = s.vw := by
  unfold unitWrite; split
  · exact jobWrite_vw s a d
  · exact foldl_keeps (·.vw) _ (fun s p => by split <;> simp) _ s
@[simp] theorem unitWrite_vrs (s : State) (a : Nat) (d : List Byte) : (unitWrite s a d).vrs = s.vrs := by
  unfold unitWrite; split
  · exact jobWrite_vrs s a d
  · exact foldl_keeps (·.vrs) _ (fun s p => by split <;> simp) _ s
@[simp] theorem unitWrite_free (s : State) (a : Nat) (d : List Byte) : (unitWrite s a d).free = s.free := by
  unfold unitWrite; split
  · exact jobWrite_free s a d
  · exact foldl_keeps (·.free) _ (fun s p => by split <;> simp) _ s
@[simp] theorem unitWrite_pending (s : State) (a : Nat) (d : List Byte) : (unitWrite s a d).pending = s.pending := by
  unfold unitWrite; split
  · exact jobWrite_pending s a d
  · exact foldl_keeps (·.pending) _ (fun s p => by split <;> simp) _ s

end Sys2Proof.Machine
end

