-- ==== Sys2Proof/Laws/Core.lean ====
section
/-! SUPPORT. What counting, logging and a core's instruction can do: one lemma for each shared operation. -/

namespace Sys2Proof.Machine

theorem reg_poke_ne (s : State) (a b v : Nat) (h : b ≠ a) : reg (poke s a v) b = reg s b := by
  simp [reg, regW, imgW, poke, Map.get_set_ne a b _ h]

theorem reg_poke_self (s : State) (a v : Nat) : reg (poke s a v) a = v % 2 ^ 32 := by
  simp [reg, regW, imgW, poke, Map.get_set_self]

theorem reg_event_ne (s : State) (a k b : Nat) (h : b ≠ a) : reg (event s a k) b = reg s b := reg_poke_ne s a b _ h

/-! ## Counting -/

theorem CountsOnly.refl (s : State) : CountsOnly s s := ⟨rfl, fun _ _ => rfl⟩

theorem CountsOnly.trans {a b c : State} (h1 : CountsOnly a b) (h2 : CountsOnly b c) : CountsOnly a c := by
  refine ⟨?_, fun r hr => (h2.2 r hr).trans (h1.2 r hr)⟩
  obtain ⟨e2, _⟩ := h2
  obtain ⟨e1, _⟩ := h1
  rw [e1] at e2
  exact e2

theorem pmcBump_counts (s : State) (n k : Nat) : CountsOnly s (pmcBump s n k) := by
  unfold pmcBump
  refine ⟨?_, fun a ha => ?_⟩
  · dsimp only; repeat' split
    all_goals rfl
  · simp only [pmcRegister, not_or] at ha
    dsimp only; repeat' split
    all_goals simp [reg_event_ne, ha.1, ha.2.1, ha.2.2]
    all_goals rfl

theorem foldl_counts {α : Type} (f : State → α → State) (h : ∀ s a, CountsOnly s (f s a)) :
    ∀ (l : List α) (s : State), CountsOnly s (l.foldl f s)
  | [], s => .refl s
  | a :: r, s => (h s a).trans (foldl_counts f h r (f s a))

/-- Counting changes the counters and their overflow bits only (R530, R533). -/
theorem pmcAdd_counts (s : State) (ev k : Nat) (t : Attrs) : CountsOnly s (pmcAdd s ev k t) := by
  unfold pmcAdd
  split
  · exact .refl s
  · refine foldl_counts _ (fun s n => ?_) _ s
    split
    · exact pmcBump_counts s n k
    · exact .refl s

theorem counts_pmc (s : State) (p : Pmc) : CountsOnly s { s with pmc := p } := ⟨rfl, fun _ _ => rfl⟩

theorem scoutLoad_counts (s : State) : CountsOnly s (scoutLoad s) := counts_pmc s _

theorem scoutIssue_counts (s : State) (j : Job) (l : Nat) (w : BitVec 32) : CountsOnly s (scoutIssue s j l w) := by
  unfold scoutIssue
  dsimp only
  split
  · split
    · exact ((counts_pmc s _).trans (scoutLoad_counts _)).trans (pmcAdd_counts _ _ _ _)
    · exact counts_pmc s _
  · split <;> exact counts_pmc s _

theorem scoutPhase_counts (s : State) (l : Nat) (f : ScoutPhase → ScoutPhase) : CountsOnly s (scoutPhase s l f) := by
  unfold scoutPhase
  split
  · split
    · exact counts_pmc s _
    · exact .refl s
  · exact .refl s

theorem retire_counts (s : State) (j : Job) (l cls : Nat) : CountsOnly s (retire s j l cls) := by
  unfold retire
  dsimp only
  split
  · exact ((pmcAdd_counts _ _ _ _).trans (scoutPhase_counts _ _ _)).trans (counts_pmc _ _)
  · exact (pmcAdd_counts _ _ _ _).trans (scoutPhase_counts _ _ _)

theorem CountsOnly.setCore {a b : State} (h : CountsOnly a b) (l : Nat) (c : Core) :
    CountsOnly (setCore a l c) (Machine.setCore b l c) := by
  obtain ⟨e, hr⟩ := h
  refine ⟨?_, hr⟩
  rw [e]
  rfl

/-! ## Cores -/

@[simp] theorem coreOf_setCore_self (s : State) (l : Nat) (c : Core) : coreOf (setCore s l c) l = c := by
  simp [coreOf, setCore]

theorem coreOf_setCore_ne (s : State) (l k : Nat) (c : Core) (h : k ≠ l) : coreOf (setCore s l c) k = coreOf s k := by
  simp [coreOf, setCore, Map.getD_set_ne _ _ _ _ _ h]

/-- The record of the core itself after its instruction. -/
theorem OnlyCore.self {s t : State} {lcn : BitVec 12} {c : Core} (h : OnlyCore s lcn c t) : coreOf t lcn.toNat = c := by
  have : t.slv = (setCore s lcn.toNat c).slv := by rw [h.1]
  simp [coreOf, this, setCore]

/-- Every other core keeps its record. -/
theorem OnlyCore.other {s t : State} {lcn : BitVec 12} {c : Core} (h : OnlyCore s lcn c t) (k : Nat) (hk : k ≠ lcn.toNat) :
    coreOf t k = coreOf s k := by
  have : t.slv = (setCore s lcn.toNat c).slv := by rw [h.1]
  simp [coreOf, this, setCore, Map.getD_set_ne _ _ _ _ _ hk]

/-- An event whose subject is no job of an earlier plan acts within the plan in force. -/
theorem underOld_none (s : State) (p : State → Bool) (f : State → State)
    (h : ∀ i, i < s.sch.old.length → p (swapOld s i) = false) : underOld s p f = f s := by
  unfold underOld
  have : (List.range s.sch.old.length).find? (fun i => p (swapOld s i)) = none := by
    rw [List.find?_eq_none]
    intro i hi
    simp [h i (List.mem_range.mp hi)]
  rw [this]

/-- The instruction of a core that issues one takes its effect (R207). -/
theorem onCore_issues {s : State} {lcn : BitVec 12} {j : Job} (h : CoreIssues s lcn j) (w : BitVec 32)
    (f : State → Nat → Job → Core → State) :
    onCore s lcn w f = f (scoutIssue s j lcn.toNat w) lcn.toNat j (issuing s lcn) := by
  obtain ⟨ho, ⟨hd, hj⟩, ha, he, hf, hw⟩ := h
  unfold onCore
  dsimp only
  rw [underOld_none s _ _ (fun i hi => by simp [ho i hi])]
  have hg : ((coreOf s lcn.toNat).active && !(coreOf s lcn.toNat).ended && !coreFenced s lcn.toNat && ((coreOf s lcn.toNat).wait.isNone
      || (coreOf s lcn.toNat).wait == some .again || (coreOf s lcn.toNat).wait == some .full)) = true := by
    rw [ha, he, hf]; rcases hw with hw | hw | hw <;> simp [hw]
  rw [hj]
  simp only [hg, if_true]
  rfl

/-- An instruction with an effect on its core alone. -/
theorem coreNext_only (s : State) (lcn : BitVec 12) (j : Job) (w : BitVec 32) (cls : Nat) (c : Core) :
    OnlyCore s lcn c.step (coreNext (scoutIssue s j lcn.toNat w) j lcn.toNat cls c) :=
  ((scoutIssue_counts s j _ w).setCore _ _).trans (retire_counts _ _ _ _)

/-- An instruction that sets the program counter. -/
theorem coreJump_only (s : State) (lcn : BitVec 12) (j : Job) (w : BitVec 32) (cls : Nat) (c : Core) (pc : BitVec 13) :
    OnlyCore s lcn { c with pc := pc } (coreJump (scoutIssue s j lcn.toNat w) j lcn.toNat cls c pc) :=
  ((scoutIssue_counts s j _ w).setCore _ _).trans (retire_counts _ _ _ _)

/-! ## Registers of a core -/

theorem Core.scalar_zero (c : Core) : c.scalar 0 = 0 := by simp [Core.scalar, Core.sget]

theorem Core.sget_lt (c : Core) (r : Nat) : c.sget r < 2 ^ 32 := by
  unfold Core.sget; split
  · decide
  · exact (Map.getD c.s r 0).isLt

theorem Core.sget_eq (c : Core) (r : BitVec 5) : c.sget r.toNat = (c.scalar r).toNat := by
  rw [Core.scalar, BitVec.toNat_ofNat, Nat.mod_eq_of_lt (c.sget_lt r.toNat)]

/-- What a scalar register reads after a write: s0 still reads zero. -/
theorem Core.scalar_sset (c : Core) (d r : BitVec 5) (v : Nat) :
    (c.sset d.toNat v).scalar r = if r = d ∧ d ≠ 0 then BitVec.ofNat 32 v else c.scalar r := by
  by_cases h0 : d = 0
  · subst h0; simp [Core.sset]
  · have hd : d.toNat ≠ 0 := fun e => h0 (BitVec.eq_of_toNat_eq (by simpa using e))
    by_cases hr : r = d
    · subst hr
      simp only [Core.sset, hd, if_false, Core.scalar, Core.sget, Map.getD_set_self, BitVec.toNat_ofNat, ne_eq, true_and,
        h0, not_false_eq_true, if_true]
      exact BitVec.eq_of_toNat_eq (by simp)
    · have hn : r.toNat ≠ d.toNat := fun e => hr (BitVec.eq_of_toNat_eq e)
      simp [Core.sset, hd, Core.scalar, Core.sget, hr, Map.getD_set_ne _ _ _ _ _ hn]

/-- A write of a scalar register changes no other part of the core. -/
theorem Core.sset_frame (c : Core) (r v : Nat) : c.sset r v = { c with s := (c.sset r v).s } := by
  unfold Core.sset; split <;> rfl

end Sys2Proof.Machine
end

