-- ==== Sys2Proof/Laws/Encoding.lean ====
section
/-! SUPPORT. The fields of a sliver-core instruction word, one lemma for each field of each format (R210). -/

namespace Sys2Proof.Machine

theorem extract_append_hi {n m : Nat} (x : BitVec n) (y : BitVec m) (i k : Nat) (h : m ≤ i) :
    (x ++ y).extractLsb' i k = x.extractLsb' (i - m) k := by
  ext j hj
  have e1 : ¬ i + j < m := by omega
  have e2 : i + j - m = i - m + j := by omega
  simp [BitVec.getLsbD_append, e1, e2]

theorem extract_append_lo {n m : Nat} (x : BitVec n) (y : BitVec m) (i k : Nat) (h : i + k ≤ m) :
    (x ++ y).extractLsb' i k = y.extractLsb' i k := by
  ext j hj
  have e1 : i + j < m := by omega
  simp [BitVec.getLsbD_append, e1]

@[simp] theorem wordRR_c (cls fn : Nat) (d a b : BitVec 5) (c : BitVec 7) : (wordRR cls fn d a b c).extractLsb' 0 7 = c := by
  unfold wordRR
  refine (extract_append_lo _ c _ _ (by decide)).trans ?_
  exact BitVec.extractLsb'_eq_self ..

@[simp] theorem wordRR_b (cls fn : Nat) (d a b : BitVec 5) (c : BitVec 7) : (wordRR cls fn d a b c).extractLsb' 7 5 = b := by
  unfold wordRR
  refine (extract_append_hi _ c _ _ (by decide)).trans ?_
  refine (extract_append_lo _ b _ _ (by decide)).trans ?_
  exact BitVec.extractLsb'_eq_self ..

@[simp] theorem wordRR_a (cls fn : Nat) (d a b : BitVec 5) (c : BitVec 7) : (wordRR cls fn d a b c).extractLsb' 12 5 = a := by
  unfold wordRR
  refine (extract_append_hi _ c _ _ (by decide)).trans ?_
  refine (extract_append_hi _ b _ _ (by decide)).trans ?_
  refine (extract_append_lo _ a _ _ (by decide)).trans ?_
  exact BitVec.extractLsb'_eq_self ..

@[simp] theorem wordRR_d (cls fn : Nat) (d a b : BitVec 5) (c : BitVec 7) : (wordRR cls fn d a b c).extractLsb' 17 5 = d := by
  unfold wordRR
  refine (extract_append_hi _ c _ _ (by decide)).trans ?_
  refine (extract_append_hi _ b _ _ (by decide)).trans ?_
  refine (extract_append_hi _ a _ _ (by decide)).trans ?_
  refine (extract_append_lo _ d _ _ (by decide)).trans ?_
  exact BitVec.extractLsb'_eq_self ..

@[simp] theorem wordRR_fn (cls fn : Nat) (d a b : BitVec 5) (c : BitVec 7) : (wordRR cls fn d a b c).extractLsb' 22 6 = BitVec.ofNat 6 fn := by
  unfold wordRR
  refine (extract_append_hi _ c _ _ (by decide)).trans ?_
  refine (extract_append_hi _ b _ _ (by decide)).trans ?_
  refine (extract_append_hi _ a _ _ (by decide)).trans ?_
  refine (extract_append_hi _ d _ _ (by decide)).trans ?_
  refine (extract_append_lo _ (BitVec.ofNat 6 fn) _ _ (by decide)).trans ?_
  exact BitVec.extractLsb'_eq_self ..

@[simp] theorem wordRR_cls (cls fn : Nat) (d a b : BitVec 5) (c : BitVec 7) : (wordRR cls fn d a b c).extractLsb' 28 4 = BitVec.ofNat 4 cls := by
  unfold wordRR
  refine (extract_append_hi _ c _ _ (by decide)).trans ?_
  refine (extract_append_hi _ b _ _ (by decide)).trans ?_
  refine (extract_append_hi _ a _ _ (by decide)).trans ?_
  refine (extract_append_hi _ d _ _ (by decide)).trans ?_
  refine (extract_append_hi _ (BitVec.ofNat 6 fn) _ _ (by decide)).trans ?_
  exact BitVec.extractLsb'_eq_self ..

@[simp] theorem wordRI_imm (cls fn : Nat) (d a : BitVec 5) (imm : BitVec 12) : (wordRI cls fn d a imm).extractLsb' 0 12 = imm := by
  unfold wordRI
  refine (extract_append_lo _ imm _ _ (by decide)).trans ?_
  exact BitVec.extractLsb'_eq_self ..

@[simp] theorem wordRI_a (cls fn : Nat) (d a : BitVec 5) (imm : BitVec 12) : (wordRI cls fn d a imm).extractLsb' 12 5 = a := by
  unfold wordRI
  refine (extract_append_hi _ imm _ _ (by decide)).trans ?_
  refine (extract_append_lo _ a _ _ (by decide)).trans ?_
  exact BitVec.extractLsb'_eq_self ..

@[simp] theorem wordRI_d (cls fn : Nat) (d a : BitVec 5) (imm : BitVec 12) : (wordRI cls fn d a imm).extractLsb' 17 5 = d := by
  unfold wordRI
  refine (extract_append_hi _ imm _ _ (by decide)).trans ?_
  refine (extract_append_hi _ a _ _ (by decide)).trans ?_
  refine (extract_append_lo _ d _ _ (by decide)).trans ?_
  exact BitVec.extractLsb'_eq_self ..

@[simp] theorem wordRI_fn (cls fn : Nat) (d a : BitVec 5) (imm : BitVec 12) : (wordRI cls fn d a imm).extractLsb' 22 6 = BitVec.ofNat 6 fn := by
  unfold wordRI
  refine (extract_append_hi _ imm _ _ (by decide)).trans ?_
  refine (extract_append_hi _ a _ _ (by decide)).trans ?_
  refine (extract_append_hi _ d _ _ (by decide)).trans ?_
  refine (extract_append_lo _ (BitVec.ofNat 6 fn) _ _ (by decide)).trans ?_
  exact BitVec.extractLsb'_eq_self ..

@[simp] theorem wordRI_cls (cls fn : Nat) (d a : BitVec 5) (imm : BitVec 12) : (wordRI cls fn d a imm).extractLsb' 28 4 = BitVec.ofNat 4 cls := by
  unfold wordRI
  refine (extract_append_hi _ imm _ _ (by decide)).trans ?_
  refine (extract_append_hi _ a _ _ (by decide)).trans ?_
  refine (extract_append_hi _ d _ _ (by decide)).trans ?_
  refine (extract_append_hi _ (BitVec.ofNat 6 fn) _ _ (by decide)).trans ?_
  exact BitVec.extractLsb'_eq_self ..

@[simp] theorem wordBR_offset (cls fn : Nat) (a b : BitVec 5) (offset : BitVec 12) : (wordBR cls fn a b offset).extractLsb' 0 12 = offset := by
  unfold wordBR
  refine (extract_append_lo _ offset _ _ (by decide)).trans ?_
  exact BitVec.extractLsb'_eq_self ..

@[simp] theorem wordBR_b (cls fn : Nat) (a b : BitVec 5) (offset : BitVec 12) : (wordBR cls fn a b offset).extractLsb' 12 5 = b := by
  unfold wordBR
  refine (extract_append_hi _ offset _ _ (by decide)).trans ?_
  refine (extract_append_lo _ b _ _ (by decide)).trans ?_
  exact BitVec.extractLsb'_eq_self ..

@[simp] theorem wordBR_a (cls fn : Nat) (a b : BitVec 5) (offset : BitVec 12) : (wordBR cls fn a b offset).extractLsb' 17 5 = a := by
  unfold wordBR
  refine (extract_append_hi _ offset _ _ (by decide)).trans ?_
  refine (extract_append_hi _ b _ _ (by decide)).trans ?_
  refine (extract_append_lo _ a _ _ (by decide)).trans ?_
  exact BitVec.extractLsb'_eq_self ..

@[simp] theorem wordBR_fn (cls fn : Nat) (a b : BitVec 5) (offset : BitVec 12) : (wordBR cls fn a b offset).extractLsb' 22 6 = BitVec.ofNat 6 fn := by
  unfold wordBR
  refine (extract_append_hi _ offset _ _ (by decide)).trans ?_
  refine (extract_append_hi _ b _ _ (by decide)).trans ?_
  refine (extract_append_hi _ a _ _ (by decide)).trans ?_
  refine (extract_append_lo _ (BitVec.ofNat 6 fn) _ _ (by decide)).trans ?_
  exact BitVec.extractLsb'_eq_self ..

@[simp] theorem wordBR_cls (cls fn : Nat) (a b : BitVec 5) (offset : BitVec 12) : (wordBR cls fn a b offset).extractLsb' 28 4 = BitVec.ofNat 4 cls := by
  unfold wordBR
  refine (extract_append_hi _ offset _ _ (by decide)).trans ?_
  refine (extract_append_hi _ b _ _ (by decide)).trans ?_
  refine (extract_append_hi _ a _ _ (by decide)).trans ?_
  refine (extract_append_hi _ (BitVec.ofNat 6 fn) _ _ (by decide)).trans ?_
  exact BitVec.extractLsb'_eq_self ..

end Sys2Proof.Machine
end

