-- ==== Sys2Proof/Laws/Mem.lean ====
section
/-! SUPPORT. Byte stores: what a read gives after a write, and that every write keeps the canonical form. -/

namespace Sys2Proof.Machine

theorem Mem.get_set_self (d : Byte) (q : Nat) (v : Byte) : ∀ (m : Mem), Mem.wfFrom d 0 m = true → Mem.get d (Mem.set d m q v) q = v := by
  suffices h : ∀ (m : Mem) (lo : Nat), Mem.wfFrom d lo m = true → Mem.get d (Mem.set d m q v) q = v from fun m hm => h m 0 hm
  intro m
  induction m with
  | nil => intro lo _; unfold Mem.set; split <;> simp_all [Mem.get]
  | cons e r ih =>
    obtain ⟨k, u⟩ := e
    intro lo hw
    simp only [Mem.wfFrom, Bool.and_eq_true, decide_eq_true_eq] at hw
    unfold Mem.set
    split
    · rename_i hq; subst hq
      split
      · rename_i hv; subst hv
        cases r with
        | nil => rfl
        | cons f r2 =>
          obtain ⟨k2, u2⟩ := f
          simp only [Mem.wfFrom, Bool.and_eq_true, decide_eq_true_eq] at hw
          have h1 : q ≠ k2 := by omega
          have h2 : q < k2 := by omega
          simp [Mem.get, h1, h2]
      · simp [Mem.get]
    · split
      · split
        · rename_i h1 h2 hv; simp [Mem.get, h1, h2, hv]
        · simp [Mem.get]
      · rename_i h1 h2
        simp only [Mem.get, h1, h2, if_false]
        exact ih (k + 1) hw.2

theorem Mem.get_set_ne (d : Byte) (q p : Nat) (v : Byte) (h : p ≠ q) :
    ∀ (m : Mem) (lo : Nat), Mem.wfFrom d lo m = true → Mem.get d (Mem.set d m q v) p = Mem.get d m p := by
  intro m
  induction m with
  | nil => intro lo _; unfold Mem.set; split <;> simp [Mem.get, h]
  | cons e r ih =>
    obtain ⟨k, u⟩ := e
    intro lo hw
    simp only [Mem.wfFrom, Bool.and_eq_true, decide_eq_true_eq] at hw
    unfold Mem.set
    split
    · rename_i hq; subst hq
      split
      · by_cases hp : p < q
        · cases r with
          | nil => simp [Mem.get, h]
          | cons f r2 =>
            obtain ⟨k2, u2⟩ := f
            simp only [Mem.wfFrom, Bool.and_eq_true, decide_eq_true_eq] at hw
            have h1 : p ≠ k2 := by omega
            have h2 : p < k2 := by omega
            simp [Mem.get, h, hp, h1, h2]
        · simp [Mem.get, h, hp]
      · simp [Mem.get, h]
    · split
      · split
        · rfl
        · rename_i h1 h2 hv
          by_cases hp : p < q
          · have e1 : p ≠ k := by omega
            have e2 : p < k := by omega
            simp [Mem.get, h, hp, e1, e2]
          · simp [Mem.get, h, hp]
      · simp only [Mem.get]
        rw [ih (k + 1) hw.2]

theorem Mem.wfFrom_mono {d : Byte} {m : Mem} {lo lo' : Nat} (h : lo' ≤ lo) (hw : Mem.wfFrom d lo m = true) :
    Mem.wfFrom d lo' m = true := by
  cases m with
  | nil => rfl
  | cons e r => simp only [Mem.wfFrom, Bool.and_eq_true, decide_eq_true_eq] at hw ⊢; exact ⟨⟨by omega, hw.1.2⟩, hw.2⟩

theorem Mem.wfFrom_set (d : Byte) (q : Nat) (v : Byte) :
    ∀ (m : Mem) (lo : Nat), lo ≤ q → Mem.wfFrom d lo m = true → Mem.wfFrom d lo (Mem.set d m q v) = true := by
  intro m
  induction m with
  | nil => intro lo hl _; unfold Mem.set; split <;> simp_all [Mem.wfFrom]
  | cons e r ih =>
    obtain ⟨k, u⟩ := e
    intro lo hl hw
    have hw0 := hw
    simp only [Mem.wfFrom, Bool.and_eq_true, decide_eq_true_eq] at hw
    unfold Mem.set
    split
    · rename_i hq; subst hq
      split
      · exact Mem.wfFrom_mono (by omega) hw.2
      · simp_all [Mem.wfFrom]
    · split
      · split
        · exact hw0
        · rename_i h1 h2 hv
          simp only [Mem.wfFrom, Bool.and_eq_true, decide_eq_true_eq]
          exact ⟨⟨hl, hv⟩, ⟨by omega, hw.1.2⟩, hw.2⟩
      · simp only [Mem.wfFrom, Bool.and_eq_true, decide_eq_true_eq]
        exact ⟨hw.1, ih (k + 1) (by omega) hw.2⟩

/-- One byte written keeps the canonical form. -/
theorem Mem.wf_set {d : Byte} {m : Mem} (q : Nat) (v : Byte) (h : Mem.wf d m = true) : Mem.wf d (Mem.set d m q v) = true :=
  Mem.wfFrom_set d q v m 0 (Nat.zero_le _) h

/-! ## Runs of bytes -/

theorem Mem.get_entries (d : Byte) (rest : Mem) : ∀ (l : List Byte) (a q : Nat),
    (∀ p, p < a + l.length → Mem.get d rest p = d) →
    Mem.get d (Mem.entries d a l ++ rest) q = if a ≤ q ∧ q < a + l.length then (l[q - a]?).getD d else if q < a then d else Mem.get d rest q := by
  intro l
  induction l with
  | nil =>
    intro a q h
    simp only [Mem.entries, List.nil_append, List.length_nil]
    by_cases hq : q < a
    · simp [hq, h q (by simpa using hq)]
    · simp [hq]
  | cons b r ih =>
    intro a q h
    have h' : ∀ p, p < a + 1 + r.length → Mem.get d rest p = d := fun p hp => h p (by simp; omega)
    have ihq := ih (a + 1) q h'
    by_cases h1 : q = a
    · subst h1
      have e1 : ¬ (q + 1 ≤ q ∧ q < q + 1 + r.length) := by omega
      have e2 : q < q + 1 := by omega
      rw [if_neg e1, if_pos e2] at ihq
      by_cases hb : b = d
      · simp [Mem.entries, hb, ihq]
      · simp [Mem.entries, hb, Mem.get]
    · by_cases h2 : q < a
      · have e1 : ¬ (a + 1 ≤ q ∧ q < a + 1 + r.length) := by omega
        have e2 : q < a + 1 := by omega
        rw [if_neg e1, if_pos e2] at ihq
        have e3 : ¬ (a ≤ q ∧ q < a + (b :: r).length) := by omega
        rw [if_neg e3, if_pos h2]
        by_cases hb : b = d
        · simp [Mem.entries, hb, ihq]
        · simp [Mem.entries, hb, Mem.get, h1, h2]
      · have key : Mem.get d (Mem.entries d a (b :: r) ++ rest) q = Mem.get d (Mem.entries d (a + 1) r ++ rest) q := by
          by_cases hb : b = d
          · simp [Mem.entries, hb]
          · simp [Mem.entries, hb, Mem.get, h1, h2]
        rw [key, ihq]
        have e2 : ¬ q < a + 1 := by omega
        have e4 : q - a = (q - (a + 1)) + 1 := by omega
        by_cases h3 : q < a + 1 + r.length
        · have e5 : a + 1 ≤ q ∧ q < a + 1 + r.length := by omega
          have e6 : a ≤ q ∧ q < a + (b :: r).length := by simp; omega
          rw [if_pos e5, if_pos e6, e4, List.getElem?_cons_succ]
        · have e5 : ¬ (a + 1 ≤ q ∧ q < a + 1 + r.length) := by omega
          have e6 : ¬ (a ≤ q ∧ q < a + (b :: r).length) := by simp; omega
          rw [if_neg e5, if_neg e6, if_neg e2, if_neg h2]

theorem Mem.get_takeWhile_append (d : Byte) (a q : Nat) (hi : Mem) (hq : a ≤ q) : ∀ m : Mem,
    Mem.get d (m.takeWhile (fun e => decide (e.1 < a)) ++ hi) q = Mem.get d hi q
  | [] => by simp
  | (k, v) :: r => by
    by_cases h : k < a
    · have e1 : q ≠ k := by omega
      have e2 : ¬ q < k := by omega
      simp [h, Mem.get, e1, e2, Mem.get_takeWhile_append d a q hi hq r]
    · simp [h]

theorem Mem.get_takeWhile_below (d : Byte) (a q : Nat) (hi : Mem) (hq : q < a) (hd : Mem.get d hi q = d) : ∀ m : Mem,
    Mem.get d (m.takeWhile (fun e => decide (e.1 < a)) ++ hi) q = Mem.get d m q
  | [] => by simpa [Mem.get] using hd
  | (k, v) :: r => by
    by_cases h : k < a
    · simp [h, Mem.get, Mem.get_takeWhile_below d a q hi hq hd r]
    · have e1 : q ≠ k := by omega
      have e2 : q < k := by omega
      simp [h, Mem.get, e1, e2, hd]

theorem Mem.get_dropWhile (d : Byte) (a q : Nat) (hq : a ≤ q) : ∀ m : Mem,
    Mem.get d (m.dropWhile (fun e => decide (e.1 < a))) q = Mem.get d m q
  | [] => by simp
  | (k, v) :: r => by
    by_cases h : k < a
    · have e1 : q ≠ k := by omega
      have e2 : ¬ q < k := by omega
      simp [h, Mem.get, e1, e2, Mem.get_dropWhile d a q hq r]
    · simp [h]

theorem Mem.get_dropWhile_below (d : Byte) (a q : Nat) (hq : q < a) : ∀ m : Mem,
    Mem.get d (m.dropWhile (fun e => decide (e.1 < a))) q = d
  | [] => by simp [Mem.get]
  | (k, v) :: r => by
    by_cases h : k < a
    · simp [h, Mem.get_dropWhile_below d a q hq r]
    · have e1 : q ≠ k := by omega
      have e2 : q < k := by omega
      simp [h, Mem.get, e1, e2]

/-- A byte read after a run of bytes is written: the byte of the run, and any other address as before. -/
theorem Mem.get_write (d : Byte) (m : Mem) (a : Nat) (l : List Byte) (q : Nat) :
    Mem.get d (Mem.write d m a l) q = if a ≤ q ∧ q < a + l.length then (l[q - a]?).getD d else Mem.get d m q := by
  have hb : ∀ p, p < a + l.length → Mem.get d (m.dropWhile (fun e => decide (e.1 < a + l.length))) p = d :=
    fun p hp => Mem.get_dropWhile_below d _ p hp m
  have he := Mem.get_entries d (m.dropWhile (fun e => decide (e.1 < a + l.length))) l a q hb
  unfold Mem.write
  simp only [List.append_assoc]
  by_cases h1 : q < a
  · have e1 : ¬ (a ≤ q ∧ q < a + l.length) := by omega
    rw [if_neg e1]
    rw [if_neg e1, if_pos h1] at he
    exact Mem.get_takeWhile_below d a q _ h1 he m
  · rw [Mem.get_takeWhile_append d a q _ (by omega) m, he, if_neg h1]
    by_cases h2 : q < a + l.length
    · simp [h2, Nat.le_of_not_lt h1]
    · have e1 : ¬ (a ≤ q ∧ q < a + l.length) := by omega
      rw [if_neg e1, if_neg e1, Mem.get_dropWhile d _ q (by omega)]

theorem Mem.wfFrom_dropWhile {d : Byte} (a : Nat) : ∀ (m : Mem) (lo : Nat), Mem.wfFrom d lo m = true →
    Mem.wfFrom d (max a lo) (m.dropWhile (fun e => decide (e.1 < a))) = true := by
  intro m
  induction m with
  | nil => intro lo _; rfl
  | cons e r ih =>
    obtain ⟨k, v⟩ := e
    intro lo hw
    have hw0 := hw
    simp only [Mem.wfFrom, Bool.and_eq_true, decide_eq_true_eq] at hw
    by_cases h : k < a
    · simp only [List.dropWhile_cons, h, decide_true, if_true]
      exact Mem.wfFrom_mono (by omega) (ih (k + 1) hw.2)
    · simp only [List.dropWhile_cons, h, decide_false, Bool.false_eq_true, if_false]
      simp only [Mem.wfFrom, Bool.and_eq_true, decide_eq_true_eq]
      exact ⟨⟨by omega, hw.1.2⟩, hw.2⟩

theorem Mem.wfFrom_entries {d : Byte} (rest : Mem) : ∀ (l : List Byte) (a : Nat), Mem.wfFrom d (a + l.length) rest = true →
    Mem.wfFrom d a (Mem.entries d a l ++ rest) = true := by
  intro l
  induction l with
  | nil => intro a h; simpa [Mem.entries] using h
  | cons b r ih =>
    intro a h
    have h' := ih (a + 1) (by simp only [List.length_cons] at h; exact Mem.wfFrom_mono (by omega) h)
    by_cases hb : b = d
    · simp only [Mem.entries, hb, if_true]; exact Mem.wfFrom_mono (by omega) h'
    · simp [Mem.entries, hb, Mem.wfFrom, h']

theorem Mem.wfFrom_takeWhile {d : Byte} (a : Nat) (hi : Mem) (hh : Mem.wfFrom d a hi = true) : ∀ (m : Mem) (lo : Nat),
    lo ≤ a → Mem.wfFrom d lo m = true → Mem.wfFrom d lo (m.takeWhile (fun e => decide (e.1 < a)) ++ hi) = true := by
  intro m
  induction m with
  | nil => intro lo hl _; simpa using Mem.wfFrom_mono hl hh
  | cons e r ih =>
    obtain ⟨k, v⟩ := e
    intro lo hl hw
    simp only [Mem.wfFrom, Bool.and_eq_true, decide_eq_true_eq] at hw
    by_cases h : k < a
    · simp only [List.takeWhile_cons, h, decide_true, if_true, List.cons_append]
      simp only [Mem.wfFrom, Bool.and_eq_true, decide_eq_true_eq]
      exact ⟨hw.1, ih (k + 1) (by omega) hw.2⟩
    · simp only [List.takeWhile_cons, h, decide_false, Bool.false_eq_true, if_false, List.nil_append]
      exact Mem.wfFrom_mono hl hh

/-- A run of bytes written keeps the canonical form. -/
theorem Mem.wf_write {d : Byte} {m : Mem} (a : Nat) (l : List Byte) (h : Mem.wf d m = true) :
    Mem.wf d (Mem.write d m a l) = true := by
  unfold Mem.wf Mem.write
  simp only [List.append_assoc]
  refine Mem.wfFrom_takeWhile a _ ?_ m 0 (Nat.zero_le _) h
  exact Mem.wfFrom_entries _ l a (Mem.wfFrom_mono (by omega) (Mem.wfFrom_dropWhile (a + l.length) m 0 h))

/-- A masked run of bytes written keeps the canonical form. -/
theorem Mem.wf_writeMasked {d : Byte} : ∀ (l : List (Byte × Bool)) (m : Mem) (a : Nat), Mem.wf d m = true →
    Mem.wf d (Mem.writeMasked d m a l) = true
  | [], m, a, h => h
  | (b, e) :: r, m, a, h => by
    unfold Mem.writeMasked
    refine Mem.wf_writeMasked r _ _ ?_
    split
    · exact Mem.wf_set a b h
    · exact h

theorem Mem.wfFrom_filter {d : Byte} (p : Nat × Byte → Bool) : ∀ (m : Mem) (lo : Nat), Mem.wfFrom d lo m = true →
    Mem.wfFrom d lo (m.filter p) = true := by
  intro m
  induction m with
  | nil => intro lo _; rfl
  | cons e r ih =>
    obtain ⟨k, v⟩ := e
    intro lo hw
    simp only [Mem.wfFrom, Bool.and_eq_true, decide_eq_true_eq] at hw
    rw [List.filter_cons]
    split
    · simp only [Mem.wfFrom, Bool.and_eq_true, decide_eq_true_eq]; exact ⟨hw.1, ih (k + 1) hw.2⟩
    · exact Mem.wfFrom_mono (by omega) (ih (k + 1) hw.2)

/-- A cleared range keeps the canonical form. -/
theorem Mem.wf_clear {d : Byte} {m : Mem} (lo hi : Nat) (h : Mem.wf d m = true) : Mem.wf d (Mem.clear m lo hi) = true :=
  Mem.wfFrom_filter _ m 0 h

theorem Mem.run_eq {d : Byte} : ∀ (n : Nat) (m : Mem) (a : Nat), Mem.wfFrom d a m = true →
    Mem.run d n m a = (List.range n).map (fun i => Mem.get d m (a + i)) := by
  intro n
  induction n with
  | zero => intro m a _; rfl
  | succ n ih =>
    intro m a hw
    rw [List.range_succ_eq_map, List.map_cons, List.map_map]
    cases m with
    | nil =>
      rw [Mem.run, ih [] (a + 1) rfl]
      rfl
    | cons e r =>
      obtain ⟨k, v⟩ := e
      have hw0 := hw
      simp only [Mem.wfFrom, Bool.and_eq_true, decide_eq_true_eq] at hw
      rw [Mem.run]
      split
      · rename_i hk; subst hk
        rw [ih r (k + 1) hw.2]
        congr 1
        · simp [Mem.get]
        · refine List.map_congr_left (fun i _ => ?_)
          have e1 : k + (i + 1) ≠ k := by omega
          have e2 : ¬ k + (i + 1) < k := by omega
          simp only [Function.comp, Nat.succ_eq_add_one, Mem.get, e1, e2, if_false]
          congr 1; omega
      · rename_i hk
        have hlt : a < k := by omega
        have hw1 : Mem.wfFrom d (a + 1) ((k, v) :: r) = true := by
          simp only [Mem.wfFrom, Bool.and_eq_true, decide_eq_true_eq]; exact ⟨⟨by omega, hw.1.2⟩, hw.2⟩
        rw [ih _ (a + 1) hw1]
        congr 1
        · have : a ≠ k := by omega
          simp [Mem.get, this, hlt]
        · refine List.map_congr_left (fun i _ => ?_)
          simp only [Function.comp, Nat.succ_eq_add_one]
          congr 1; omega

/-- A run of bytes of a canonical store is its bytes one by one. -/
theorem Mem.read_eq {d : Byte} {m : Mem} (a n : Nat) (h : Mem.wf d m = true) :
    Mem.read d m a n = (List.range n).map (fun i => Mem.get d m (a + i)) := by
  unfold Mem.read
  rw [Mem.run_eq n _ a (Mem.wfFrom_mono (by omega) (Mem.wfFrom_dropWhile a m 0 h))]
  exact List.map_congr_left (fun i _ => Mem.get_dropWhile d a (a + i) (by omega) m)

/-! ## Device memory -/

/-- A byte of device memory after a store. -/
theorem devByte_devWrite (s : State) (a : Nat) (l : List Byte) (q : Nat) :
    devByte (devWrite s a l) q = if a ≤ q ∧ q < a + l.length then (l[q - a]?).getD 0 else devByte s q :=
  Mem.get_write memDefault s.mem.bytes a l q

/-- A store to device memory keeps the canonical form. -/
theorem devWrite_wf (s : State) (a : Nat) (l : List Byte) (h : Mem.wf memDefault s.mem.bytes = true) :
    Mem.wf memDefault (devWrite s a l).mem.bytes = true := Mem.wf_write a l h

theorem devWriteMasked_wf (s : State) (a : Nat) (l : List (Byte × Bool)) (h : Mem.wf memDefault s.mem.bytes = true) :
    Mem.wf memDefault (devWriteMasked s a l).mem.bytes = true := by
  unfold devWriteMasked
  split
  · exact Mem.wf_write a _ h
  · exact Mem.wf_writeMasked l _ a h

theorem lateWrite_mem (s : State) : (lateWrite s).mem = s.mem := by unfold lateWrite; split <;> rfl

/-- A job's, an engine's or a unit's write keeps the canonical form. -/
theorem jobWrite_wf (s : State) (a : Nat) (l : List Byte) (h : Mem.wf memDefault s.mem.bytes = true) :
    Mem.wf memDefault (jobWrite s a l).mem.bytes = true := by
  unfold jobWrite
  split
  · rw [lateWrite_mem]; exact devWriteMasked_wf s a _ h
  · split
    · exact h
    · exact devWrite_wf s a l h

theorem unitWrite_wf (s : State) (a : Nat) (l : List Byte) (h : Mem.wf memDefault s.mem.bytes = true) :
    Mem.wf memDefault (unitWrite s a l).mem.bytes = true := by
  have step : ∀ (ps : List (Nat × List Byte)) (s : State), Mem.wf memDefault s.mem.bytes = true → Mem.wf memDefault
      (ps.foldl (fun s p => if rangeOk s p.1 p.2.length true then jobWrite s p.1 p.2 else s) s).mem.bytes = true := by
    intro ps
    induction ps with
    | nil => exact fun s h => h
    | cons p r ih =>
      intro s h
      refine ih _ ?_
      dsimp only
      split
      · exact jobWrite_wf s p.1 p.2 h
      · exact h
  unfold unitWrite
  split
  · exact jobWrite_wf s a l h
  · exact step _ s h

end Sys2Proof.Machine
end

