-- ==== Sys2Proof/Laws/Scan.lean ====
section
/-! SUPPORT. What the passing of time does: it changes the clock, registers, counters, the log and the view head, and nothing else. -/

namespace Sys2Proof.Machine

theorem TimeOnly.refl (s : State) : TimeOnly s s := ⟨rfl, fun _ _ => rfl⟩

theorem TimeOnly.trans {s t u : State} (h : TimeOnly s t) (k : TimeOnly t u) : TimeOnly s u := by
  refine ⟨?_, fun a ha => (k.2 a ha).trans (h.2 a ha)⟩
  rw [k.1, h.1]

theorem TimeOnly.clk (s : State) (c : Clock) : TimeOnly s { s with clk := c } := ⟨rfl, fun _ _ => rfl⟩

theorem CountsOnly.time {s t : State} (h : CountsOnly s t) : TimeOnly s t := by
  refine ⟨by rw [h.1], fun a ha => h.2 a (fun hp => ha ?_)⟩
  simp only [pmcRegister] at hp
  simp only [timeRegisters, List.mem_cons]
  rcases hp with h | h | h <;> simp [h]

theorem poke_time (s : State) (a v : Nat) (ha : a ∈ timeRegisters) : TimeOnly s (poke s a v) :=
  ⟨rfl, fun b hb => reg_poke_ne s a b v (fun e => hb (e ▸ ha))⟩

theorem event_time (s : State) (a k : Nat) (ha : a ∈ timeRegisters) : TimeOnly s (event s a k) := poke_time _ _ _ ha

theorem logEvent_time (s : State) (code block sev : Nat) (args : List Byte) (two : Bool) :
    TimeOnly s (logEvent s code block sev args two) := by
  have l (g : Log) : TimeOnly s { s with log := g } := ⟨rfl, fun _ _ => rfl⟩
  unfold logEvent; dsimp only; split
  · exact l _
  · split
    · exact (l _).trans (event_time _ _ _ (by decide))
    · exact l _

theorem memUncorr_time (s : State) (line input : Nat) : TimeOnly s (memUncorr s line input) := by
  have c (u : State) (b : Bool) : TimeOnly u (countSat u (if b then Reg.MEM_DDR_UE else Reg.MEM_COURT_UE) 1) := by
    cases b <;> exact poke_time _ _ _ (by decide)
  exact (((((poke_time _ _ _ (by decide)).trans (poke_time _ _ _ (by decide))).trans (poke_time _ _ _ (by decide))).trans
    (c _ _)).trans (event_time _ _ _ (by decide))).trans (logEvent_time _ _ _ _ _ _)

theorem pmcAddAll_time : ∀ (l : List (Nat × Nat × Attrs)) (s : State), TimeOnly s (pmcAddAll s l)
  | [], s => .refl s
  | _ :: r, s => (pmcAdd_counts s _ _ _).time.trans (pmcAddAll_time r _)

theorem lostLine_time (s : State) (clone : Bool) (f : ViewFrame) (y px : Nat) : TimeOnly s (lostLine s clone f y px).1 := by
  have h (u : State) : TimeOnly u (if clone then countField u Reg.VRS_UNDERRUNS 31 16 1
      else countField u Reg.VRS_UNDERRUNS 15 0 1) := by
    split <;> exact poke_time _ _ _ (by decide)
  unfold lostLine
  dsimp only
  refine (event_time s Reg.VRS_EVENTS (if clone then 10 else 3) (by decide)).trans ?_
  generalize event s Reg.VRS_EVENTS (if clone then 10 else 3) = u
  have hu := h u
  generalize (if clone = true then countField u Reg.VRS_UNDERRUNS 31 16 1 else countField u Reg.VRS_UNDERRUNS 15 0 1) = v at hu ⊢
  refine hu.trans ?_
  split
  · exact logEvent_time _ _ _ _ _ _
  · exact .refl _

theorem viewFetch_time (clone : Bool) (x : State × ViewFrame) (y : Nat) : TimeOnly x.1 (viewFetch clone x y).1 := by
  have h (b : Bool) : TimeOnly x.1 (if b = true then protect x.1 else x.1) := by
    split
    · exact event_time _ _ _ (by decide)
    · exact .refl _
  unfold viewFetch
  dsimp only
  split
  · exact (h _).trans ((memUncorr_time _ _ _).trans (lostLine_time _ _ _ _ _))
  · exact h _

theorem foldl_time {α : Type} (f : State × ViewFrame → α → State × ViewFrame) (h : ∀ x a, TimeOnly x.1 (f x a).1) :
    ∀ (l : List α) (x : State × ViewFrame), TimeOnly x.1 (l.foldl f x).1
  | [], x => .refl x.1
  | a :: r, x => (h x a).trans (foldl_time f h r (f x a))

theorem fetchLines_time (s : State) (clone : Bool) (f : ViewFrame) (n : Nat) : TimeOnly s (fetchLines s clone f n).1 :=
  foldl_time _ (viewFetch_time clone) _ (s, f)

theorem sendLine_time (clone : Bool) (x : State × ViewFrame) (y : Nat) : TimeOnly x.1 (sendLine clone x y).1 :=
  (TimeOnly.clk x.1 _).trans (fetchLines_time _ _ _ _)

theorem sendLines_time (s : State) (clone : Bool) (f : ViewFrame) (n : Nat) : TimeOnly s (sendLines s clone f n).1 :=
  (foldl_time _ (sendLine_time clone) _ (s, f)).trans (.clk _ _)

theorem lineMatch_time (s : State) (f : ViewFrame) : TimeOnly s (lineMatch s f).1 := by
  unfold lineMatch; dsimp only; split
  · exact event_time _ _ _ (by decide)
  · exact .refl s

theorem setOutFrame_time (s : State) (clone : Bool) (f : Option ViewFrame) : TimeOnly s (setOutFrame s clone f) := by
  cases clone <;> exact ⟨rfl, fun _ _ => rfl⟩

/-- Bringing an output up to date touches the view head and what it reports, nothing else (R354–R358). -/
theorem scanOut_time (s : State) (clone : Bool) : TimeOnly s (scanOut s clone) := by
  unfold scanOut
  split
  · exact .refl s
  · dsimp only
    refine TimeOnly.trans ?_ (setOutFrame_time _ _ _)
    split
    · exact sendLines_time _ _ _ _
    · exact (sendLines_time _ _ _ _).trans (lineMatch_time _ _)

/-- The passing of time touches the clock, the counters and the view head with what it reports, nothing else (R354, R532). -/
theorem advance_time (s : State) (t : Nat) : TimeOnly s (advance s t) := by
  unfold advance
  refine (TimeOnly.trans ?_ (scanOut_time _ false)).trans (scanOut_time _ true)
  dsimp only
  refine TimeOnly.trans ?_ (.clk _ _)
  split
  · exact .refl s
  · exact pmcAddAll_time _ _

@[simp] theorem advance_gradeX (s : State) (t : Nat) : (advance s t).gradeX = s.gradeX := by rw [(advance_time s t).1]
@[simp] theorem advance_com (s : State) (t : Nat) : (advance s t).com = s.com := by rw [(advance_time s t).1]
@[simp] theorem advance_hpt (s : State) (t : Nat) : (advance s t).hpt = s.hpt := by rw [(advance_time s t).1]
@[simp] theorem advance_pages (s : State) (t : Nat) : (advance s t).pages = s.pages := by rw [(advance_time s t).1]
@[simp] theorem advance_status (s : State) (t : Nat) : (advance s t).status = s.status := by rw [(advance_time s t).1]
@[simp] theorem advance_mem (s : State) (t : Nat) : (advance s t).mem = s.mem := by rw [(advance_time s t).1]
@[simp] theorem advance_fab (s : State) (t : Nat) : (advance s t).fab = s.fab := by rw [(advance_time s t).1]
@[simp] theorem advance_sch (s : State) (t : Nat) : (advance s t).sch = s.sch := by rw [(advance_time s t).1]
@[simp] theorem advance_sec (s : State) (t : Nat) : (advance s t).sec = s.sec := by rw [(advance_time s t).1]
@[simp] theorem advance_pwr (s : State) (t : Nat) : (advance s t).pwr = s.pwr := by rw [(advance_time s t).1]
@[simp] theorem advance_frs (s : State) (t : Nat) : (advance s t).frs = s.frs := by rw [(advance_time s t).1]
@[simp] theorem advance_slv (s : State) (t : Nat) : (advance s t).slv = s.slv := by rw [(advance_time s t).1]
@[simp] theorem advance_lys (s : State) (t : Nat) : (advance s t).lys = s.lys := by rw [(advance_time s t).1]
@[simp] theorem advance_cam (s : State) (t : Nat) : (advance s t).cam = s.cam := by rw [(advance_time s t).1]
@[simp] theorem advance_vsn (s : State) (t : Nat) : (advance s t).vsn = s.vsn := by rw [(advance_time s t).1]
@[simp] theorem advance_syn (s : State) (t : Nat) : (advance s t).syn = s.syn := by rw [(advance_time s t).1]
@[simp] theorem advance_trk (s : State) (t : Nat) : (advance s t).trk = s.trk := by rw [(advance_time s t).1]
@[simp] theorem advance_vw (s : State) (t : Nat) : (advance s t).vw = s.vw := by rw [(advance_time s t).1]
@[simp] theorem advance_free (s : State) (t : Nat) : (advance s t).free = s.free := by rw [(advance_time s t).1]
@[simp] theorem advance_pending (s : State) (t : Nat) : (advance s t).pending = s.pending := by rw [(advance_time s t).1]

@[simp] theorem advanceTs_gradeX (s : State) (t : Nat) : (advanceTs s t).gradeX = s.gradeX := advance_gradeX s _
@[simp] theorem advanceTs_com (s : State) (t : Nat) : (advanceTs s t).com = s.com := advance_com s _
@[simp] theorem advanceTs_hpt (s : State) (t : Nat) : (advanceTs s t).hpt = s.hpt := advance_hpt s _
@[simp] theorem advanceTs_pages (s : State) (t : Nat) : (advanceTs s t).pages = s.pages := advance_pages s _
@[simp] theorem advanceTs_status (s : State) (t : Nat) : (advanceTs s t).status = s.status := advance_status s _
@[simp] theorem advanceTs_mem (s : State) (t : Nat) : (advanceTs s t).mem = s.mem := advance_mem s _
@[simp] theorem advanceTs_fab (s : State) (t : Nat) : (advanceTs s t).fab = s.fab := advance_fab s _
@[simp] theorem advanceTs_sch (s : State) (t : Nat) : (advanceTs s t).sch = s.sch := advance_sch s _
@[simp] theorem advanceTs_sec (s : State) (t : Nat) : (advanceTs s t).sec = s.sec := advance_sec s _
@[simp] theorem advanceTs_pwr (s : State) (t : Nat) : (advanceTs s t).pwr = s.pwr := advance_pwr s _
@[simp] theorem advanceTs_frs (s : State) (t : Nat) : (advanceTs s t).frs = s.frs := advance_frs s _
@[simp] theorem advanceTs_slv (s : State) (t : Nat) : (advanceTs s t).slv = s.slv := advance_slv s _
@[simp] theorem advanceTs_lys (s : State) (t : Nat) : (advanceTs s t).lys = s.lys := advance_lys s _
@[simp] theorem advanceTs_cam (s : State) (t : Nat) : (advanceTs s t).cam = s.cam := advance_cam s _
@[simp] theorem advanceTs_vsn (s : State) (t : Nat) : (advanceTs s t).vsn = s.vsn := advance_vsn s _
@[simp] theorem advanceTs_syn (s : State) (t : Nat) : (advanceTs s t).syn = s.syn := advance_syn s _
@[simp] theorem advanceTs_trk (s : State) (t : Nat) : (advanceTs s t).trk = s.trk := advance_trk s _
@[simp] theorem advanceTs_vw (s : State) (t : Nat) : (advanceTs s t).vw = s.vw := advance_vw s _
@[simp] theorem advanceTs_free (s : State) (t : Nat) : (advanceTs s t).free = s.free := advance_free s _
@[simp] theorem advanceTs_pending (s : State) (t : Nat) : (advanceTs s t).pending = s.pending := advance_pending s _

end Sys2Proof.Machine
end

