-- ==== Sys2Proof/WellFormed.lean ====
section
/-! DEFINITION. When a command is well formed: its operands describe an event that can exist. The types of Syntax.lean bound every
number; what is checked here is the length of the byte lists. -/

namespace Sys2Proof

/-- What is wrong with a command that is not well formed. -/
inductive IllFormed where
  /-- A WR or MWR burst is 32 bytes, or 64 for BL32 (R409). -/
  | burstLength
  /-- A command page is 64 KiB (R29): a write does not run beyond its page. -/
  | pageOverrun
  /-- The sink answers with DPCD 0x0–0xF and one to four EDID blocks of 128 bytes (R359). -/
  | auxLength
  deriving DecidableEq, Repr

/-- The bytes of a write burst (R409). -/
def burstBytes (bl32 : Bool) : Nat := if bl32 then 64 else 32

/-- The check of a command: what is wrong with it, if anything. (DESIGN CHOICE, assumption 12.) -/
def Instr.check : Instr → Option IllFormed
  | .wr _ _ bl32 data => if data.length = burstBytes bl32 then none else some .burstLength
  | .mwr _ _ bl32 data => if data.length = burstBytes bl32 then none else some .burstLength
  | .commandPageWrite _ offset data => if offset.toNat + data.length ≤ 0x10000 then none else some .pageOverrun
  | .hpd dpcd edid =>
    if dpcd.length = 16 ∧ edid.length % 128 = 0 ∧ 128 ≤ edid.length ∧ edid.length ≤ 512 then none else some .auxLength
  | .whistle | .windowClose | .registerWrite .. | .submitPage .. | .originReset | .clearTracks | .faultClr
  | .clrCounter .. | .clearAll | .eholdHold .. | .eholdSafe .. | .eholdRelease .. | .pause .. | .logReadWrite ..
  | .whsCountLoRead | .whsTsLoRead | .camPpsTsLoRead | .memErrAddrLoRead | .lysSyncOffsetLoRead | .pmcCntLoRead ..
  | .planLoad .. | .planSwitch .. | .planDiscard .. | .planVerificationEnd | .ctxJoin .. | .ctxLeave .. | .copyIn ..
  | .copyOut .. | .copyEnd | .nopCommand .. | .keyEnrol .. | .flashUpdate .. | .attest .. | .measureExtend ..
  | .bootClear .. | .secCommandEnd .. | .warmReset .. | .warmResetDue | .act .. | .apertureFillDone .. | .read ..
  | .pre .. | .refreshCommand | .sre | .srx | .mrr .. | .mrw .. | .rdc | .wff .. | .rff | .mpcZq | .hostResetNLow
  | .hostPortReady | .commandBusTraining .. | .wck2ckLevelling .. | .wck2dqOscillator .. | .porNLow | .porNRise ..
  | .brownOut .. | .vddCoreLow | .warmRstN | .resetRelease .. | .failedStart | .startOk | .failedStartWarmReset
  | .busSample .. | .coreSample .. | .temperatureSample .. | .logWrite | .scoutRecord .. | .drawArbitration ..
  | .refreshDue .. | .selfRefreshEntry .. | .selfRefreshExit .. | .scrub .. | .frameStart .. | .longPacket ..
  | .frameEnd .. | .truncated .. | .noSignal .. | .fsyncPulse .. | .fsyncFall .. | .busTransactionEnd ..
  | .busWaitEnd .. | .stretch .. | .inBandInterrupt .. | .deskew .. | .encoderEdge .. | .ppsEdge .. | .ppsLost
  | .imuDrdy .. | .imuReadDone .. | .pyr .. | .corner .. | .desc .. | .matchRow .. | .flow .. | .dvis .. | .stereo ..
  | .conf .. | .playbookEnd .. | .visionInstructionEnd .. | .sob .. | .chainFrameStart | .chainReadback .. | .syncDrop
  | .lineRelease .. | .directPinTransition .. | .directReadback .. | .lineRecord | .jobListEntry .. | .conv ..
  | .poolMax .. | .poolAvg .. | .boxDecode .. | .tileComplete .. | .sliverJob .. | .jobEnd .. | .shotClock ..
  | .dmaComplete .. | .messageDelivery .. | .reductionDone .. | .coreFault .. | .spareCheckEnd ..
  | .undefinedEncoding .. | .endCore .. | .nop .. | .fence .. | .gshift .. | .stst .. | .add .. | .sub .. | .and ..
  | .or .. | .xor .. | .sll .. | .srl .. | .sra .. | .mul .. | .mulh .. | .mulhu .. | .slt .. | .sltu .. | .seq ..
  | .min .. | .max .. | .minu .. | .maxu .. | .adds .. | .subs .. | .alui .. | .lui .. | .lmi .. | .beq .. | .bne ..
  | .blt .. | .bge .. | .bltu .. | .bgeu .. | .jmp .. | .jal .. | .jr .. | .loop .. | .lb .. | .lbu .. | .lh ..
  | .lhu .. | .lw .. | .sb .. | .sh .. | .sw .. | .vld .. | .vst .. | .vgath .. | .vscat .. | .vadd .. | .vsub ..
  | .vand .. | .vor .. | .vxor .. | .vsll .. | .vsrl .. | .vsra .. | .vmin .. | .vmax .. | .vadds .. | .vsubs ..
  | .vsel .. | .vdot8 .. | .vdot8u .. | .vfma .. | .vfmaw .. | .vaddh .. | .vmulh .. | .vqnt .. | .vceq .. | .vclt ..
  | .mand .. | .mor .. | .mxor .. | .vshuf .. | .vpk8 .. | .mnot .. | .vcvthw .. | .vcvtwh .. | .vcvthi ..
  | .vcvtih .. | .vupkl8 .. | .vupkh8 .. | .raddf .. | .raddi .. | .rmaxf .. | .rminf .. | .rmaxi .. | .rmini ..
  | .recv .. | .vbcast .. | .vext .. | .vins .. | .get .. | .put .. | .blkget .. | .wait .. | .send .. | .bar ..
  | .tcontrib .. | .unext .. | .synthesisJob .. | .decisionJob .. | .gen .. | .compose .. | .takeoverJob ..
  | .viewFrameStart | .cloneFrameStart | .viewUnderrun .. | .viewSob | .frameDone .. | .frameRecord
  | .linkTrainingEnd .. | .hpdIrq .. | .unplug | .linkDetect .. | .linkTrain .. | .linkAlign .. | .linkFail ..
  | .blockLockLoss .. | .idleFrame .. | .hello .. | .acknak .. | .syncFrame .. | .heartbeat .. | .rget .. | .rput ..
  | .remoteRequestServed | .reply .. | .mirror .. | .mirrorEnd .. | .droppedFrame .. | .mirrorSectionSend
  | .heartbeatSend | .heartbeatDeadline | .badFrame .. => none

/-- A command is well formed. -/
def Instr.wf (i : Instr) : Bool := i.check.isNone

end Sys2Proof
end

