-- ==== Sys2Proof/Tests/Slice0.lean ====
section
/-! SUPPORT. The model's own tests: the well-formedness check, instruction words written out from R210 and R552, single steps whose
results follow from the spec's rules, and for each statement of Certificates/Slice0 a state and operands that meet its hypotheses. -/

namespace Sys2Proof.Tests
open Sys2Proof.Machine

/-! ## Well-formedness -/

theorem test_wr_of_31_bytes : (Instr.wr 0 0 false (List.replicate 31 (0, false))).check = some .burstLength := by decide
theorem test_wr_of_32_bytes : (Instr.wr 0 0 false (List.replicate 32 (0, false))).wf = true := by decide
theorem test_mwr_bl32_of_32_bytes : (Instr.mwr 0 0 true (List.replicate 32 (0, true))).check = some .burstLength := by decide
theorem test_page_write_past_the_end : (Instr.commandPageWrite 0 0xFFFF [(1, true), (2, true)]).check = some .pageOverrun := by decide
theorem test_page_write_at_the_end : (Instr.commandPageWrite 0 0xFFFF [(1, true)]).wf = true := by decide
theorem test_hpd_short_edid : (Instr.hpd (List.replicate 16 0) (List.replicate 127 0)).check = some .auxLength := by decide
theorem test_ill_formed_burst_stops : exec (.wr 0 0 false []) State.reset = .fault (.illFormed "WR") := rfl

/-! ## Instruction words (R210, R552): CLASS, FN, D, A, B, C, written out -/

theorem test_word_add : sliverDecode 5 0b0001_000000_00011_00001_00010_0000000#32 = some (.add 5 3 1 2) := by decide
theorem test_word_nop : sliverDecode 5 0b0000_000001_00000_00000_00000_0000000#32 = some (.nop 5) := by decide
theorem test_word_alui_min : sliverDecode 5 0b0010_001110_00100_00101_111111111111#32 = some (.alui 5 .min 4 5 0xFFF) := by decide
theorem test_word_lui : sliverDecode 5 0b0010_100000_00100_00000_000000000001#32 = some (.lui 5 4 1) := by decide
theorem test_word_blt : sliverDecode 5 0b0011_000010_00001_00010_111111111110#32 = some (.blt 5 1 2 0xFFE) := by decide
theorem test_word_sw : sliverDecode 5 0b0100_001010_00111_00001_000000000100#32 = some (.sw 5 7 1 4) := by decide
theorem test_word_vdot8u : sliverDecode 5 0b0101_010001_00001_00010_00011_0000101#32 = some (.vdot8u 5 1 2 3 5) := by decide
theorem test_word_vqnt : sliverDecode 5 0b0110_010000_00001_00010_00011_0000000#32 = some (.vqnt 5 1 2 3 0) := by decide
theorem test_word_vscat : sliverDecode 5 0b0111_000011_00001_00010_000000001000#32 = some (.vscat 5 1 2 8) := by decide
theorem test_word_vscat_d31 : sliverDecode 5 0b0111_000011_11111_00010_000000001000#32 = none := by decide
theorem test_word_rmini : sliverDecode 5 0b1000_000101_00001_00010_00000_0000000#32 = some (.rmini 5 1 2) := by decide
theorem test_word_get : sliverDecode 5 0b1001_000000_00001_00010_00011_0000100#32 = some (.get 5 1 2 3 4) := by decide
theorem test_word_get_b31 : sliverDecode 5 0b1001_000000_00001_00010_11111_0000100#32 = none := by decide
theorem test_word_send : sliverDecode 5 0b1010_000000_00000_00010_00011_0000000#32 = some (.send 5 2 3) := by decide
theorem test_word_tcontrib : sliverDecode 5 0b1011_000000_00000_00010_00000_0000000#32 = some (.tcontrib 5 2) := by decide
theorem test_word_unext : sliverDecode 5 0b1100_000000_00001_00000_00000_0000000#32 = some (.unext 5 1) := by decide
theorem test_word_class_13 : sliverDecode 5 0b1101_000000_00000_00000_00000_0000000#32 = none := by decide
theorem test_word_alu_fn_20 : sliverDecode 5 0b0001_010100_00000_00000_00000_0000000#32 = none := by decide

/-! ## States for tests -/

/-- The state after a command, or the reset state where it does not complete. -/
def after (o : Out) : State := match o with | .next t => t | _ => State.reset

/-- A leaf of squad 0 with engine 0 as the whole plan. -/
def tLeaf : Huddle := ⟨0, 0xFF, false, false, 0, 0, 0, 1, 1, 0, 0, 64⟩
def tPlan : Plan := { huddles := [tLeaf] }

/-- The part in its run phase, with that plan in force and what huddle 0 runs. -/
def tState (r : HuddleRun) : State :=
  { fab := { plan := tPlan, inForce := true }, sch := { hud := [(0, r)] }, pwr := { phase := .run, porN := true } }

/-- Registers in force that hold other than their reset values. -/
def tRegs (l : List (Nat × Word)) : Map Word := l.foldl (fun m e => Map.set m e.1 e.2) []

/-- A sliver job on core 0, the core with its record, and the state that runs them. -/
def tJob : Job := { kind := 1, ctx := 0, huddle := 0, desc := 0, cores := [0], rowN := 3, chunk := 1 }
def tRun (c : Core) : State :=
  { tState { group := [tJob] } with slv := { cores := [(0, { c with active := true, huddle := 0 })] } }

/-! ## Single steps -/

theorem test_add_wraps :
    ((coreOf (after (exec (.add 0 3 1 2) (tRun { s := [(1, 0xFFFFFFFF), (2, 2)] }))) 0).sget 3) = 1 := by decide
theorem test_add_to_s0_is_discarded :
    ((coreOf (after (exec (.add 0 0 1 2) (tRun { s := [(1, 5), (2, 2)] }))) 0).sget 0) = 0 := by decide
theorem test_adds_clamps :
    ((coreOf (after (exec (.adds 0 3 1 2) (tRun { s := [(1, 0x7FFFFFFF), (2, 2)] }))) 0).sget 3) = 0x7FFFFFFF := by decide
theorem test_mulh_is_signed :
    ((coreOf (after (exec (.mulh 0 3 1 1) (tRun { s := [(1, 0xFFFFFFFF)] }))) 0).sget 3) = 0 := by decide
theorem test_lb_extends_the_sign :
    ((coreOf (after (exec (.lb 0 3 0 0x100) (tRun { loc := [(0x100, 0x80)] }))) 0).sget 3) = 0xFFFFFF80 := by decide
theorem test_loop_branches_while_not_zero :
    (coreOf (after (exec (.loop 0 1 0xFFF) (tRun { s := [(1, 2)], pc := 7 }))) 0).pc = 6 := by decide
theorem test_loop_falls_through_at_zero :
    (coreOf (after (exec (.loop 0 1 0xFFF) (tRun { s := [(1, 1)], pc := 7 }))) 0).pc = 8 := by decide
theorem test_store_to_the_control_window_faults :
    (hudOf (after (exec (.sw 0 1 2 0) (tRun { s := [(2, 0x4000)] }))) 0).group = [] := by decide

/-- R318, R320: ON at step 5 with the last step 9; PULSE of width 6 ends at the last step; a word beyond LENGTH is OFF. -/
theorem test_resolve_on : resolveWord (1 + 4 * 5) 6 9 false = [(5, true)] := by decide
theorem test_resolve_pulse_is_cut : resolveWord (2 + 4 * 5) 6 9 false = [(5, true), (9, false)] := by decide
theorem test_resolve_off : resolveWord 0 6 9 true = [(0, false)] := by decide

/-- R326: a channel without a transition sends 48 zero bits; one with ON at step 5 has STEP 5, LEVEL 1 and VALID in slot 0. -/
theorem test_channel_bits : channelBits [] = 0 ∧ channelBits [(5, true)] = 5 + 2 ^ 19 + 2 ^ 20 := by decide

/-- The check value of the CRC-32 of IEEE 802.3 over "123456789". -/
theorem test_crc32 : crc32 [0x31, 0x32, 0x33, 0x34, 0x35, 0x36, 0x37, 0x38, 0x39] = 0xCBF43926 := by decide +kernel

/-- R330: an emergency write without the key is discarded, one with it sends SAFE. -/
theorem test_ehold_without_the_key : exec (.eholdSafe 0x4E49) State.reset = .next State.reset := rfl
theorem test_ehold_safe : (after (exec (.eholdSafe 0x4E48) State.reset)).frs.ehold = 2 := by decide

/-- R382, R383: from the seed 0x5EED_0001 a register steps as x^32 + x^22 + x^2 + x + 1 does; zero would stay zero. -/
theorem test_lfsr_moves : stepLfsrN 32 1 ≠ 1 := by decide

/-- R418: MR5 reads 0x9A; R419: a FIFO read of an empty FIFO gives zeros. -/
theorem test_mrr5 : (after (exec (.mrr 5) { State.reset with hpt := { resetLow := false } })).hpt.out = [0x9A] := by decide

/-- R545: a value beyond LOG_COUNT is taken as the nearer end. -/
theorem test_log_read_clamps :
    reg (after (exec (.logReadWrite 12) { State.reset with log := { count := 10, held := 4 } })) Reg.LOG_READ = 10 := by decide
theorem test_log_read_clamps_below :
    reg (after (exec (.logReadWrite 5) { State.reset with log := { count := 10, held := 4 } })) Reg.LOG_READ = 6 := by decide


/-! ## States that meet the statements' hypotheses: sliver cores -/

/-- A core that issues an instruction of the job. -/
theorem issues (c : Core) (hw : c.wait = none) (he : c.ended = false) : CoreIssues (tRun c) 0 tJob :=
  ⟨fun _ h => absurd h (Nat.not_lt_zero _), ⟨0, rfl⟩, rfl, he, rfl, Or.inl hw⟩

theorem wit_core_issues : CoreIssues (tRun {}) 0 tJob := issues {} rfl rfl
theorem wit_core_issues_again : CoreIssues (tRun { wait := some .again }) 0 tJob :=
  ⟨fun _ h => absurd h (Nat.not_lt_zero _), ⟨0, rfl⟩, rfl, rfl, rfl, Or.inr (Or.inl rfl)⟩

theorem wit_round_trip : (sliverWord (.vscat 0 30 31 0xFFF)).isSome = true ∧ undefinedForm (.vscat 0 30 31 0xFFF) = false := by decide
theorem wit_undefined_words : 12 < ((0xD0000000#32).extractLsb' 28 4).toNat ∧ ((0x90000F80#32).extractLsb' 28 4).toNat = 9 ∧
    (0x90000F80#32).extractLsb' 7 5 = 31 ∧ ((0x70FE0000#32).extractLsb' 28 4).toNat = 7 ∧
    (0x70FE0000#32).extractLsb' 22 6 = 3 ∧ (0x70FE0000#32).extractLsb' 17 5 = 31 := by decide

/-- Addresses at the ends of the local memory map, in the registers of the core. -/
def tEnds : Core := { s := [(1, 0x403C), (2, 0x3FFC), (3, 0x4020), (4, 0x3FE0), (5, 0x403E), (6, 0x3FFE), (7, 0x3FFD)] }
theorem wit_scalar_load_at_the_end : CoreIssues (tRun tEnds) 0 tJob ∧
    effective (issuing (tRun tEnds) 0) 1 0 + LoadOp.w.bytes ≤ 0x4040 ∧ effective (issuing (tRun tEnds) 0) 1 0 % LoadOp.w.bytes = 0 :=
  ⟨issues tEnds rfl rfl, by decide, by decide⟩
theorem wit_scalar_store_at_the_end : CoreIssues (tRun tEnds) 0 tJob ∧
    effective (issuing (tRun tEnds) 0) 2 0 + StoreOp.w.bytes ≤ 0x4000 ∧ effective (issuing (tRun tEnds) 0) 2 0 % StoreOp.w.bytes = 0 :=
  ⟨issues tEnds rfl rfl, by decide, by decide⟩
theorem wit_vector_memory_at_the_ends : CoreIssues (tRun tEnds) 0 tJob ∧
    (let c := issuing (tRun tEnds) 0
     effective c 3 0 + 32 ≤ 0x4040 ∧ effective c 3 0 % 32 = 0 ∧ effective c 4 0 + 32 ≤ 0x4000 ∧ effective c 4 0 % 32 = 0 ∧
     (∀ n : Fin 16, (effective c 5 0 + 2 * c.lane 1 n.val) % 2 ^ 32 + 2 ≤ 0x4040) ∧
     (∀ n : Fin 16, (effective c 6 0 + 2 * c.lane 2 n.val) % 2 ^ 32 + 2 ≤ 0x4000)) :=
  ⟨issues tEnds rfl rfl, by decide⟩
theorem wit_control_window : tJob.cores.length < 0x10000 ∧ tJob.rowN < 2 ^ 32 := by decide
theorem wit_requantise : CoreIssues (tRun { s := [(2, 0x03000000)] }) 0 tJob ∧
    (((issuing (tRun { s := [(2, 0x03000000)] }) 0).scalar 2).extractLsb' 24 4).toNat ≤ 3 := ⟨issues _ rfl rfl, by decide⟩

/-- sD is 64 bytes at Court address 0x10000; the local end is the last that fits; a request in flight. -/
def tDma : Core := { s := [(1, 64), (2, 0x3FC0), (3, 0x10000), (5, 1)], dma := [{ kind := 0, loc := 0, addr := 0x10000, size := 64, tile := 0 }] }
theorem wit_dma_issue : CoreIssues (tRun tDma) 0 tJob ∧ (((issuing (tRun tDma) 0).scalar 0).toNat = 0) ∧
    ((issuing (tRun tDma) 0).scalar 5).toNat = ringId (tRun tDma) + 1 ∧
    (0x10000 % 64 = 0 ∧ 0x3FC0 + 64 ≤ 0x4000 ∧ rangeOk (tRun tDma) 0x10000 64 false = true ∧ rangeOk (tRun tDma) 0x10000 64 true = true) ∧
    blockBytes (unitRead (tRun tDma) 0x10000 16) ≤ 4096 ∧ rangeOk (tRun tDma) 0x10000 (blockBytes (unitRead (tRun tDma) 0x10000 16)) false = true :=
  ⟨issues tDma rfl rfl, by decide, by decide, by decide, by decide, by decide⟩
theorem wit_dma_complete : noOldJob (tRun tDma) 0 ∧ jobOfCore (tRun tDma) 0 = some (0, tJob) ∧ Canonical (tRun tDma) ∧
    poisoned (tRun tDma) 0x10000 64 = false ∧ addrFenced (tRun tDma) 0x10000 64 = false :=
  ⟨fun _ h => absurd h (Nat.not_lt_zero _), rfl, by unfold Canonical; decide, by decide, rfl⟩

/-- Two cores of one squad: core 0 issues, core 1 is active; a message is on its way to core 0. -/
def tPair (c d : Core) : State :=
  { tState { group := [{ tJob with cores := [0, 1] }] } with
    slv := { cores := [(0, { c with active := true, huddle := 0 }), (1, { d with active := true, huddle := 0 })] } }
theorem wit_send : CoreIssues (tPair { s := [(1, 1)] } {}) 0 { tJob with cores := [0, 1] } ∧
    ((issuing (tPair { s := [(1, 1)] } {}) 0).scalar 1).toNat = 1 ∧ (coreOf (tPair { s := [(1, 1)] } {}) 1).active = true ∧
    (coreOf (tPair { s := [(1, 1)] } {}) 1).mail.length + (coreOf (tPair { s := [(1, 1)] } {}) 1).inbound.length < 16 :=
  ⟨⟨fun _ h => absurd h (Nat.not_lt_zero _), ⟨0, rfl⟩, rfl, rfl, rfl, Or.inl rfl⟩, by decide, rfl, by decide⟩
theorem wit_recv_waits : CoreIssues (tRun tEnds) 0 tJob ∧ ((issuing (tRun tEnds) 0).scalar 4).toNat + 16 ≤ 0x4000 ∧
    (issuing (tRun tEnds) 0).mail = [] := ⟨issues tEnds rfl rfl, by decide, rfl⟩
theorem wit_delivery : noOldJob (tPair { wait := some (.recv 1 0), inbound := [(1, [])] } {}) 0 ∧
    (jobOfCore (tPair { wait := some (.recv 1 0), inbound := [(1, [])] } {}) 0).isSome = true ∧
    (coreOf (tPair { wait := some (.recv 1 0), inbound := [(1, [])] } {}) 1).wait ≠ some .fence :=
  ⟨fun _ h => absurd h (Nat.not_lt_zero _), by decide, by decide⟩
theorem wit_barrier_holds : CoreIssues (tPair {} {}) 0 { tJob with cores := [0, 1] } ∧ [0, 1].Nodup ∧
    (∀ k ∈ [0, 1], (coreOf (tPair {} {}) k).huddle = (coreOf (tPair {} {}) 0).huddle) ∧ (coreOf (tPair {} {}) 1).wait ≠ some .bar :=
  ⟨⟨fun _ h => absurd h (Nat.not_lt_zero _), ⟨0, rfl⟩, rfl, rfl, rfl, Or.inl rfl⟩, by decide, by decide, by decide⟩
theorem wit_barrier_opens : CoreIssues (tPair {} { wait := some .bar }) 0 { tJob with cores := [0, 1] } ∧
    (coreOf (tPair {} { wait := some .bar }) 1).wait = some .bar :=
  ⟨⟨fun _ h => absurd h (Nat.not_lt_zero _), ⟨0, rfl⟩, rfl, rfl, rfl, Or.inl rfl⟩, rfl⟩
theorem wit_units : CoreIssues (tRun {}) 0 tJob ∧ (issuing (tRun {}) 0).inUnit = false ∧ (issuing (tRun {}) 0).staged = [] ∧
    tJob.cores ≠ [] ∧ tJob.order = 0 ∧ ({ tJob with order := 1 } : Job).order = 1 ∧ 0 < tJob.chunk ∧ enumOf tJob 0 < tJob.cores.length :=
  ⟨issues {} rfl rfl, by decide⟩

/-- A huddle that runs a job and has no other work; core 0, which runs it, as the slot of a detected error. -/
theorem wit_no_work : NoWorkLeft (tRun tEnds) 0 ∧ OnlyWorkOf (tRun tEnds) 0 32 ∧ logicalOf (squadOf (tRun {}) 0) 0 ≠ none ∧
    jobOfCore (tRun {}) (0 * 16 + (logicalOf (squadOf (tRun {}) 0) 0).getD 0) = some (0, tJob) ∧ (coreOf (tRun {}) 0).active = true ∧
    (squadOf (tRun {}) 0).bench.testBit 0 = false :=
  ⟨⟨rfl, rfl, rfl, rfl, fun _ h => absurd h List.not_mem_nil⟩, ⟨rfl, rfl, rfl, Or.inr rfl, fun _ h => absurd h List.not_mem_nil⟩,
   by decide, by decide, rfl, by decide⟩

/-- A tensor that Range Guard does not act on. -/
def tTensor : Tensor := ⟨0, false, false, 0, 0, 3, 0, 1, [1], 0⟩
def tGuard : State := { tRun { gtensor := some (0, 0, 3, 0) } with fab := { plan := { tPlan with tensors := [tTensor] }, inForce := true } }
theorem wit_gshift : CoreIssues tGuard 0 tJob ∧ tGuard.fab.plan.tensors[0]? = some tTensor ∧ guarded tGuard tJob.image tTensor = false ∧
    fieldLE tJob.bytes 0x28 8 = 0 ∧ (issuing tGuard 0).gtensor = some (0, 0, 3, 0) :=
  ⟨⟨fun _ h => absurd h (Nat.not_lt_zero _), ⟨0, rfl⟩, rfl, rfl, rfl, Or.inl rfl⟩, rfl, by decide, by decide, rfl⟩

theorem wit_program_faults : CoreIssues (tRun tEnds) 0 tJob ∧ jobOfCore (tRun tEnds) 0 = some (0, tJob) ∧
    (tRun tEnds).slv.cores.Pairwise (fun x y => x.1 < y.1) ∧ sliverDecode 0 0xD0000000 = none ∧
    0x4040 < effective (issuing (tRun tEnds) 0) 5 0 + LoadOp.w.bytes ∧
    effective (issuing (tRun tEnds) 0) 7 0 + StoreOp.h.bytes ≤ 0x4000 ∧ effective (issuing (tRun tEnds) 0) 7 0 % StoreOp.h.bytes ≠ 0 ∧
    ((issuing (tRun tEnds) 0).scalar 8).toNat + 16 ≤ 0x4040 ∧ 16 ≤ ((issuing (tRun tEnds) 0).scalar 1).toNat :=
  ⟨issues tEnds rfl rfl, rfl, by decide, by decide, by decide, by decide, by decide, by decide, by decide⟩
theorem wit_idle_slot : (tState {}).sch.old = [] ∧ jobOfCore (tState {}) 0 = none ∧ romOnCore (tState {}) 0 = none ∧
    (squadOf (tState {}) 0).bench.testBit 0 = false := by decide
theorem wit_spare_check : (squadOf { tState {} with slv := { squads := [(0, { checking := true })] } } 0).checking = true ∧
    (squadOf { tState {} with slv := { squads := [(0, { checking := true })] } } 0).bench.testBit 16 = false := by decide

/-- A finished sliver job with a reduction of one word. -/
def tReduce : Job := { tJob with bytes := [0, 1] ++ List.replicate 34 0 ++ [1, 0] ++ List.replicate 26 0 }
def tReduced : State := { tState { group := [tReduce] } with slv := { cores := [(0, { active := true, huddle := 0, ended := true })] } }
theorem wit_reduction : tReduced.sch.old = [] ∧ (hudOf tReduced (topOf tReduced.fab.plan 0)).group = [tReduce] ∧
    coresEnded tReduced tReduce = true ∧ tReduce.reduced = false ∧ tReduce.view = false := by decide
theorem wit_reduction_writes : rangeOk tReduced (fieldLE tReduce.bytes 0x18 8 + tReduce.child * fieldLE tReduce.bytes 0x20 4)
      (4 * redElems tReduce) true = true ∧ addrFenced tReduced 0 4 = false ∧
    (∀ l ∈ tReduce.cores, ∀ q ∈ (coreOf tReduced l).dma, q.kind ≠ 1 ∨ q.device ≠ none) := by decide
theorem wit_reduction_no_work : NoWorkLeft tReduced 0 := ⟨rfl, rfl, rfl, rfl, fun _ h => absurd h List.not_mem_nil⟩
theorem wit_reduces : reduces tReduce = true := by decide
theorem wit_tcontrib : CoreIssues (tRun tEnds) 0 tJob ∧ ((issuing (tRun tEnds) 0).scalar 1).toNat + 4 * redElems tJob ≤ 0x4040 :=
  ⟨issues tEnds rfl rfl, by decide⟩

/-! ## States that meet the statements' hypotheses: host port, commit, log, commands -/

/-- The run phase with Court bank 0 lent to the aperture, and a row open in host bank 0. -/
def tOpen (r : Map OpenRow) : State :=
  { tState {} with fab := { plan := { tPlan with owners := [0x0100] }, inForce := true }, hpt := { banks := r },
                   clk := { started := true } }
/-- The last aperture row, the last command-page row, a row of neither. -/
def tRow : OpenRow := { row := 519, aperture := true, filled := false, stale := false, buf := [] }
def tPageRow : OpenRow := { tRow with row := 255, aperture := false }
def tNoRow : OpenRow := { tRow with row := 520, aperture := false }
/-- The aperture row with its last line come before the fill is complete. -/
def tEarly : OpenRow := { tRow with early := [(31, List.replicate 64 1)] }

theorem wit_activate : portAccepts (tOpen []) = true ∧ Map.get (tOpen []).hpt.banks 15 = none ∧
    portAccepts (tOpen [(15, tRow)]) = true ∧ Map.get (tOpen [(15, tRow)]).hpt.banks 15 ≠ none ∧
    0x1000000 ≤ 519 * 0x8000 + 15 * 0x800 ∧ 519 * 0x8000 + 15 * 0x800 < 0x1000000 + lentSize (tOpen []) := by decide
theorem wit_reads_of_rows : Map.get (tOpen [(15, tRow)]).hpt.banks 15 = some tRow ∧ tRow.aperture = true ∧ tRow.filled = false ∧
    tRow.stale = false ∧ rowDevice (tOpen [(15, tRow)]) 15 tRow = some 0x3F800 ∧
    (∀ i, i < 32 → (tOpen [(15, tRow)]).mem.poison.contains (0x3F800 + 64 * i) = false) ∧ tRow.bad = [] ∧
    Map.get tRow.early ((burstOf 63 false).1 / 64) = none ∧ tRow.early.Pairwise (fun x y => x.1 < y.1) ∧
    0x1000000 ≤ tRow.row * 0x8000 + 15 * 0x800 + (burstOf 63 false).1 :=
  ⟨rfl, rfl, rfl, rfl, by decide, fun _ _ => rfl, rfl, rfl, List.Pairwise.nil, by decide⟩
theorem wit_reads_early : Map.get (tOpen [(15, tEarly)]).hpt.banks 15 = some tEarly ∧
    Map.get tEarly.early ((burstOf 63 false).1 / 64) = some (List.replicate 64 1) ∧ tEarly.filled = false ∧ tEarly.stale = false ∧
    tEarly.early.Pairwise (fun x y => x.1 < y.1) ∧ (∀ e ∈ tEarly.early, e.1 < 32 ∧ e.2.length = 64) := by decide
theorem wit_reads_filled_or_stale : ({ tRow with filled := true } : OpenRow).bad = [] ∧ ({ tRow with stale := true } : OpenRow).stale = true ∧
    0x1000000 ≤ tNoRow.row * 0x8000 ∧ tNoRow.aperture = false := by decide
theorem wit_reads_page : portAccepts (tOpen [(15, tPageRow)]) = true ∧ (tOpen [(15, tPageRow)]).pwr.phase = .run ∧
    0x400000 ≤ tPageRow.row * 0x8000 + 15 * 0x800 + (burstOf 63 false).1 ∧
    tPageRow.row * 0x8000 + 15 * 0x800 + (burstOf 63 false).1 < 0x800000 := by decide
theorem wit_write_burst : portAccepts (tOpen [(15, tRow)]) = true ∧ (List.replicate 32 ((1 : Byte), true)).length = (burstOf 63 false).2 ∧
    Canonical (tOpen [(15, tRow)]) ∧ (tOpen [(15, tPageRow)]).com.checking = false :=
  ⟨by decide, by decide, by unfold Canonical; decide, rfl⟩
theorem wit_register_write : Reg.WHS_PERIOD < 0x180000 ∧ (findReg Reg.WHS_PERIOD).isSome = true ∧ Reg.WHS_PERIOD % 4 = 0 ∧
    ((findReg Reg.WHS_PERIOD).map (fun x => (x.1.wc != 0, x.1.w1c))) = some (true, 0) ∧
    ((findReg Reg.MEM_EVENTS).map (fun x => (x.1.wc, x.1.w1c != 0))) = some (0, true) ∧
    Reg.WHS_PERIOD ∉ [Reg.FRS_EHOLD, Reg.LOG_READ, Reg.LOG_CTRL, Reg.WHS_SUBMIT_LO, Reg.WHS_SUBMIT_HI] ∧
    (tState {}).pwr.phase = .run ∧ State.reset.pwr.phase ≠ .run ∧ (tState {}).com.checking = false ∧
    ({ tState {} with com := { checking := true } } : State).com.checking = true := by decide
/-- The block of huddle 5, which the plan does not define, and that of huddle 0, which it defines. -/
theorem wit_register_write_huddle : (∀ h ∈ [0, 5], let a := Reg.HUD_JOB_COUNT h
      a % 4 = 0 ∧ a < 0x180000 ∧ (findReg a).isSome = true ∧ 0x30000 ≤ a ∧ a < 0x40000) ∧
    huddleDefined (tState {}) ((Reg.HUD_JOB_COUNT 5 - 0x30000) / 0x100) = false ∧
    huddleDefined (tState {}) ((Reg.HUD_JOB_COUNT 0 - 0x30000) / 0x100) = true := by decide
theorem wit_command_pages : (tState {}).pwr.phase = .run ∧ Canonical (tState {}) ∧ (0xFFFF#16).toNat + 1 ≤ 0x10000 ∧
    (63 ∈ ({ tState {} with com := { checking := true, pages := [63] } } : State).com.pages) :=
  ⟨rfl, by unfold Canonical; decide, by decide, by decide⟩
theorem wit_latched_reads : (tState {}).pwr.phase = .run := rfl
theorem wit_mode_registers : portAccepts (tState {}) = true ∧ modeDefined (1 : Byte).toNat = true ∧ modeDefined (3 : Byte).toNat = true ∧
    (∀ n ∈ [16, 18, 26], modeDefined n = true) ∧ 4 ≤ (5 : Byte).toNat ∧ (5 : Byte).toNat ≤ 8 ∧
    (tState {}).hpt.fspOp = (0x33 : Byte).toNat / 4 % 4 ∧ (tState {}).hpt.cbt = false ∧ (tState {}).hpt.fifo = [] ∧
    ({ tState {} with hpt := { cbt := true, levelling := true } } : State).hpt.cbt = true ∧
    ({ tState {} with hpt := { fifo := [[1]] } } : State).hpt.fifo = [[1]] := by decide
theorem wit_port_states : (tOpen [(0, tRow), (15, tRow)]).hpt.banks.Pairwise (fun x y => x.1 < y.1) ∧
    portAccepts (tOpen [(0, tRow), (15, tRow)]) = true ∧
    ({ tState {} with hpt := { asleep := true } } : State).hpt.asleep = true ∧
    ({ tState {} with hpt := { asleep := true } } : State).hpt.resetLow = false ∧
    ({ tState {} with hpt := { asleep := true } } : State).hpt.sleepKind = 0 := by decide
theorem wit_step_idle : State.reset.pending = [] := rfl
theorem wit_window : (tOpen []).pwr.phase = .run ∧ (tOpen []).clk.started = true ∧ (tOpen []).com.checking = false ∧
    ({ State.reset with clk := { started := true } } : State).pwr.phase = .reset ∧
    ({ State.reset with clk := { started := true } } : State).clk.corr = 0 ∧
    State.reset.clk.started = false ∧ State.reset.pwr.phase ≠ .boot ∧ State.reset.vrs.frame = none ∧ State.reset.vrs.clone = none := by
  decide

/-- The emergency hold finds chain 0's line released, or its SYNC still before its rise. -/
def tWire (f : Frs) : State := { tOpen [] with frs := { f with cur := some { target := 0, outcome := 2 } } }
theorem wit_at_once : (∀ l, (tWire {}).frs.cur = some l → l.outcome ≠ 0 ∨ l.cancelled = true) ∧
    (tWire {}).clk.now < (tWire { syncRise := 1 }).frs.syncRise ∧ (tWire {}).frs.syncRise ≤ (tWire {}).clk.now ∧
    (tWire { wireCode := 2 }).frs.wireCode ≠ 0 ∧ (tWire {}).frs.pins = 0 :=
  ⟨fun l h => by injection h with h; subst h; exact Or.inl (by decide), by decide⟩

/-- Two words at the close: a lead time that is rejected and a pulse width that is taken. -/
def tFrozen : State := { tState {} with com := { frozen := [(Reg.WHS_COMMIT, 5000), (Reg.FRS_PULSE, 100)] } }
theorem wit_commit : tFrozen.com.pages = [] ∧ tFrozen.com.epochUp = false ∧ tFrozen.com.frozen.Pairwise (fun x y => x.1 < y.1) := by decide
theorem wit_commit_verdicts : wordVerdicts tFrozen (withWords tFrozen tFrozen.com.frozen) (tFrozen.com.frozen.map (·.1)) =
    [(Reg.WHS_COMMIT, 2), (Reg.FRS_PULSE, 0)] := by decide +kernel

/-- The context 0 of huddle 0, its job running there. -/
def tCtxRec : CtxRec := ⟨0, 0, 0, 0, 0, 0, 0, 0, 0, 0, 0⟩
def tCtx : State :=
  { tState { group := [{ tJob with ctx := 0 }] } with sch := { ctxs := [(0, { record := tCtxRec, banks := [], epoch := 0 })],
                                                               hud := [(0, { group := [{ tJob with ctx := 0 }] })] } }
theorem wit_pause : (Map.get tCtx.sch.ctxs 0).isSome = true ∧ tCtx.sch.hud = [(0, { group := [{ tJob with ctx := 0 }] })] ∧
    Map.get tCtx.sch.ctxs 31 = none ∧ (0x4E49#16) ≠ 0x4E48 := by decide
theorem wit_pause_alone : OnlyWorkOf tCtx 0 0 :=
  ⟨rfl, rfl, rfl, Or.inr rfl, fun e h => by simp only [tCtx, List.mem_singleton] at h; subst h; exact Or.inl rfl⟩
theorem wit_log_read : ({ State.reset with log := { count := 2 ^ 32 - 1, held := 4096 } } : State).log.count < 2 ^ 32 ∧
    ({ State.reset with log := { count := 2 ^ 32 - 1, held := 4096 } } : State).log.held ≤ 4096 := by decide
/-- The log as in `tLog` takes warnings and faults. -/
def tLog : State := { State.reset with regs := [(Reg.LOG_CTRL, 2)] }
theorem wit_log_filter : 0 < min 2 (fld tLog Reg.LOG_CTRL 2 1) ∧ min 2 (fld tLog Reg.LOG_CTRL 2 1) ≤ 1 ∧
    sumN (tLog.log.queue.map LogEvent.size) + 2 ≤ 64 := by decide
theorem wit_log_write : Canonical State.reset ∧ Mem.wf 0 State.reset.log.ring = true ∧ fld State.reset Reg.LOG_CTRL 0 0 = 0 ∧
    (let e : LogEvent := { ts := 0, code := 0x15, block := 6, sev := 2, args := [1, 2, 3, 4, 5, 6], two := false }
     e.cont = false ∧ e.two = false ∧ e.args.length ≤ 6 ∧ e.sev = 2) :=
  ⟨by unfold Canonical; decide, by decide, by decide, by decide⟩

/-- The scout's instruction of core 3, complete, discarded, or still to complete. -/
def tScout (p : ScoutPhase) : State := { tLog with pmc := { inFlight := some ⟨3, 7, 0, 32, 0, 0, false, false, 0, p⟩ } }
theorem wit_scout : State.reset.pmc.inFlight = none ∧ (∀ p, (tScout p).pmc.inFlight = some ⟨3, 7, 0, 32, 0, 0, false, false, 0, p⟩) ∧
    ScoutPhase.issued ≠ .complete ∧ ScoutPhase.issued ≠ .discarded ∧ Canonical (tScout .complete) :=
  ⟨rfl, fun _ => rfl, by decide, by decide, by unfold Canonical; decide⟩

/-- A copy from the last 64 bytes that are lent to the end of Court. -/
def tCopy : Copy := { ref := ⟨0, 0⟩, toDevice := true, offset := 0x3FFC0, size := 64, addr := 0x3FFFFC0 }
theorem wit_copy : (0x3FFC0 : Nat) % 64 = 0 ∧ lentSize (tOpen []) = 0x3FFC0 + 64 ∧ rangeOk (tOpen []) 0x3FFFFC0 64 true = true ∧
    (tOpen []).mem.copies.length < 256 ∧ 256 ≤ (List.replicate 256 tCopy).length ∧ Canonical (tOpen []) ∧ (tOpen []).mem.poison = [] :=
  ⟨by decide, by decide, by decide, by decide, Nat.le_of_eq List.length_replicate.symm,
   by unfold Canonical; decide, rfl⟩

/-- The copy as it ends: nothing moved before, its one line moved, a poisoned line read before. -/
def tCopying (c : Copy) : State := { tOpen [] with mem := { copies := [c] } }
theorem wit_copy_end : (∀ c ∈ [tCopy, { tCopy with moved := [0x3FFFFC0] }, { tCopy with failed := true }],
      (tCopying c).mem.copies = [c] ∧ c.offset % 64 = 0 ∧ c.size % 64 = 0 ∧ c.addr % 64 = 0 ∧
      c.offset + c.size ≤ lentSize (tCopying c) ∧ rangeOk (tCopying c) c.addr c.size c.toDevice = true ∧
      (∀ p ∈ copyRest (tCopying c) c, addrFenced (tCopying c) p.2 64 = false)) ∧
    copyRest (tCopying tCopy) tCopy ≠ [] ∧ copyRest (tCopying { tCopy with moved := [0x3FFFFC0] }) { tCopy with moved := [0x3FFFFC0] } = [] ∧
    tCopy.failed = false ∧ (tOpen []).mem.copies = [] ∧ apertureAddr (tOpen []) 0x3FFFF ≠ none := by decide

/-- A plan with one bank in the context pool, and a record that takes it. -/
def tPool : State := { tState {} with fab := { plan := { tPlan with owners := [0x0102] }, inForce := true }, vw := { dv := dvOf State.reset } }
def tRecord : BitVec 256 := 0x1000000000007#256
theorem wit_context_join : tPool.com.epochUp = false ∧ Map.get tPool.sch.ctxs 0x100 = none ∧
    ctxFormatBad tPool.fab.plan (leBytes 32 tRecord.toNat) = false ∧
    ctxPlanBad tPool.fab.plan (parseCtx (leBytes 32 tRecord.toNat)) (tPool.sch.ctxs.map (·.2.record)) = false ∧
    (parseCtx (leBytes 32 tRecord.toNat)).share = (poolFree tPool.fab.plan tPool.sch.ctxs).length ∧
    Map.get tPool.sch.ctxs (parseCtx (leBytes 32 tRecord.toNat)).id = none ∧
    tPool.vw.pic = none ∧ dvOf tPool = tPool.vw.dv := by decide
theorem wit_context_rejects : ctxFormatBad tPool.fab.plan (leBytes 32 32) = true ∧
    ctxFormatBad tPool.fab.plan (leBytes 32 0x10007) = false ∧
    ctxPlanBad tPool.fab.plan (parseCtx (leBytes 32 0x10007)) (tPool.sch.ctxs.map (·.2.record)) = true ∧
    (poolFree tPool.fab.plan tPool.sch.ctxs).length < (parseCtx (leBytes 32 0x2000000000007)).share := by decide
theorem wit_context_leave : tCtx.com.epochUp = false ∧ Map.get tCtx.sch.ctxs 0x100 = none ∧
    tCtx.sch.ctxs.Pairwise (fun x y => x.1 < y.1) ∧
    (let u : State := { tCtx with sch := { ctxs := tCtx.sch.ctxs }, vw := { dv := dvOf State.reset } }
     (Map.get u.sch.ctxs 0).isSome = true ∧ u.vw.pic = none ∧ dvOf u = u.vw.dv ∧ ∀ h, ∀ j ∈ (hudOf u h).group, j.ctx ≠ 0) :=
  ⟨rfl, rfl, by decide, by decide, rfl, by decide, fun _ _ h => by simp [hudOf, Map.getD, Map.get] at h⟩

/-- A load that waits for its verification, and a plan that waits for its switch. -/
def tLoading : State := { tOpen [] with fab := { (tOpen []).fab with loading := some ⟨0, 0⟩, pend := 1, loadSize := 0x40000 } }
def tPending : State := { tState {} with fab := { (tState {}).fab with pend := 2, pendHash := [1], pendPlan := some tPlan } }
theorem wit_plan_load : (0 : Nat) % 256 = 0 ∧ 0 + 0x40000 ≤ lentSize (tOpen []) ∧ (tOpen []).fab.loading = none ∧
    lentSize (tOpen []) < 0 + 0x40001 ∧ tLoading.fab.loading = some ⟨0, 0⟩ ∧ Canonical tLoading :=
  ⟨by decide, by decide, by decide, by decide, rfl, by unfold Canonical; decide⟩
theorem wit_plan_verdict : planVerdict tLoading [] 0 ≠ none := by decide
theorem wit_plan_switch : switchCause tPending (pendNow tPending) 1 = none ∧ tPending.fab.pendPlan = some tPlan ∧ tPlan.contexts = [] ∧
    switchCause tPending (pendNow tPending) 2 = some causePLAN := by decide

/-- A security queue with one command. -/
def tSec (op : Nat) : State := { tOpen [] with sec := { queue := [{ ref := ⟨0, 0⟩, opcode := op, bytes := [], data := some [] }] } }
theorem wit_security : (∀ c, (tSec 0x1004).sec.queue.head? = some c → c.data.isSome = true) ∧ (tSec 0x1004).sec.queue.length < 16 ∧
    16 ≤ (List.replicate 16 ((tSec 0x1004).sec.queue)).length ∧ hasIdentity (tSec 0x1003) = false ∧
    hasIdentity { tSec 0x1003 with sec := { (tSec 0x1003).sec with root := some 1 } } = true ∧ (tSec 0x1003).mem.poison = [] ∧
    0x3FE98 + 360 ≤ lentSize (tOpen []) ∧ (0x3FE80 : Nat) % 64 = 0 ∧ 0x3FE00 + 480 ≤ lentSize (tOpen []) ∧
    16 ≤ slotSize 0 ∧ ¬ ((1 : Nat) < 2 ∧ 1 = (tSec 0x1002).sec.fwSlot) ∧
    ((0 : Nat) < 2 ∧ 0 = (tSec 0x1002).sec.fwSlot) ∧ (0x574C#32) ≠ 0x574D :=
  ⟨fun c h => by simp only [tSec, List.head?, Option.some.injEq] at h; subst h; rfl, by decide⟩
theorem wit_warm_reset_due : ({ tState {} with pwr := { (tState {}).pwr with warmAt := some 0 } } : State).pwr.warmAt = some 0 ∧
    ({ tState {} with pwr := { (tState {}).pwr with warmAt := some 0 } } : State).pwr.phase = .run := by decide

theorem wit_power : (tState {}).pwr.phase = .run ∧ Canonical (tState {}) ∧ (0x3F#6) ≠ 0 ∧
    ({ State.reset with pwr := { porN := true } } : State).pwr.phase = .reset ∧
    ({ State.reset with pwr := { porN := true } } : State).pwr.cause ≤ 2 ∧
    hasIdentity { State.reset with sec := { failing := some 3 } } = false ∧
    ({ State.reset with sec := { resetDue := true }, pwr := { phase := .boot } } : State).sec.resetDue = true ∧
    ({ State.reset with sec := { okAt := some 0 } } : State).sec.fwRaiseMin = false ∧
    0 ≤ tickNow ({ State.reset with sec := { okAt := some 0 } } : State) ∧ State.reset.pwr.temps = [] :=
  ⟨rfl, by unfold Canonical; decide, by decide⟩
theorem wit_warm_release : ({ State.reset with pwr := { cause := 5 } } : State).pwr.phase = .reset ∧
    2 < ({ State.reset with pwr := { cause := 5 } } : State).pwr.cause ∧
    ({ State.reset with pwr := { porN := false } } : State).pwr.porN = false := by decide
/-- The release after a power-on reset waits for the supplies; a command of the security queue outlives no reset. -/
def tFacts (up : Bool) : BootFacts := ⟨true, true, up, 0, true, true, true, 0xFF, [], [], 0⟩
theorem wit_reset_release : (tFacts true).suppliesUp = true ∧ (tFacts false).suppliesUp = false ∧
    (tState {}).sec.queue = [] ∧ (tState {}).pwr.porN = true ∧ State.reset.pwr.porN = false ∧ (tState {}).pwr.phase ≠ .reset := by decide
theorem wit_power_temperature : thermalMet (after (exec (.temperatureSample (BitVec.ofNat 256 (127 * 16))) (tState {}))) = true ∧
    thermalMet (tState {}) = false := by decide

/-- An LC request of an engine that a Court arbiter and an LPDDR6 arbiter answer. -/
def tAsk : DrawRequest := { input := 32, tag := 32, last := true, addr := 0, corrected := false }
theorem wit_draw : drawAnswers (tState {}) 255 tAsk = true ∧ drawAnswers (tState {}) 263 tAsk = true ∧ (drawClass (tState {}) tAsk).1 = 0 := by
  decide
/-- A beat of the running copy asks a Court arbiter at its line; a request of a context without tickets loses its beat. -/
def tBeat : DrawRequest := { input := 48, tag := 33, last := true, addr := 0x3FFFFC0, corrected := false }
theorem wit_draw_beat : (let s := { tCopying tCopy with regs := [(Reg.SCH_DRAW_COPY, 0)] }
    drawAnswers s 255 tBeat = true ∧ (drawClass s tBeat).1 = 0 ∧ 48 ≤ tBeat.input.toNat ∧ tBeat.input.toNat ≤ 55 ∧
    (copyRest s tCopy).find? (fun p => p.2 == tBeat.addr.toNat / 64 * 64) = some (0x3FFC0, 0x3FFFFC0) ∧
    addrFenced s 0x3FFFFC0 64 = false ∧ (∀ q ∈ [tAsk], q.tag.toNat ≠ 33)) ∧
    drawAnswers (tCopying tCopy) 263 tAsk = true ∧ srHeld (tCopying tCopy) = false ∧
    drawField { tState {} with regs := [(Reg.SCH_CTX_CTRL 0, 2)] } 255 [{ tAsk with tag := 0 }] = [] ∧
    ([tAsk].filter (fun q => drawAnswers (tState {}) 263 q && some q.input.toNat != (none : Option Nat) &&
      decide (0 < Map.getD [(32, 1)] q.input.toNat 0))) = [tAsk] := by decide
/-- Self-refresh and Court scrubbing enabled. -/
def tMemory : State :=
  { tOpen [] with regs := tRegs [(Reg.MEM_SR_CTRL, 1), (Reg.MEM_SCRUB, 1)] }
theorem wit_self_refresh_idle : (∀ x, Map.get tMemory.mem.lastReq 7 = some x → x + fld tMemory Reg.MEM_SR_CTRL 31 16 * tuNs ≤ tMemory.clk.now) ∧
    Map.get ({ tMemory with mem := { lastReq := [(7, 0)] } } : State).mem.lastReq 7 = some 0 ∧
    0 + fld tMemory Reg.MEM_SR_CTRL 31 16 * tuNs ≤ tMemory.clk.now ∧ beatDue tMemory 7 = false ∧ tMemory.pwr.phase ≠ .reset ∧
    State.reset.pwr.phase = .reset ∧ (tMemory.mem.sr ||| 128).testBit 7 = true := ⟨fun x h => by simp [tMemory, tOpen, tState, Map.get] at h, by decide⟩
theorem wit_ddr_scrub : (let s := { tMemory with regs := tRegs [(Reg.MEM_SCRUB, 0x10000)], mem := { scrubOn := true } }
    fld s Reg.MEM_SCRUB 31 16 ≠ 0 ∧ s.clk.started = true ∧ s.mem.scrubOn = true ∧ tolAllows s = true) ∧
    lineIn true 0x800000000 = true ∧ lineIn true 0x1000000000 = false ∧ lineIn false 0x3FFFFC0 = true ∧ lineIn false 0x4000000 = false := by
  decide
theorem wit_self_refresh_and_scrub : fld tMemory Reg.MEM_SR_CTRL 0 0 = 1 ∧ tolAllows tMemory = true ∧ tMemory.mem.sr.testBit 7 = false ∧
    fld { tState {} with regs := [(Reg.MEM_SR_CTRL, 0)] } Reg.MEM_SR_CTRL 0 0 = 0 ∧ orderlyStop tMemory = false ∧
    orderlyStop { tMemory with regs := [(Reg.PWR_SHED_CTRL, 0x40)], pwr := { tMemory.pwr with level := 7 } } = true ∧
    (0x3FFFFC0#40).toNat % 64 = 0 ∧ (0x3FFFFC0#40).toNat < 0x4000000 ∧ tMemory.clk.started = true ∧
    fld tMemory Reg.MEM_SCRUB 15 0 ≠ 0 ∧ (0x3FFFFC0#40).toNat ∉ tMemory.mem.poison := by decide

/-! ## Jobs -/

/-- A structure's bytes in memory at an address, from the offsets and values of its bytes that are not zero. -/
def tBytes (base : Nat) (l : List (Nat × Byte)) : Mem := l.map (fun x => (base + x.1, x.2))

/-- A 1 × 1 convolution of one INT8 element, and a sliver job of one unit. -/
def tConv : List (Nat × Byte) := [(0, 1), (2, 1), (3, 1), (4, 1), (5, 1), (8, 1), (0xA, 1), (0xC, 1), (0xE, 1), (0x10, 1), (0x12, 1),
  (0x14, 1), (0x1A, 1), (0x1C, 2), (0x20, 100), (0x39, 0x10), (0x41, 0x20), (0x49, 0x30), (0x51, 0x40), (0x69, 0x50), (0x71, 0x60),
  (0x79, 0x70), (0x89, 0x80)]
def tSliver : List (Nat × Byte) := [(2, 0xFF), (3, 0xFF), (4, 100), (8, 1), (0xE, 0xFF), (0xF, 0xFF), (0x31, 0x80)]
def tElem : Tensor := ⟨2, false, false, 0, 0, 0, 0, 4, [1, 1, 1, 1], 0⟩
def tWorkPlan : Plan := { tPlan with tensors := [tElem, tElem, tElem], programs := [⟨[0], 0, 0⟩],
                                     tilings := [⟨0, 0, 1, 1, 0xFFFF, false⟩], trees := [⟨0, 0⟩] }
/-- A descriptor at 0x100000 in the list entry that huddle 0 has taken. -/
def tTaken (kind : Nat) (l : List (Nat × Byte)) : State :=
  { tState { taken := some (32, 0x100000, kind, 0xFF) } with fab := { plan := tWorkPlan, inForce := true }, mem := { bytes := tBytes 0x100000 l } }

theorem wit_entry : FreeHuddle (tState { list := { addr := 0, left := 1 } }) 0 ∧ topOf (tState {}).fab.plan 0 = 0 ∧
    (tState { list := { addr := 0, left := 1 } }).sch.ctxs = [] ∧
    (devRead (tState {}) 0 16 = List.replicate 16 0 ∧ entryFormatBad (tState {}).fab.plan 0 ([0, 0, 0, 0, 0, 0, 0, 0, 0xFF] ++ List.replicate 7 0) = false) ∧
    1 < fieldLE (devRead { tState {} with mem := { bytes := [(9, 2)] } } 0 16) 9 1 :=
  ⟨⟨by decide, by decide, rfl, rfl, rfl, rfl, rfl⟩, by decide, rfl, by decide, by decide⟩
/-- The list of a huddle with one child; its entry lies outside Court and LPDDR6. -/
def tOutside : State :=
  { tState { list := { addr := 0x4000000, left := 1 } } with
    fab := { plan := { tPlan with huddles := [{ tLeaf with composite := true, children := 1 }, { tLeaf with id := 1, parent := 0 }] }, inForce := true } }
theorem wit_entry_outside : FreeHuddle tOutside 0 ∧ topOf tOutside.fab.plan 0 = 0 ∧ rangeOk tOutside 0x4000000 16 false = false ∧
    fieldLE (unitRead tOutside 0x4000000 16) 9 1 ≤ 1 ∧ entryFormatBad tOutside.fab.plan 0 (unitRead tOutside 0x4000000 16) = false ∧
    rangeOk (tState {}) 0 16 false = true := ⟨⟨by decide, by decide, rfl, rfl, rfl, rfl, rfl⟩, by decide⟩
theorem wit_conv : rangeOk (tTaken 0 tConv) 0x100000 144 false = true ∧ fieldLE (devRead (tTaken 0 tConv) 0x100000 144) 0 1 = 1 ∧
    meCheck (tTaken 0 tConv) [tLeaf] (devRead (tTaken 0 tConv) 0x100000 144) = none ∧
    takenParts (tTaken 0 tConv) 0 true ⟨0, 0, 1, 0, 1⟩ 0xFF = [⟨0, 0, 1, 0, 1⟩] ∧ Canonical (tTaken 0 tConv) :=
  ⟨by decide, by decide, by decide +kernel, by decide, by unfold Canonical; decide⟩
/-- The descriptor of the convolution as POOL_MAX, POOL_AVG and BOX_DECODE, without its weights. -/
def tPooling (op : Byte) : List (Nat × Byte) :=
  (0, op) :: ((tConv.drop 1).map (fun x => if x.1 = 0x1A then (0x1A, 0xFF) else x)).flatMap
    (fun x => if x.1 = 0x1A then [x, (0x1B, 0xFF)] else if x.1 = 0x28 then [] else [x])
theorem wit_pooling : meCheck (tTaken 0 (tPooling 2)) [tLeaf] (devRead (tTaken 0 (tPooling 2)) 0x100000 144) = none ∧
    meCheck (tTaken 0 (tPooling 3)) [tLeaf] (devRead (tTaken 0 (tPooling 3)) 0x100000 144) = none ∧
    meCheck (tTaken 0 (tPooling 4)) [tLeaf] (devRead (tTaken 0 (tPooling 4)) 0x100000 144) ≠ none ∧
    meCheck (tTaken 0 (tPooling 2)) [tLeaf] (List.replicate 144 0) = some stFORMAT := by decide +kernel
theorem wit_sliver_job : rangeOk (tTaken 1 tSliver) 0x100000 64 false = true ∧
    slvCheck (tTaken 1 tSliver) [tLeaf] (devRead (tTaken 1 tSliver) 0x100000 64) 1 = none ∧
    slvCheck (tTaken 1 tSliver) [tLeaf] (List.replicate 64 0) 1 = some stEMPTY ∧ Canonical (tTaken 1 tSliver) :=
  ⟨by decide, by decide +kernel, by decide +kernel, by unfold Canonical; decide⟩
theorem test_sliver_job_starts : (coreOf (after (exec (.sliverJob 0) (tTaken 1 tSliver))) 0).active = true := by decide +kernel
theorem test_job_end_after_its_cores :
    (hudOf (after (exec (.jobEnd 0) (after (exec (.endCore 0) (tRun {}))))) 0).group = [] := by decide +kernel

/-- The convolution on engine 0, before its tile, and one whose input block carries the tag of another tile. -/
def tTile (bytes : Mem) : State :=
  { tState { group := [{ tJob with kind := 0, bytes := devRead (tTaken 0 tConv) 0x100000 144, chN := 1, rowN := 1, cores := [] }] } with
    fab := { plan := tWorkPlan, inForce := true }, mem := { bytes := bytes } }
def tTileJob : Job := { tJob with kind := 0, bytes := devRead (tTaken 0 tConv) 0x100000 144, chN := 1, rowN := 1, cores := [] }
theorem wit_tile : (tTile []).sch.old = [] ∧ Canonical (tTile []) ∧ Canonical (tTile [(0x1000, 5)]) ∧
    jobOfEngine (tTile []) 0 = some (0, tTileJob, 0, 1) ∧ nextTile tTileJob 1 1 0 = some 0 ∧
    (let d := parseMe tTileJob.bytes
     (∀ x, x ∈ tileReads d tElem (some tElem) 0 → rangeOk (tTile []) x.1 x.2 false = true) ∧
     (∀ x, x ∈ tileWrites d tElem 0 (bandRows d.oh d.tileH 0) → rangeOk (tTile []) x.1 x.2 true = true) ∧
     tileSkew (tTile []) tTileJob d tElem (some tElem) 0 0 = none ∧ guarded (tTile []) tTileJob.image tElem = false ∧
     tileSkew (tTile [(0x1000, 5)]) tTileJob d tElem (some tElem) 0 0 ≠ none) :=
  ⟨rfl, by unfold Canonical; decide, by unfold Canonical; decide, by decide +kernel, by decide +kernel, by decide +kernel⟩
/-- The entry stopped on a tag mismatch in this very cycle. -/
theorem wit_skew_now : skewNow (tTile []) 0 0 = none ∧
    skewNow (tState { lastSkew := some (0, [tTileJob], 0) }) 0 0 = some (tTileJob, 0) ∧ tTileJob.huddle = 0 := by decide
theorem wit_job_end : (let s := tRun { ended := true }
    leafFinished s tJob = true ∧ s.sch.ctxs = [] ∧ (hudOf s (topOf s.fab.plan 0)).group = [tJob] ∧ tJob.huddle = 0 ∧ tJob.kind ≤ 1) := by decide

/-- Huddle 0 with a ROM stage job due; one route for all of its stages, and a view descriptor of one pixel. -/
def tDue (d : Nat × Nat × Nat × Nat) : State :=
  { tState { romDue := [d] } with
    fab := { plan := { tPlan with tensors := [⟨3, false, false, 0, 0, 0, 0, 3, [4, 1, 1], 0⟩] }, inForce := true }
    regs := [(Reg.SYN_VW_DESC_LO, 0x1000)], vw := { dv := 2 }, clk := { next := 6 }, vrs := { dp := [(Reg.VRS_HTIME0, 1), (Reg.VRS_VTIME0, 1)] }
    mem := { bytes := [(0x1000, 1), (0x1001, 1), (0x1004, 1), (0x1006, 1), (0x1014, 1), (0x1018, 1), (0x1020, 1)] } }
def tDesc : List Byte := devRead (tDue (4, 0, 5, 0)) 0x1000 136
theorem wit_rom_due : FreeHuddle (tDue (2, 0, 5, 0)) 0 ∧ huddleDefined (tDue (2, 0, 5, 0)) 0 = true ∧
    romNoCores (tDue (2, 0, 5, 0)) 0 = false ∧ romDueOf (tDue (2, 0, 5, 0)) 2 0 = some (2, 0, 5, 0) ∧
    romDueOf (tDue (3, 0, 5, 0)) 3 0 = some (3, 0, 5, 0) ∧ segEnded (tDue (3, 0, 5, 0)) 0 5 = true ∧
    romDueOf (tDue (6, 0, 5, 0)) 6 0 = some (6, 0, 5, 0) :=
  ⟨⟨by decide, by decide, rfl, rfl, rfl, rfl, rfl⟩, by decide, by decide, by decide, by decide, by decide, by decide⟩
/-- A stage of the view runs on another huddle. -/
def tStages (k : Nat) : State :=
  { tDue (k, 0, 5, 0) with sch := { hud := [(0, { romDue := [(k, 0, 5, 0)] }), (1, { rom := [{ tJob with kind := 9 - k, huddle := 1 }] })] } }
theorem wit_stage_runs : stageRuns (tDue (4, 0, 5, 0)) = false ∧ stageRuns (tDue (5, 0, 5, 0)) = false ∧
    (∀ k ∈ [4, 5], FreeHuddle (tStages k) 0) ∧ ∀ k ∈ [4, 5], huddleDefined (tStages k) 0 = true ∧ romNoCores (tStages k) 0 = false ∧
      romDueOf (tStages k) k 0 = some (k, 0, 5, 0) ∧ stageRuns (tStages k) = true :=
  ⟨by decide, by decide, fun k h => by
    simp only [List.mem_cons, List.not_mem_nil, or_false] at h
    rcases h with rfl | rfl <;> exact ⟨by decide, by decide, rfl, rfl, rfl, rfl, rfl⟩, by decide⟩
theorem wit_gen : romDueOf (tDue (4, 0, 5, 0)) 4 0 = some (4, 0, 5, 0) ∧ stageFirst (tDue (4, 0, 5, 0)) (4, 0, 5, 0) = true ∧
    viewSuspended (tDue (4, 0, 5, 0)) = false ∧ tickNow (tDue (4, 0, 5, 0)) + vdComp tDesc < 5 + (tDue (4, 0, 5, 0)).vw.dv ∧
    vdEmpty tDesc = false ∧ viewFormatBad (tDue (4, 0, 5, 0)) tDesc 2 = false ∧
    rangeOk (tDue (4, 0, 5, 0)) 0x1000 tDesc.length false = true ∧ vdEmpty (List.replicate 128 0) = true ∧
    viewFormatBad (tDue (4, 0, 5, 0)) (setNth tDesc 2 8) 2 = true := by decide +kernel
theorem wit_compose : (let s := { tDue (5, 0, 5, 0) with vw := { dv := 4, pic := some { start := 7, desc := setNth tDesc 0x20 3, image := [], epoch := 0, dv := 4 } } }
    romDueOf s 5 0 = some (5, 0, 5, 0) ∧ stageFirst s (5, 0, 5, 0) = true ∧
    (∃ p, s.vw.pic = some p ∧ 5 + vdComp p.desc ≠ p.start ∧ p.start ≤ 5 + vdComp p.desc)) :=
  ⟨by decide, by decide, ⟨_, rfl, by decide, by decide⟩⟩

/-- An entry that ends leaves the huddle without work; the convolution whose one tile is complete is done. -/
theorem wit_ends_without_work : NoWorkLeft (tTaken 0 (tPooling 4)) 0 ∧ NoWorkLeft (tTile [(0x1000, 5)]) 0 ∧
    NoWorkLeft (tRun { ended := true }) 0 ∧ meDone { tTileJob with tiles := [0] } = true ∧ meDone tTileJob = false :=
  ⟨⟨rfl, rfl, rfl, rfl, fun _ h => absurd h List.not_mem_nil⟩, ⟨rfl, rfl, rfl, rfl, fun _ h => absurd h List.not_mem_nil⟩,
   ⟨rfl, rfl, rfl, rfl, fun _ h => absurd h List.not_mem_nil⟩, by decide +kernel, by decide +kernel⟩

/-! ## Vision, heads, links, cameras -/

def tFrame : Frame := { port := 0 }
/-- A sequencer with a run whose next instruction has this operation, and one at its END. -/
def tVision (op : Nat) : State := { tOpen [] with vsn := { runs := [(0, [{ cur := tFrame, insns := [⟨op, 0, 0, 0, 0, 0⟩] }])] } }
def tVisionEnd : State := { tOpen [] with vsn := { runs := [(0, [{ cur := tFrame }])] } }
def tVisionUnit : State := { tOpen [] with vsn := { runs := [(0, [
  { cur := tFrame, curDone := true, insns := [⟨1, 0, 0, 0, 0, 0⟩], issued := 1, units := [(0, 0)] }])] } }
theorem wit_vision : (∀ op ∈ [1, 2, 3, 4, 5, 6, 7, 8], (runsOf (tVision op) 0).findIdx? (fun r => !r.idle && !r.closed) = some 0 ∧
      ((runsOf (tVision op) 0)[0]?.bind (fun r => r.insns[r.issued]?)).map (·.op) = some op) ∧
    (runsOf (tVision 1) 1).findIdx? (fun r => !r.idle && !r.closed) = none ∧
    (runsOf tVisionEnd 0).findIdx? (fun r => !r.idle && !r.closed && r.issued == r.insns.length) = some 0 ∧
    (runsOf tVisionUnit 0).findIdx? (fun r => r.units.any (fun u => u.1 == 0)) = some 0 ∧ tVisionUnit.mem.poison = [] ∧
    (∃ r x, (runsOf tVisionUnit 0)[0]? = some r ∧ r.insns[0]? = some x ∧ inputsReady tVisionUnit 0 r 0 x = true) :=
  ⟨by decide, by decide, by decide, by decide, rfl, ⟨_, _, rfl, rfl, by decide⟩⟩

/-- A published run with a tile chosen, which needs no unit. -/
def tRefine : State := { tOpen [] with vsn := { runs := [(0, [{ cur := tFrame, closed := true, published := some 0, chosen := [0],
                                                                           numbered := true }])] } }
theorem wit_refine : (runsOf tRefine 0).findIdx? VRun.refining = some 0 ∧
    (∃ r, (runsOf tRefine 0)[0]? = some r ∧ r.refUnits.length = r.refineOps.length) ∧
    (∀ q ∈ runsOf tRefine 0, q.numbered = true ∨ q.idle = true) := ⟨by decide, ⟨_, rfl, by decide⟩, by decide⟩

/-- The run's image stands in a slot of Court with a poisoned line. -/
def tSpoiled : State :=
  { tRefine with vsn := { runs := [(0, [{ cur := { tFrame with addr := some 0x1000, dt := 0x2A, width := 64, height := 1 }, closed := true,
                                          published := some 0, chosen := [0], numbered := true }])] }
                 mem := { poison := [0x1080] } }
theorem wit_refine_spoiled : (∃ r, (runsOf tSpoiled 0)[0]? = some r ∧ r.refUnits.length = r.refineOps.length ∧
      (refineImages tSpoiled 0 r).findSome? (poisonIn tSpoiled) ≠ none) ∧ (runsOf tSpoiled 0).findIdx? VRun.refining = some 0 ∧
    (∃ r, (runsOf tRefine 0)[0]? = some r ∧ (refineImages tRefine 0 r).any (imageOutside tRefine) = false) :=
  ⟨⟨_, rfl, by decide, by decide⟩, by decide, ⟨_, rfl, by decide⟩⟩

/-- Outputs enabled with chain 0 driven; the line in the buffer, in scan, and before. -/
def tLine : Line := { target := 0, ctrl := 0x101, chainEn := 1, due := [(0, 0, true), (1, 3, true)] }
def tField : State := { tOpen [] with frs := { drive := true }, regs := [(Reg.FRS_CTRL, 0x101)] }
def tFielded : State := { tField with frs := { drive := true, fetched := some tLine, cur := some tLine, prev := some tLine } }
theorem wit_field_line : tField.clk.started = true ∧ tField.frs.drive = true ∧ tField.frs.fetched = none ∧ tField.mem.poison = [] ∧
    tFielded.frs.fetched = some tLine ∧ tLine.frameSent = false ∧ chainDriven tFielded tLine 0 = true ∧ chainDriven tFielded tLine 7 = false ∧
    (lineOutcome { tFielded with frs := { tFielded.frs with ehold := 1 } } 0).1 ≠ 2 ∧ (lineOutcome tField 0).1 = 2 ∧
    tLine.due.filter (fun m => m.2.1 == 0) = [(0, 0, true)] ∧ tLine.due.find? (fun m => m.1 == 1) = some (1, 3, true) ∧
    tLine.due.find? (fun m => m.1 == 15) = none ∧
    (tFielded.frs.prev.bind (fun l => (l.nextMove 1).map (fun m => (l, m)))) = some (tLine, (1, 3, true)) ∧
    (tFielded.frs.cur.bind (fun l => (l.nextMove 15).map (fun m => (l, m)))) = none ∧ chainOut tFielded tLine 7 = true := by decide
theorem wit_line_release : tFielded.frs.cur = some tLine ∧ tLine.cancelled = false ∧ (tWire {}).frs.cur ≠ none ∧
    ({ tLine with cancelled := true } : Line).cancelled = true ∧ (∀ p, (tWire {}).frs.prev = some p → p.due = []) ∧
    tField.frs.cur = none ∧ tLine.due.filter (fun m => m.2.1 == 7) = [] :=
  ⟨rfl, rfl, by decide, rfl, fun _ h => by simp [tWire] at h, rfl, by decide⟩
theorem wit_field_read_back : (let l := { tLine with frameSent := true }
    let s := { tFielded with frs := { tFielded.frs with fetched := some l } }
    chainDriven s l 0 = true ∧ (l.expCrc[0]?).getD 0 = (0#32).toNat ∧ (l.expCrc[0]?).getD 0 ≠ (1#32).toNat) ∧
    tLine.failChains = 0 ∧ tLine.failDirect = false ∧ directCrc [] = (BitVec.ofNat 32 (directCrc [])).toNat ∧
    directCrc [] ≠ (BitVec.ofNat 32 (directCrc [] + 1)).toNat := by decide +kernel

/-- A view start is due on both outputs, the DisplayPort output trained and sending video. -/
def tPic : PicInfo := { slot := 0, addr := 0x100000, seq := 0, start := 0, epoch := 0, crc := 0, width := 1, height := 1, stride := 64, format := 2, static := false }
def tViewRegs : Map Word := tRegs [(Reg.VRS_CTRL, 3), (Reg.VRS_HTIME0, 0x10001), (Reg.VRS_VTIME0, 1), (Reg.VRS_LV_CTRL, 4)]
def tView (stage : Nat) : State :=
  { tOpen [] with regs := tViewRegs, vw := { dv := 1, shown := some tPic }
                  vrs := { dp := tViewRegs, lv := tViewRegs, dpDue := some (3, 0), lvDue := some (3, 0), on := true, hpd := true, up := true
                           frame := some { view := 2, base := 0, pic := some tPic, stage := stage, img := tViewRegs }
                           clone := some { view := 2, base := 0, pic := some tPic, stage := 0, img := tViewRegs } } }
theorem wit_view_frames : (tView 0).vrs.dpDue = some (3, 0) ∧ (tView 0).vrs.slow = false ∧ vrsImage (tView 0) = (tView 0).vrs.dp ∧
    dpVideo (tView 0) = true ∧ misfits (tView 0).vw.shown (timingOf (tView 0) (tView 0).vrs.dp false) false = false ∧
    (dpReg (tView 0) Reg.VRS_CTRL).testBit 2 = false ∧
    (ireg (tView 0) (vrsImage (tView 0)) Reg.VRS_CTRL).testBit 1 = true ∧ bits (ireg (tView 0) (vrsImage (tView 0)) Reg.VRS_LV_CTRL) 5 2 ≠ 0 ∧
    (0#12).toNat < (timingOf (tView 0) tViewRegs false).vact ∧
    (0#12).toNat < (timingOf (tView 0) tViewRegs false).hact ∧
    ((outFrame (tView 1) false).map (·.stage)) = some 1 ∧ ((outFrame (tView 1) true).map (·.stage)) = some 0 ∧
    ((outFrame (tView 2) false).map (·.stage)) = some 2 ∧ outFrame (tState {}) false = none := by decide +kernel
/-- An underrun at the first pixel of line 0 of either output; frames to compare and to record, an older one before the present. -/
def tFrameOf (stage : Nat) : ViewFrame := { view := 2, base := 0, pic := some tPic, stage := stage, img := tViewRegs }
theorem wit_view_underrun : (∀ clone, (let f := tFrameOf 0
      let v := frameTiming (tView 0) clone f
      f.misfit = false ∧ f.pic ≠ none ∧ Map.get f.bad 0 = none ∧ f.sent ≤ 0 ∧ 0 < v.vact ∧ 0 < v.hact ∧
      activeBy v f (max (tView 0).clk.now (activeInst v f 0 + v.pixelsTu 0)) ≤ 0)) ∧
    (tView 0).mem.poison = [] ∧ frameAt (tView 1) false 1 = some (false, tFrameOf 1) ∧ frameAt (tView 0) true 0 = some (false, tFrameOf 0) ∧
    frameAt { tView 0 with vrs := { (tView 0).vrs with prev := some (tFrameOf 2) } } false 2 = some (true, tFrameOf 2) ∧
    frameAt (tView 0) false 2 = none ∧ (tFrameOf 0).matched = false ∧ ifld (tView 0) tViewRegs Reg.VRS_LINE 11 0 < 1 := by decide +kernel
/-- Adaptive frames with a view start to come; frames that their successors keep; a clone's frame of one blank line to compare. -/
theorem wit_view_starts : (let s := { tView 1 with regs := Map.set tViewRegs Reg.VRS_CTRL 7
                                                   vw := { (tView 1).vw with began := some 0 }
                                                   vrs := { (tView 1).vrs with dp := Map.set tViewRegs Reg.VRS_CTRL 7 } }
      (dpReg s Reg.VRS_CTRL).testBit 2 = true ∧ (nextView s 1).isSome = true ∧ vrsImage s = s.vrs.dp ∧ dpVideo s = true) ∧
    (tView 1).mem.poison = [] ∧ ((tView 1).vrs.frame.map (·.stage)) = some 1 ∧
    ((advance (tView 0) (0 + 1000 * tuNs)).vrs.clone.map (·.stage)) = some 0 ∧
    frameAt { tView 0 with vrs := { (tView 0).vrs with clonePrev := some (tFrameOf 0) } } true 0 = some (true, tFrameOf 0) ∧
    0 < (frameTiming (tView 0) false (tFrameOf 0)).pclk ∧ 0 < (frameTiming (tView 0) false (tFrameOf 0)).htotal := by decide +kernel
/-- Training runs; HBR2 asked for, with FALLBACK. -/
def tTrain : State := { tView 0 with vrs := { (tView 0).vrs with training := true, dp := tRegs [(Reg.VRS_CTRL, 1), (Reg.VRS_PCLK, 1), (Reg.VRS_LINK, 0x16)] } }
theorem wit_view_link : tTrain.vrs.training = true ∧ bits (dpReg tTrain Reg.VRS_LINK) 1 0 = 2 ∧ (dpReg tTrain Reg.VRS_LINK).testBit 4 = true ∧
    trains (0x0500#16).toNat (0x0100#16).toNat 2 = true ∧ trains (0x0601#16).toNat (0x0105#16).toNat 2 = false ∧
    trains (0x0601#16).toNat (0x0105#16).toNat 0 = true ∧
    bandwidthOk (dpReg tTrain Reg.VRS_PCLK) (bits (dpReg tTrain Reg.VRS_LINK) 3 2) 0 ((dpReg tTrain Reg.VRS_CTRL).testBit 3) = true ∧
    trains (0x0601#16).toNat (0x0105#16).toNat 1 = false ∧ (∀ q, q < 2 → trains (0#16).toNat (0#16).toNat q = false) ∧
    (tView 0).vrs.on = true ∧ (tView 0).vrs.hpd = true ∧ (tView 0).vrs.up = true ∧
    (dpReg tTrain Reg.VRS_CTRL).testBit 0 = true ∧ tTrain.vrs.blanked = false :=
  by decide

/-- A ring of two paired devices, this one being number 0, with both links in a state. -/
def tLink (st : Nat) : State :=
  { tOpen [] with regs := [(Reg.LYS_RING, 0x110)], lys := { links := [{ state := st }, { state := st }], sendSect := 1 } }
def tHead (dst src : BitVec 3) : FrameHead := ⟨0, 0, 0, dst, src, 0, 0⟩
theorem wit_links : (∀ st ∈ [1, 2, 3, 4, 5, 6], (tLink st).lys.links.length = 2 ∧ (linkOf (tLink st) 0).state = st) ∧
    ((255 : Nat) % 16 = 15 ∨ (255 : Nat) / 16 = 15) ∧ ¬ ((0x77 : Nat) % 16 = 15 ∨ (0x77 : Nat) / 16 = 15) ∧
    ringSize (tLink 4) = 2 ∧ isPaired (tLink 4) = true ∧ (ringId (tLink 4) + ringSize (tLink 4) - 1) % ringSize (tLink 4) = 1 ∧
    (linkOf (tLink 5) 0).rxSeq = (0#16).toNat ∧ (linkOf (tLink 5) 0).rxSeq ≠ (1#16).toNat := by decide
/-- A request of device 1 that waits for its service: 5 reads the last 64 bytes of Court, 6 writes 32 of them. -/
def tServe (typ : Nat) : State :=
  { tLink 5 with lys := { (tLink 5).lys with served := [(0, ⟨typ, 0, 1, 0, 0, 0, leBytes 8 0x3FFFFC0 ++ List.replicate 56 0, 0, 0, 65, 32⟩)] } }
theorem wit_requests : (tHead 0 1).dst.toNat = ringId (tLink 5) ∧ (tHead 0 1).seqNo.toNat = (linkOf (tLink 5) 0).rxSeq ∧
    (tHead 1 1).dst.toNat ≠ ringId (tLink 5) ∧ (tHead 1 1).hops.toNat + 1 < ringSize (tLink 5) ∧ linkUp (tLink 5) 1 = true ∧
    ringSize (tLink 5) ≤ ({ tHead 1 1 with hops := 1 } : FrameHead).hops.toNat + 1 ∧ routeTo (tLink 5) 1 = some 1 ∧
    (tServe 5).mem.poison = [] ∧ (tServe 5).frs.fetched = none ∧ rangeOk (tServe 5) 0x3FFFFC0 64 false = true ∧
    rangeOk (tServe 6) 0x3FFFFC0 32 true = true ∧ rangeOk (tServe 5) 0x4000000 64 false = false := by decide
def tReplies (epoch : Nat) : State :=
  { tLink 5 with sch := { ctxs := [(0, { record := tCtxRec, banks := [], epoch := epoch })] }
                 lys := { (tLink 5).lys with rx := [⟨0, 0, 0, 0, 0, 0, 0, 0, false, 1, 0, none⟩] } }
theorem wit_reply_slot : rxAddr { tReplies 0 with sch := { ctxs := [(0, { record := tCtxRec, banks := [255], epoch := 0 })] } } 0 4095 =
    some 0x3FFFFC0 := by decide
theorem wit_replies : Map.get (tLink 5).sch.ctxs (tHead 0 1).ctx.toNat = none ∧
    (∃ x, Map.get (tReplies 0).sch.ctxs 0 = some x ∧ x.epoch % 65536 = (0#16).toNat) ∧
    (∃ x, Map.get (tReplies 1).sch.ctxs 0 = some x ∧ x.epoch % 65536 ≠ (0#16).toNat) ∧
    (tReplies 0).lys.rx.find? (fun x => x.ctx == 0 && x.entry == 0) ≠ none ∧
    (∀ x, x ∈ (tReplies 0).lys.rx → ¬ (x.ctx = 0 ∧ x.entry = (0xFFF#12).toNat)) :=
  ⟨rfl, ⟨_, rfl, rfl⟩, ⟨_, rfl, by decide⟩, by decide, by decide⟩
theorem wit_pair : (tLink 5).lys.sendSect = 1 ∧ isPaired (tLink 5) = true ∧ decisionsOpen (tLink 5) = false ∧
    routeTo (tLink 5) (partnerId (tLink 5)) = some 1 ∧ (tHead 0 1).src.toNat = partnerId (tLink 5) ∧ (tLink 5).clk.started = true ∧
    ({ tLink 5 with regs := [(Reg.LYS_RING, 0x111)] } : State).lys.links.length = 2 ∧
    ringId { tLink 5 with regs := [(Reg.LYS_RING, 0x111)] } = 1 ∧
    (0 : Nat) = syncLink { tLink 5 with regs := [(Reg.LYS_RING, 0x111)] } ∧ reg (tLink 5) Reg.WHS_PERIOD = (BitVec.ofNat 32 (reg (tLink 5) Reg.WHS_PERIOD)).toNat := by
  decide

theorem wit_heartbeat : beatCounts (tLink 5) 7 = true ∧
    (let s := { tLink 5 with lys := { (tLink 5).lys with beatAt := some (7, tickNow (tLink 5)) } }
     beatCounts s 7 = true ∧ beatCounts s 6 = false) ∧ (tLink 5).lys.heard = false ∧ (tLink 5).lys.missed = 0 := by decide

/-- Port 0 takes RAW8 frames of one pixel on virtual channel 0, with FSYNC at every Whistle. -/
def tCam (x : CamPort) (b : CamBus) : State :=
  { tOpen [] with regs := tRegs [(Reg.CAM_PORT_CTRL 0, 1), (Reg.CAM_PORT_FSYNC 0, 0x10001), (Reg.CAM_PORT_FULL_FMT 0, 0x2A0),
      (Reg.CAM_PORT_FULL_SIZE 0, 0x10001), (Reg.CAM_BUS_CTRL 0, 1)], cam := { ports := [(0, x)], buses := [(0, b)] }, clk := { started := true, next := 1 } }
def tGot : Frame := { port := 0, dt := 0x2A, width := 1, height := 1, addr := some 0x100000, lastPkt := 0 }
theorem wit_camera_frames : kickoff (tCam {} {}) = false ∧ portOn (tCam {} {}) 0 = true ∧ orderlyStop (tCam {} {}) = false ∧
    Canonical (tCam {} {}) ∧ streamMatches (tCam {} {}) 0 1 0 0x2A = false ∧ streamMatches (tCam {} {}) 0 0 0 0x2A = true ∧
    streamMatches (tCam {} {}) 0 0 0 0x2B = false ∧
    ((camPort (tCam { frames := [tGot] } {}) 0).frames.find? (fun f => f.vc == 0)) = some tGot ∧ tGot.lines < tGot.height ∧
    rangeOk (tCam {} {}) 0x100000 4 true = true ∧ rangeOk (tCam {} {}) 0x100080 1 true = true ∧
    addrFenced (tCam {} {}) 0x100000 4 = false ∧ addrFenced (tCam {} {}) 0x100080 1 = false ∧
    ((camPort (tCam {} {}) 0).frames.find? (fun f => f.vc == 0)) = none ∧
    ({ tGot with lines := 1 } : Frame).lines = tGot.height ∧ tickNow (tCam {} {}) < tGot.lastPkt + 8 :=
  ⟨by decide, by decide, by decide, by unfold Canonical; decide, by decide⟩
theorem wit_camera_truncated : (let s := { tCam { frames := [tGot] } {} with clk := { started := true, next := 300 } }
    tGot.lastPkt + 8 ≤ tickNow s ∧ (camPort s 0).lastEnd + 240 ≤ tickNow s ∧ (camPort s 0).noSignal = false) := by decide
/-- A list with a write and a list that begins with a wait. -/
def tList (e : Nat) : BusList := { port := 0, slot := 0, pulse := 0, at_ := 0, entries := [e] }
theorem wit_camera_schedule : (tCam {} {}).clk.started = true ∧ fsyncOn (tCam {} {}) 0 = true ∧
    tickNow (tCam {} {}) % fld (tCam {} {}) (Reg.CAM_PORT_FSYNC 0) 7 0 = fld (tCam {} {}) (Reg.CAM_PORT_FSYNC 0) 15 8 ∧
    (camPort (tCam {} {}) 0).pulseTick ≠ some (tickNow (tCam {} {})) ∧ (camPort (tCam { high := true } {}) 0).high = true ∧
    (busOf (tCam {} { setup := [.setdasa 0 8] }) 0).setup = [.setdasa 0 8] ∧ fld (tCam {} {}) (Reg.CAM_BUS_CTRL 0) 1 0 = 1 ∧
    bits (2 ^ 32) 33 32 ≠ 3 ∧ bits (3 * 2 ^ 32) 33 32 = 3 ∧ (busOf (tCam {} { queue := [tList (2 ^ 32)] }) 0).queue = [tList (2 ^ 32)] := by decide
/-- A port whose FSYNC falls before slot 0's list. -/
def tFall : State :=
  { tCam { high := true, slot := some 0 } {} with regs := tRegs [(Reg.CAM_PORT_CTRL 0, 1), (Reg.CAM_PORT_SCHED 0, 0x10000),
      (Reg.CAM_PORT_LIST0 0, 0), (Reg.CAM_LIST 1, 1)] }
theorem wit_fsync_fall : (camPort tFall 0).high = true ∧ routeOfPort tFall 0 = none ∧ (camPort tFall 0).slot = some 0 ∧ 
    schedCount tFall 0 = 1 ∧ (busOf tFall 0).queue = [] ∧ listOf tFall 0 0 = some 0 ∧
    listEntries tFall 0 ≠ [] ∧ fld tFall (Reg.CAM_PORT_CTRL 0) 4 3 = 0 := by decide
/-- Motion inputs enabled. -/
def tMotion (c : Cam) : State := { tOpen [] with regs := tRegs [(Reg.CAM_IMU_CTRL, 0x81), (Reg.CAM_PPS_CTRL, 1)], cam := c }
theorem wit_motion : (tMotion {}).cam.encs.length = 2 ∧ fld (tMotion {}) Reg.CAM_PPS_CTRL 0 0 = 1 ∧ (tMotion { pps := some 0 }).cam.pps = some 0 ∧
    fld (tMotion {}) Reg.CAM_IMU_CTRL 0 0 = 1 ∧ fld (tMotion {}) Reg.CAM_IMU_CTRL 7 7 = 1 ∧ (tMotion {}).cam.imuRead = none ∧
    (tMotion { imuRead := some 0 }).cam.imuRead = some 0 ∧ fld (tState {}) Reg.CAM_PPS_CTRL 0 0 = 0 := by decide

theorem wit_canonical : Canonical State.reset ∧ ∃ t, step State.reset = .next t := ⟨by unfold Canonical; decide, ⟨_, rfl⟩⟩

end Sys2Proof.Tests
end

section
/-! Proofs of O31: what a step on an empty queue does to the clock and to the counters. -/

namespace Sys2Proof.Machine

/-! ## Time on the clock -/

theorem pmcAddAll_counts : ∀ (l : List (Nat × Nat × Attrs)) (s : State), CountsOnly s (pmcAddAll s l)
  | [], s => .refl s
  | _ :: r, s => (pmcAdd_counts s _ _ _).trans (pmcAddAll_counts r _)

@[simp] theorem pmcAddAll_clk (s : State) (l : List (Nat × Nat × Attrs)) : (pmcAddAll s l).clk = s.clk := by
  rw [(pmcAddAll_counts l s).1]

@[simp] theorem lineMatch_clk (s : State) (f : ViewFrame) : (lineMatch s f).1.clk = s.clk := by
  simp only [lineMatch]
  split <;> simp

@[simp] theorem setOutFrame_clk (s : State) (clone : Bool) (f : Option ViewFrame) : (setOutFrame s clone f).clk = s.clk := by
  cases clone <;> rfl

@[simp] theorem sendLines_clk (s : State) (clone : Bool) (f : ViewFrame) (n : Nat) : (sendLines s clone f n).1.clk = s.clk := rfl

/-- The lines of an output go out at their own instants, but the present stands (R354). -/
@[simp] theorem scanOut_clk (s : State) (clone : Bool) : (scanOut s clone).clk = s.clk := by
  unfold scanOut
  split
  · rfl
  · dsimp only
    rw [setOutFrame_clk]
    split
    · rw [sendLines_clk]
    · rw [lineMatch_clk, sendLines_clk]

theorem scanOut_of_none {s : State} {clone : Bool} (h : outFrame s clone = none) : scanOut s clone = s := by
  simp [scanOut, h]

/-- The cycles up to an instant are counted, and the clock shows that instant: time before the view head sends. -/
def timeCounted (s : State) (t : Nat) : State :=
  let t1 := max s.clk.now t
  let s1 := if fld s Reg.PMC_CTRL 0 0 = 0 then s
    else pmcAddAll s (cycleEvents s (t1 / tuAclk s - s.clk.now / tuAclk s) (t1 / 11520 - s.clk.now / 11520))
  { s1 with clk := { s1.clk with now := t1 } }

theorem advance_eq_scanOut_timeCounted (s : State) (t : Nat) : advance s t = scanOut (scanOut (timeCounted s t) false) true := rfl

@[simp] theorem timeCounted_clk (s : State) (t : Nat) : (timeCounted s t).clk = { s.clk with now := max s.clk.now t } := by
  simp only [timeCounted]
  split <;> simp

theorem timeCounted_counts (s : State) (t : Nat) : CountsOnly { s with clk := (timeCounted s t).clk } (timeCounted s t) := by
  have h (u : State) (hu : CountsOnly s u) (c : Clock) : CountsOnly { s with clk := c } { u with clk := c } :=
    ⟨by rw [hu.1], hu.2⟩
  simp only [timeCounted]
  split
  · exact h s (.refl s) _
  · exact h _ (pmcAddAll_counts _ s) _

@[simp] theorem advance_clk (s : State) (t : Nat) : (advance s t).clk = { s.clk with now := max s.clk.now t } := by
  simp [advance_eq_scanOut_timeCounted]

/-- While neither output has a frame, the passing of time only counts (R532). -/
theorem advance_counts_of_no_frame {s : State} (hf : s.vrs.frame = none) (hc : s.vrs.clone = none) (t : Nat) :
    CountsOnly { s with clk := (advance s t).clk } (advance s t) := by
  have hv : (timeCounted s t).vrs = s.vrs := by rw [(timeCounted_counts s t).1]
  have h1 : scanOut (timeCounted s t) false = timeCounted s t := scanOut_of_none (by simp [outFrame, hv, hf])
  have h2 : scanOut (timeCounted s t) true = timeCounted s t := scanOut_of_none (by simp [outFrame, hv, hc])
  rw [advance_eq_scanOut_timeCounted, h1, h2]
  exact timeCounted_counts s t

theorem step_of_cons (c : Instr) (s : State) (rest : List Instr) : step { s with pending := c :: rest } = exec c { s with pending := rest } := rfl

theorem step_of_empty {s : State} (h : s.pending = []) : step s = .next (advance s (s.clk.now + tuStep)) := by
  simp [step, h, idle]

/-- Settles O31: the front command by the definition of a step, the idle step by what the passing of time does. -/
theorem stepTakesFront : Obligations.StepTakesFront := by
  refine ⟨fun c s => step_of_cons c s s.pending, fun s hs => ⟨_, step_of_empty hs, ?_, advance_time s _, fun hf hc => ?_⟩⟩
  · simp
  · exact advance_counts_of_no_frame hf hc _

end Sys2Proof.Machine
end

section
/-! What O57 rests on: event bits that stay set, what the Vision sequencers and a
unit's write to memory change, and what the arrival of a packet leaves of a camera port's settings. -/

namespace Sys2Proof.Machine

/-! ## Event bits -/

theorem reg_lt (s : State) (a : Nat) : reg s a < 2 ^ 32 := (regW s a).isLt

theorem testBit_event_self (s : State) (a : Nat) {k : Nat} (hk : k < 32) : (reg (event s a k) a).testBit k = true := by
  simp only [event, orReg, reg_poke_self, Nat.testBit_mod_two_pow, Nat.testBit_or, Nat.testBit_two_pow_self]
  simp [hk]

/-- Every register bit that is set in `u` is set in `t`: what raising events keeps. -/
def BitsKept (u t : State) : Prop := ∀ a k, (reg u a).testBit k = true → (reg t a).testBit k = true

theorem BitsKept.refl (s : State) : BitsKept s s := fun _ _ h => h

theorem BitsKept.trans {s t u : State} (h : BitsKept s t) (k : BitsKept t u) : BitsKept s u := fun a i hi => k a i (h a i hi)

theorem event_bitsKept (s : State) (a k : Nat) : BitsKept s (event s a k) := by
  intro b i hi
  by_cases hb : b = a
  · subst hb
    rw [← Nat.mod_eq_of_lt (reg_lt s b), Nat.testBit_mod_two_pow, Bool.and_eq_true] at hi
    rw [event, orReg, reg_poke_self, Nat.testBit_mod_two_pow, Nat.testBit_or, hi.1, hi.2]
    rfl
  · rwa [reg_event_ne s a k b hb]

theorem foldl_bitsKept {α : Type} (f : State → α → State) (h : ∀ s a, BitsKept s (f s a)) :
    ∀ (l : List α) (s : State), BitsKept s (l.foldl f s)
  | [], s => .refl s
  | a :: r, s => (h s a).trans (foldl_bitsKept f h r (f s a))

theorem devWriteMasked_bitsKept (s : State) (a : Nat) (d : List (Byte × Bool)) : BitsKept s (devWriteMasked s a d) := by
  unfold devWriteMasked
  split <;> exact fun _ _ h => h

theorem lateWrite_bitsKept (s : State) : BitsKept s (lateWrite s) := by
  unfold lateWrite
  split
  · exact event_bitsKept _ _ _
  · exact .refl s

theorem jobWrite_bitsKept (s : State) (a : Nat) (d : List Byte) : BitsKept s (jobWrite s a d) := by
  unfold jobWrite
  split
  · exact (devWriteMasked_bitsKept s a _).trans (lateWrite_bitsKept _)
  · split
    · exact .refl s
    · exact fun _ _ h => h

/-- A write to memory raises events and touches no other register (R322, R547). -/
theorem unitWrite_bitsKept (s : State) (a : Nat) (d : List Byte) : BitsKept s (unitWrite s a d) := by
  unfold unitWrite
  split
  · exact jobWrite_bitsKept s a d
  · refine (foldl_bitsKept _ (fun s p => ?_) _ s).trans (event_bitsKept _ _ _)
    split
    · exact jobWrite_bitsKept s _ _
    · exact .refl s

/-! ## What reaches the Vision sequencers -/

/-- `t` is `u` but for the runs of the Vision sequencers and for events. -/
def VisionOnly (u t : State) : Prop := t = { u with regs := t.regs, vsn := t.vsn } ∧ BitsKept u t

theorem VisionOnly.refl (s : State) : VisionOnly s s := ⟨rfl, .refl s⟩

theorem VisionOnly.trans {s t u : State} (h : VisionOnly s t) (k : VisionOnly t u) : VisionOnly s u :=
  ⟨by rw [k.1, h.1], h.2.trans k.2⟩

theorem VisionOnly.cam {u t : State} (h : VisionOnly u t) : t.cam = u.cam := by rw [h.1]

theorem VisionOnly.clk {u t : State} (h : VisionOnly u t) : t.clk = u.clk := by rw [h.1]

theorem foldl_vision {α : Type} (f : State → α → State) (h : ∀ s a, VisionOnly s (f s a)) :
    ∀ (l : List α) (s : State), VisionOnly s (l.foldl f s)
  | [], s => .refl s
  | a :: r, s => (h s a).trans (foldl_vision f h r (f s a))

theorem setRuns_vision (s : State) (n : Nat) (l : List VRun) : VisionOnly s (setRuns s n l) := ⟨rfl, fun _ _ h => h⟩

theorem vsnEvent_vision (s : State) (n k : Nat) : VisionOnly s (vsnEvent s n k) :=
  ⟨rfl, (event_bitsKept _ _ _).trans (event_bitsKept _ _ _)⟩

theorem tryStart_vision (s : State) (n k i : Nat) : VisionOnly s (tryStart s n k i) := by
  unfold tryStart
  split
  · exact .refl s
  · split
    · exact .refl s
    · split
      · exact .refl s
      · split
        · exact setRuns_vision s n _
        · split
          · exact setRuns_vision s n _
          · exact .refl s

theorem tryRefine_vision (s : State) (n k : Nat) : VisionOnly s (tryRefine s n k) := by
  unfold tryRefine
  split
  · exact .refl s
  · split
    · exact .refl s
    · dsimp only
      split
      · exact setRuns_vision s n _
      · exact .refl s

theorem eachRun_vision (s : State) (f : State → Nat → Nat → State) (h : ∀ s n k, VisionOnly s (f s n k)) :
    VisionOnly s (eachRun s f) := by
  refine foldl_vision _ (fun s e => ?_) _ s
  exact foldl_vision _ (fun s k => h s e.1 k) _ s

theorem startUnits_vision (s : State) : VisionOnly s (startUnits s) := by
  refine (eachRun_vision s _ (fun s n k => ?_)).trans (eachRun_vision _ _ tryRefine_vision)
  split
  · exact foldl_vision _ (fun s i => tryStart_vision s n k i) _ s
  · exact .refl s

theorem discardEvent_vision (s : State) (n : Nat) (old new : VRun) : VisionOnly s (discardEvent s n old new) := by
  unfold discardEvent
  split
  · exact vsnEvent_vision s n 3
  · exact .refl s

theorem mapRuns_vision (s : State) (f : VRun → VRun) : VisionOnly s (mapRuns s f) := by
  refine (foldl_vision _ (fun s e => ?_) _ s).trans (startUnits_vision _)
  refine (setRuns_vision s _ _).trans (foldl_vision _ (fun s p => ?_) _ _)
  exact discardEvent_vision s e.1 p.1 p.2

/-- A frame end changes the sequencers' runs and raises events, nothing else (R137, R141). -/
theorem visEnd_vision (s : State) (f : Frame) : VisionOnly s (visEnd s f) := (mapRuns_vision s _).trans (mapRuns_vision _ _)

/-- So does a frame start (R133, R140). -/
theorem visStart_vision (s : State) (f : Frame) : VisionOnly s (visStart s f) := by
  unfold visStart
  split
  · exact .refl s
  · dsimp only
    split
    · exact setRuns_vision s _ _
    · split
      · exact .refl s
      · split
        · exact (setRuns_vision s _ _).trans (vsnEvent_vision _ _ 2)
        · exact setRuns_vision s _ _

/-! ## Self-refresh at a fall of the tolerance -/

theorem srExit_mem (s : State) (k : Nat) : srExit s k = { s with mem := (srExit s k).mem } := by
  unfold srExit
  split <;> rfl

theorem foldl_srExit_mem : ∀ (l : List Nat) (s : State), l.foldl srExit s = { s with mem := (l.foldl srExit s).mem }
  | [], _ => rfl
  | k :: r, s => by
    rw [List.foldl_cons, foldl_srExit_mem r (srExit s k), srExit_mem s k]

/-- A fall of the tolerance changes the memory's channels only (R399). -/
theorem tolChanged_mem (s : State) : tolChanged s = { s with mem := (tolChanged s).mem } := by
  unfold tolChanged
  split
  · rfl
  · exact foldl_srExit_mem _ s

/-! ## A camera port's record -/

@[simp] theorem camPort_setPort_self (s : State) (p : Nat) (x : CamPort) : camPort (setPort s p x) p = x :=
  Map.getD_set_self s.cam.ports p x {}

theorem camPort_congr {s t : State} (h : t.cam.ports = s.cam.ports) (p : Nat) : camPort t p = camPort s p := by
  rw [camPort, h, camPort]

@[simp] theorem camPort_portEvent (s : State) (q k p : Nat) : camPort (portEvent s q k) p = camPort s p := rfl

@[simp] theorem camPort_camIrq (s : State) (k p : Nat) : camPort (camIrq s k) p = camPort s p := rfl

@[simp] theorem reg_setPort (s : State) (p : Nat) (x : CamPort) (a : Nat) : reg (setPort s p x) a = reg s a := rfl

theorem testBit_portEvent_self (s : State) (p : Nat) {k : Nat} (hk : k < 32) :
    (reg (portEvent s p k) (Reg.CAM_PORT_EVENTS p)).testBit k = true := testBit_event_self s _ hk

/-! ## A packet arrives -/

/-- The registers that the passing of time writes lie above those of the camera ports. -/
theorem not_timeRegister {a : Nat} (h : a < 0x50000) : a ∉ timeRegisters := by
  have above : ∀ r ∈ timeRegisters, 0x50000 ≤ r := by decide
  exact fun ha => absurd (above a ha) (by omega)

@[simp] theorem packetSeen_clk (s : State) (p ts : Nat) :
    (packetSeen s p ts).clk = { s.clk with now := max s.clk.now (ts * tuStep) } := advance_clk s _

theorem packetSeen_time (s : State) (p ts : Nat) : TimeOnly { s with cam := (packetSeen s p ts).cam } (packetSeen s p ts) := by
  obtain ⟨hs, hr⟩ := advance_time s (ts * tuStep)
  refine ⟨?_, hr⟩
  simp only [packetSeen, setPort, advanceTs]
  rw [hs]

@[simp] theorem camPort_packetSeen (s : State) (p ts : Nat) :
    camPort (packetSeen s p ts) p = { camPort s p with hsTick := true } := by
  simp [packetSeen, camPort_congr (congrArg Cam.ports (advanceTs_cam s ts)) p]

@[simp] theorem packetSeen_ended (s : State) (p ts : Nat) : (packetSeen s p ts).cam.ended = s.cam.ended := by
  simp [packetSeen, setPort]

theorem reg_packetSeen (s : State) (p ts : Nat) {a : Nat} (h : a < 0x50000) : reg (packetSeen s p ts) a = reg s a :=
  (packetSeen_time s p ts).2 a (not_timeRegister h)

@[simp] theorem tickNow_packetSeen (s : State) (p ts : Nat) : tickNow (packetSeen s p ts) = tickNow s := by
  simp [tickNow]

@[simp] theorem tsNow_packetSeen (s : State) (p ts : Nat) :
    tsNow (packetSeen s p ts) = max s.clk.now (ts * tuStep) / tuStep := by
  simp [tsNow]

@[simp] theorem nextInst_packetSeen (s : State) (p ts : Nat) : nextInst (packetSeen s p ts) = nextInst s := by
  have h : reg (packetSeen s p ts) Reg.WHS_PERIOD = reg s Reg.WHS_PERIOD := reg_packetSeen s p ts (by decide)
  simp [nextInst, period, h]

theorem stampTick_packetSeen (s : State) (p ts : Nat) : stampTick (packetSeen s p ts) =
    if s.clk.started = true ∧ nextInst s / tuStep ≤ max s.clk.now (ts * tuStep) / tuStep then s.clk.next else tickNow s := by
  simp [stampTick]

theorem streamOf_packetSeen (s : State) {p : Nat} (hp : p < 16) (ts kind : Nat) :
    streamOf (packetSeen s p ts) p kind = streamOf s p kind := by
  have hf : ∀ a, a = Reg.CAM_PORT_FULL_FMT p ∨ a = Reg.CAM_PORT_BAND_FMT p ∨ a = Reg.CAM_PORT_FULL_SIZE p ∨
      a = Reg.CAM_PORT_BAND_SIZE p → reg (packetSeen s p ts) a = reg s a := by
    intro a ha
    refine reg_packetSeen s p ts ?_
    simp only [Reg.CAM_PORT_FULL_FMT, Reg.CAM_PORT_BAND_FMT, Reg.CAM_PORT_FULL_SIZE, Reg.CAM_PORT_BAND_SIZE] at ha
    omega
  by_cases hk : kind = 0 <;> simp [streamOf, hk, hf]

theorem streamMatches_packetSeen (s : State) {p : Nat} (hp : p < 16) (ts kind vc dt : Nat) :
    streamMatches (packetSeen s p ts) p kind vc dt = streamMatches s p kind vc dt := by
  simp [streamMatches, streamOf_packetSeen s hp]

theorem addr40_regs (s : State) (lo hi : Nat) : addr40 s s.regs lo hi = reg s lo + reg s hi % 256 * 2 ^ 32 := rfl

theorem ringSlot_packetSeen (s : State) {p : Nat} (hp : p < 16) (ts kind : Nat) :
    ringSlot (packetSeen s p ts) p kind = ringSlot s p kind := by
  have lo : reg (packetSeen s p ts) (Reg.CAM_PORT_RING_LO p) = reg s (Reg.CAM_PORT_RING_LO p) :=
    reg_packetSeen s p ts (by simp only [Reg.CAM_PORT_RING_LO]; omega)
  have hi : reg (packetSeen s p ts) (Reg.CAM_PORT_RING_HI p) = reg s (Reg.CAM_PORT_RING_HI p) :=
    reg_packetSeen s p ts (by simp only [Reg.CAM_PORT_RING_HI]; omega)
  have slots (h l : Nat) : fld (packetSeen s p ts) (Reg.CAM_PORT_RING p) h l = fld s (Reg.CAM_PORT_RING p) h l :=
    congrArg (bits · h l) (reg_packetSeen s p ts (by simp only [Reg.CAM_PORT_RING]; omega))
  have base : addr40 (packetSeen s p ts) (packetSeen s p ts).regs (Reg.CAM_PORT_RING_LO p) (Reg.CAM_PORT_RING_HI p) =
      addr40 s s.regs (Reg.CAM_PORT_RING_LO p) (Reg.CAM_PORT_RING_HI p) := by
    rw [addr40_regs, addr40_regs, lo, hi]
  simp only [ringSlot, base, slots, streamOf_packetSeen s hp, camPort_packetSeen]

end Sys2Proof.Machine
end

section
/-! Proofs of O57, first part: frame ends, frames without packets and ports without frame ends. -/

namespace Sys2Proof.Machine

/-! ## The end of a frame -/

theorem markPublished_cam (s : State) (g : Frame) (m : Nat) : (markPublished s g m).cam = s.cam := by
  unfold markPublished
  split
  · split <;> simp
  · rfl

theorem markPublished_bitsKept (s : State) (g : Frame) (m : Nat) : BitsKept s (markPublished s g m) := by
  unfold markPublished
  split
  · split
    · exact unitWrite_bitsKept s _ _
    · exact .refl s
  · exact .refl s

/-- A frame that ends waits for its header as it is, but perhaps for PAIR_SKEW in its NOTE (R105); the ports stand. -/
theorem addEnded_ended (s : State) (f : Frame) : ∃ n, { f with note := n } ∈ (addEnded s f).cam.ended ∧
    (addEnded s f).cam.ports = s.cam.ports ∧ BitsKept s (addEnded s f) := by
  have pushed (l : List Frame) (n : Nat) : { f with note := n } ∈ (l ++ [{ f with note := n }]) := by simp
  unfold addEnded
  dsimp only
  split
  · split
    · exact ⟨f.note ||| 8, pushed _ _, rfl, fun _ _ h => h⟩
    · exact ⟨f.note, pushed _ _, rfl, fun _ _ h => h⟩
  · split
    · exact ⟨f.note ||| 8, pushed _ _, by dsimp only; rw [markPublished_cam], markPublished_bitsKept s _ 8⟩
    · exact ⟨f.note, pushed _ _, rfl, fun _ _ h => h⟩
  · exact ⟨f.note, pushed _ _, rfl, fun _ _ h => h⟩

/-- The frames of a port that a frame end on a virtual channel leaves. -/
def otherFrames (x : CamPort) (vc : Nat) : CamPort := { x with frames := x.frames.filter (fun g => g.vc != vc) }

/-- A frame with the timestamp and the tick of its end (R17). -/
def endedFrame (s : State) (f : Frame) : Frame := { f with feTs := tsNow s, tick := stampTick s }

/-- A frame has left its port and is counted, where it is bad. -/
def endCounted (s : State) (p : Nat) (f : Frame) : State :=
  let s1 := setPort s p (otherFrames (camPort s p) f.vc)
  if f.bad = 0 then s1 else camIrq (countFieldSat s1 (Reg.CAM_PORT_ERRCNT p) 15 0 1) 0

theorem closeFrame_of_kept (s : State) (p : Nat) {f : Frame} (hd : f.discarded = false) :
    closeFrame s p f = visEnd (addEnded (endCounted s p f) (endedFrame s f)) (endedFrame s f) :=
  if_neg (by simp [hd])

theorem endCounted_cam (s : State) (p : Nat) (f : Frame) :
    (endCounted s p f).cam = (setPort s p (otherFrames (camPort s p) f.vc)).cam := by
  unfold endCounted
  dsimp only
  split <;> rfl

theorem endCounted_events (s : State) (p : Nat) (f : Frame) (k : Nat)
    (h : (reg s (Reg.CAM_PORT_EVENTS p)).testBit k = true) : (reg (endCounted s p f) (Reg.CAM_PORT_EVENTS p)).testBit k = true := by
  have other : Reg.CAM_PORT_EVENTS p ≠ Reg.CAM_PORT_ERRCNT p := by
    simp only [Reg.CAM_PORT_EVENTS, Reg.CAM_PORT_ERRCNT]; omega
  unfold endCounted
  dsimp only
  split
  · exact h
  · refine event_bitsKept _ _ _ _ k ?_
    rw [countFieldSat, pokeF, reg_poke_ne _ _ _ _ other]
    exact h

/-- A frame that is not discarded leaves its port, is handed over with its timestamp and tick, and no event of the port is taken
back (R17, R94). -/
theorem closeFrame_ended (s : State) (p : Nat) {f : Frame} (hd : f.discarded = false) :
    (∃ n, { endedFrame s f with note := n } ∈ (closeFrame s p f).cam.ended) ∧
    camPort (closeFrame s p f) p = otherFrames (camPort s p) f.vc ∧
    ∀ k, (reg s (Reg.CAM_PORT_EVENTS p)).testBit k = true →
      (reg (closeFrame s p f) (Reg.CAM_PORT_EVENTS p)).testBit k = true := by
  obtain ⟨n, mem, ports, bits⟩ := addEnded_ended (endCounted s p f) (endedFrame s f)
  have vis := visEnd_vision (addEnded (endCounted s p f) (endedFrame s f)) (endedFrame s f)
  rw [closeFrame_of_kept s p hd]
  refine ⟨⟨n, by rw [vis.cam]; exact mem⟩, ?_, fun k hk => vis.2 _ k (bits _ k (endCounted_events s p f k hk))⟩
  have left := (congrArg Cam.ports vis.cam).trans (ports.trans (congrArg Cam.ports (endCounted_cam s p f)))
  rw [camPort_congr left, camPort_setPort_self]

/-! ## What the commands do on a port that receives -/

theorem exec_frameStart_eq (port : Fin 16) (at_ : BitVec 64) (vc : Fin 16) (dt : BitVec 6) (num : BitVec 16) (h : HeaderCheck) (s : State) :
    exec (.frameStart port at_ vc dt num h) s = execFrameStart port at_ vc dt num h s := rfl

theorem exec_longPacket_eq (port : Fin 16) (at_ : BitVec 64) (vc : Fin 16) (dt : BitVec 6) (h : HeaderCheck) (crcOk overflow : Bool)
    (data : List Byte) (s : State) :
    exec (.longPacket port at_ vc dt h crcOk overflow data) s = execLongPacket port at_ vc dt h crcOk overflow data s := rfl

theorem exec_frameEnd_eq (port : Fin 16) (at_ : BitVec 64) (vc : Fin 16) (h : HeaderCheck) (s : State) :
    exec (.frameEnd port at_ vc h) s = execFrameEnd port at_ vc h s := rfl

theorem exec_truncated_eq (port : Fin 16) (s : State) : exec (.truncated port) s = execTruncated port s := rfl

theorem exec_noSignal_eq (port : Fin 16) (s : State) : exec (.noSignal port) s = execNoSignal port s := rfl

theorem exec_frameStart {s : State} {port : Fin 16} (at_ : BitVec 64) (vc : Fin 16) (dt : BitVec 6) (num : BitVec 16)
    (hk : kickoff s = false) (hon : portOn s port.val = true) (ho : orderlyStop s = false) :
    exec (.frameStart port at_ vc dt num .good) s =
      .next (tolChanged (frameStart (packetSeen s port.val at_.toNat) port.val vc.val dt.toNat num.toNat)) := by
  simp [exec_frameStart_eq, execFrameStart, hk, hon, ho, headerChecked]

theorem exec_longPacket {s : State} {port : Fin 16} (at_ : BitVec 64) (vc : Fin 16) (dt : BitVec 6) (crcOk overflow : Bool)
    (data : List Byte) (hk : kickoff s = false) (hon : portOn s port.val = true) (ho : orderlyStop s = false) :
    exec (.longPacket port at_ vc dt .good crcOk overflow data) s =
      .next (longPacket (packetSeen s port.val at_.toNat) port.val vc.val dt.toNat crcOk overflow data) := by
  simp [exec_longPacket_eq, execLongPacket, hk, hon, ho, headerChecked]

theorem exec_frameEnd {s : State} {port : Fin 16} (at_ : BitVec 64) (vc : Fin 16)
    (hk : kickoff s = false) (hon : portOn s port.val = true) (ho : orderlyStop s = false) :
    exec (.frameEnd port at_ vc .good) s = .next (frameEnd (packetSeen s port.val at_.toNat) port.val vc.val) := by
  simp [exec_frameEnd_eq, execFrameEnd, hk, hon, ho, headerChecked]

/-! ## Frame ends -/

/-- The frame being received on a virtual channel of a port. -/
def currentFrame (s : State) (p vc : Nat) : Option Frame := (camPort s p).frames.find? (fun f => f.vc == vc)

theorem currentFrame_vc {s : State} {p vc : Nat} {f : Frame} (h : currentFrame s p vc = some f) : f.vc = vc := by
  simpa using List.find?_some h

theorem currentFrame_packetSeen (s : State) (p ts vc : Nat) : currentFrame (packetSeen s p ts) p vc = currentFrame s p vc := by
  simp [currentFrame]

/-- A frame end without its frame start is an event and nothing more (R89). -/
theorem frameEnd_unmatched {s : State} {p vc : Nat} (h : currentFrame s p vc = none) : frameEnd s p vc = portEvent s p 5 := by
  simp only [frameEnd]
  rw [show (camPort s p).frames.find? (fun f => f.vc == vc) = none from h]

theorem endSeen_camPort (s : State) (p : Nat) :
    camPort (endSeen s p) p = { camPort s p with lastEnd := stampTick s, noSignal := false } := camPort_setPort_self _ _ _

/-- A frame end of a whole frame hands it over as it is (R17, R92). -/
theorem frameEnd_whole {s : State} {p vc : Nat} {f : Frame} (h : currentFrame s p vc = some f) (hd : f.discarded = false)
    (hodd : f.odd = false) (hl : f.lines = f.height) : frameEnd s p vc = closeFrame (endSeen s p) p f := by
  simp only [frameEnd]
  rw [show (camPort s p).frames.find? (fun f => f.vc == vc) = some f from h]
  simp [hd, hodd, hl]

theorem currentFrame_otherFrames {t : State} {p vc : Nat} {x : CamPort} (h : camPort t p = otherFrames x vc) :
    currentFrame t p vc = none := by
  simp [currentFrame, h, otherFrames, List.find?_eq_none]

/-- The frame end of a whole frame on a port that receives (R17, R92). -/
theorem frameEnd_ended {s : State} {p vc : Nat} {f : Frame} (h : currentFrame s p vc = some f) (hd : f.discarded = false)
    (hodd : f.odd = false) (hl : f.lines = f.height) : ∃ g, currentFrame (frameEnd s p vc) p vc = none ∧ g ∈ (frameEnd s p vc).cam.ended ∧
      g.port = f.port ∧ g.seq = f.seq ∧ g.addr = f.addr ∧ g.bad = f.bad ∧ g.feTs = tsNow s ∧ g.tick = stampTick s ∧
      (camPort (frameEnd s p vc) p).lastEnd = stampTick s ∧ (camPort (frameEnd s p vc) p).noSignal = false := by
  obtain ⟨⟨n, mem⟩, port, -⟩ := closeFrame_ended (endSeen s p) p hd
  rw [currentFrame_vc h, endSeen_camPort] at port
  rw [frameEnd_whole h hd hodd hl]
  exact ⟨_, currentFrame_otherFrames port, mem, rfl, rfl, rfl, rfl, rfl, rfl, by rw [port]; rfl, by rw [port]; rfl⟩

/-- TRUNCATED finds no frame that has waited 8 ticks (R92). -/
theorem exec_truncated_of_recent {s : State} {port : Fin 16}
    (h : ∀ f, f ∈ (camPort s port.val).frames → tickNow s < f.lastPkt + 8) : exec (.truncated port) s = .next s := by
  have none_late : (camPort s port.val).frames.find? (fun f => decide (f.lastPkt + 8 ≤ tickNow s)) = none := by
    simpa [List.find?_eq_none] using h
  simp [exec_truncated_eq, execTruncated, none_late]

/-- The only frame of a port, without packets for 8 ticks, ends TRUNCATED (R92). -/
theorem truncateFrame_ended {s : State} {p : Nat} {f : Frame} (hx : (camPort s p).frames = [f]) (hd : f.discarded = false) :
    ∃ g, (camPort (truncateFrame s p f) p).frames = [] ∧ g ∈ (truncateFrame s p f).cam.ended ∧ g.seq = f.seq ∧ g.bad = f.bad ||| 4 ∧
      (reg (truncateFrame s p f) (Reg.CAM_PORT_EVENTS p)).testBit 3 = true := by
  have marked : truncateFrame s p f = closeFrame (portEvent s p 3) p { f with bad := f.bad ||| 4 } := by
    simp [truncateFrame, hd]
  obtain ⟨⟨n, mem⟩, port, events⟩ := closeFrame_ended (portEvent s p 3) p (f := { f with bad := f.bad ||| 4 }) hd
  rw [marked]
  refine ⟨_, ?_, mem, rfl, rfl, events 3 (testBit_portEvent_self s p (by decide))⟩
  rw [port]
  simp [otherFrames, hx]

theorem exec_truncated_of_late {s : State} {port : Fin 16} {f : Frame} (hx : (camPort s port.val).frames = [f])
    (hl : f.lastPkt + 8 ≤ tickNow s) : exec (.truncated port) s = .next (truncateFrame s port.val f) := by
  simp [exec_truncated_eq, execTruncated, hx, hl]

/-! ## NO_SIGNAL -/

theorem logEvent_bitsKept (s : State) (code block sev : Nat) (args : List Byte) : BitsKept s (logEvent s code block sev args) := by
  unfold logEvent
  dsimp only
  split
  · exact fun _ _ h => h
  · split
    · exact fun a k h => event_bitsKept _ _ _ a k h
    · exact fun _ _ h => h

/-- An event offered to the trouble log changes the registers and the log (R523–R525). -/
theorem logEvent_eq (s : State) (code block sev : Nat) (args : List Byte) : logEvent s code block sev args =
    { s with regs := (logEvent s code block sev args).regs, log := (logEvent s code block sev args).log } := by
  unfold logEvent
  dsimp only
  split
  · rfl
  · split <;> rfl

/-- A port with its NO_SIGNAL mark, before the log has it. -/
def noSignalMarked (s : State) (p : Nat) : State :=
  camIrq (portEvent (setPort s p { camPort s p with noSignal := true }) p 8) 1

/-- A port that receives, without a frame end for 240 ticks, reports NO_SIGNAL (R92). -/
theorem exec_noSignal_of_late {s : State} {port : Fin 16} (hon : portOn s port.val = true)
    (hx : (camPort s port.val).noSignal = false) (hl : (camPort s port.val).lastEnd + 240 ≤ tickNow s) :
    ∃ t, exec (.noSignal port) s = .next t ∧ camPort t port.val = { camPort s port.val with noSignal := true } ∧
      (reg t (Reg.CAM_PORT_EVENTS port.val)).testBit 8 = true ∧ t = { s with cam := t.cam, regs := t.regs, log := t.log } := by
  refine ⟨logEvent (noSignalMarked s port.val) 0x30 3 WARN (arg1 port.val), ?_, ?_, ?_, ?_⟩
  · simp [exec_noSignal_eq, execNoSignal, hon, hx, hl, noSignalMarked]
  · rw [camPort_congr (congrArg Cam.ports (logEvent_cam _ _ _ _ _ false))]
    simp [noSignalMarked]
  · exact logEvent_bitsKept _ _ _ _ _ _ _ (event_bitsKept _ _ _ _ _ (testBit_portEvent_self _ _ (by decide)))
  · rw [logEvent_eq]
    rfl

theorem exec_noSignal_of_recent {s : State} {port : Fin 16} (h : tickNow s < (camPort s port.val).lastEnd + 240) :
    exec (.noSignal port) s = .next s := by
  simp [exec_noSignal_eq, execNoSignal, Nat.not_le.mpr h]

end Sys2Proof.Machine
end

section
/-! Proofs of O57, second part: frame starts. -/

namespace Sys2Proof.Machine

/-! ## Frame starts -/

/-- A frame start of a port without FSYNC begins the next schedule slot (R99). -/
def slotBegun (s : State) (p : Nat) : State :=
  if fsyncOn s p then s else setPort s p { camPort s p with slot := nextSlot s p, late := [] }

/-- What a frame start finds is the state but for the port's schedule slot. -/
theorem slotBegun_eq (s : State) (p : Nat) : slotBegun s p = { s with cam := (slotBegun s p).cam } ∧
    camPort (slotBegun s p) p = { camPort s p with slot := (camPort (slotBegun s p) p).slot, late := (camPort (slotBegun s p) p).late } := by
  unfold slotBegun
  split
  · exact ⟨rfl, rfl⟩
  · exact ⟨rfl, by rw [camPort_setPort_self]⟩

/-- The fields of the frame that a frame start of the FULL stream begins (R91, R93, R94). -/
structure FullStart (s : State) (p vc dt num : Nat) (f : Frame) : Prop where
  vc : f.vc = vc
  dt : f.dt = dt
  kind : f.kind = 0
  num : f.num = num
  width : f.width = (streamOf s p 0).2.2.1
  height : f.height = (streamOf s p 0).2.2.2
  addr : f.addr = ringSlot s p 0
  seq : f.seq = (camPort s p).count % 2 ^ 32
  fsTs : f.fsTs = tsNow s
  lines : f.lines = 0
  kept : f.discarded = false

theorem streamMatches_slotBegun (s : State) (p kind vc dt : Nat) :
    streamMatches (slotBegun s p) p kind vc dt = streamMatches s p kind vc dt := by
  rw [(slotBegun_eq s p).1]; rfl

theorem frameStart_of_unmatched {s : State} {p vc : Nat} (h : currentFrame s p vc = none) {dt : Nat} (num : Nat)
    (hb : streamMatches s p 1 vc dt = false) (ha : streamMatches s p 0 vc dt = false) :
    frameStart s p vc dt num = portEvent (setPort (slotBegun s p) p { camPort (slotBegun s p) p with
      frames := (camPort (slotBegun s p) p).frames ++
        [{ port := p, vc := vc, dt := dt, discarded := true, lastPkt := tickNow (slotBegun s p) }] }) p 5 := by
  have find : (camPort s p).frames.find? (fun f => f.vc == vc) = none := h
  have begun : (if fsyncOn s p then s else setPort s p { camPort s p with slot := nextSlot s p, late := [] }) = slotBegun s p := rfl
  unfold frameStart
  rw [find]
  dsimp only
  rw [begun, streamMatches_slotBegun, streamMatches_slotBegun, ha, hb]
  rfl

/-- A port's record is replaced as a frame starts, with SCHEDULE_SLIP where the slot expects the other kind (R99). -/
def frameEntered (s : State) (p : Nat) (x : CamPort) (slip : Bool) : State :=
  if slip then camIrq (portEvent (setPort s p x) p 6) 2 else setPort s p x

@[simp] theorem camPort_frameEntered (s : State) (p : Nat) (x : CamPort) (slip : Bool) : camPort (frameEntered s p x slip) p = x := by
  cases slip <;> simp [frameEntered]

@[simp] theorem frameEntered_clk (s : State) (p : Nat) (x : CamPort) (slip : Bool) : (frameEntered s p x slip).clk = s.clk := by
  cases slip <;> rfl

theorem frameStart_of_full {s : State} {p vc : Nat} (h : currentFrame s p vc = none) {dt : Nat} (num : Nat)
    (hb : streamMatches s p 1 vc dt = false) (ha : streamMatches s p 0 vc dt = true) : ∃ f x slip,
    frameStart s p vc dt num = visStart (frameEntered (slotBegun s p) p x slip) f ∧
      x.frames = (camPort (slotBegun s p) p).frames ++ [f] ∧ x.count = (camPort (slotBegun s p) p).count + 1 ∧
      FullStart (slotBegun s p) p vc dt num f := by
  have find : (camPort s p).frames.find? (fun f => f.vc == vc) = none := h
  have begun : (if fsyncOn s p then s else setPort s p { camPort s p with slot := nextSlot s p, late := [] }) = slotBegun s p := rfl
  unfold frameStart
  rw [find]
  dsimp only
  rw [begun, streamMatches_slotBegun, streamMatches_slotBegun, ha, hb]
  refine ⟨_, _, _, rfl, rfl, rfl, ?_⟩
  constructor <;> rfl

theorem FullStart.of_slotBegun {s : State} {p vc dt num : Nat} {f : Frame} (h : FullStart (slotBegun s p) p vc dt num f) :
    FullStart s p vc dt num f := by
  obtain ⟨state, port⟩ := slotBegun_eq s p
  have stream : streamOf (slotBegun s p) p = streamOf s p := by rw [state]; rfl
  have base : addr40 (slotBegun s p) (slotBegun s p).regs (Reg.CAM_PORT_RING_LO p) (Reg.CAM_PORT_RING_HI p) =
      addr40 s s.regs (Reg.CAM_PORT_RING_LO p) (Reg.CAM_PORT_RING_HI p) := by rw [state]; rfl
  have field (a hi lo : Nat) : fld (slotBegun s p) a hi lo = fld s a hi lo := by rw [state]; rfl
  have full : (camPort (slotBegun s p) p).fullN = (camPort s p).fullN := by rw [port]
  have slot : ringSlot (slotBegun s p) p 0 = ringSlot s p 0 := by
    simp only [ringSlot, stream, base, field, full, if_true]
  have count : (camPort (slotBegun s p) p).count = (camPort s p).count := by rw [port]
  have now : tsNow (slotBegun s p) = tsNow s := by rw [state]; rfl
  exact { h with width := stream ▸ h.width, height := stream ▸ h.height, addr := slot ▸ h.addr, seq := count ▸ h.seq,
                 fsTs := now ▸ h.fsTs }

/-- A frame start that matches the FULL stream alone takes its next capture slot (R91, R93). -/
theorem frameStart_full {s : State} {p vc : Nat} (h : currentFrame s p vc = none) {dt : Nat} (num : Nat)
    (hb : streamMatches s p 1 vc dt = false) (ha : streamMatches s p 0 vc dt = true) : ∃ f, FullStart s p vc dt num f ∧
      (camPort (frameStart s p vc dt num) p).frames = (camPort s p).frames ++ [f] ∧
      (camPort (frameStart s p vc dt num) p).count = (camPort s p).count + 1 ∧ (frameStart s p vc dt num).clk = s.clk := by
  obtain ⟨f, x, slip, start, frames, count, full⟩ := frameStart_of_full h num hb ha
  obtain ⟨state, port⟩ := slotBegun_eq s p
  have vis := visStart_vision (frameEntered (slotBegun s p) p x slip) f
  have entered : camPort (frameStart s p vc dt num) p = x := by
    rw [start, camPort_congr (congrArg Cam.ports vis.cam), camPort_frameEntered]
  have clock : (slotBegun s p).clk = s.clk := by rw [state]
  refine ⟨f, full.of_slotBegun, ?_, ?_, ?_⟩
  · rw [entered, frames, port]
  · rw [entered, count, port]
  · rw [start, vis.clk, frameEntered_clk, clock]

/-- A frame start that matches no stream is discarded and reported (R91). -/
theorem frameStart_unmatched {s : State} {p vc : Nat} (h : currentFrame s p vc = none) {dt : Nat} (num : Nat)
    (hb : streamMatches s p 1 vc dt = false) (ha : streamMatches s p 0 vc dt = false) : ∃ f,
      (camPort (frameStart s p vc dt num) p).frames = (camPort s p).frames ++ [f] ∧ f.vc = vc ∧ f.discarded = true ∧
      (reg (frameStart s p vc dt num) (Reg.CAM_PORT_EVENTS p)).testBit 5 = true ∧
      (camPort (frameStart s p vc dt num) p).count = (camPort s p).count := by
  obtain ⟨-, port⟩ := slotBegun_eq s p
  rw [frameStart_of_unmatched h num hb ha]
  refine ⟨_, by rw [camPort_portEvent, camPort_setPort_self, port], rfl, rfl, testBit_portEvent_self _ p (by decide), ?_⟩
  rw [camPort_portEvent, camPort_setPort_self, port]

end Sys2Proof.Machine
end

section
/-! Proofs of O57, third part: the lines of a frame, and the statement itself. -/

namespace Sys2Proof.Machine

/-! ## A unit's write that is allowed -/

theorem rangeOk_congr {s t : State} (hf : t.fab = s.fab) (hs : t.sec = s.sec) (hm : t.mem.trained = s.mem.trained)
    (a n : Nat) (wr : Bool) : rangeOk t a n wr = rangeOk s a n wr := by
  simp only [rangeOk, bankOwner, ddrPresent, hf, hs, hm]

theorem nLines_congr {s t : State} (hf : t.fab = s.fab) : nLines t = nLines s := by
  simp only [nLines, hf]

theorem entryOff_congr {s t : State} (hf : t.fab = s.fab) (k : Nat) : entryOff t k = entryOff s k := by
  rw [entryOff, nLines_congr hf, entryOff]

theorem byteFenced_congr {s t : State} (hf : t.fab = s.fab) (hr : t.frs = s.frs) (a : Nat) : byteFenced t a = byteFenced s a := by
  simp only [byteFenced, ringOffset, entryOff_congr hf, hf, hr]

theorem addrFenced_congr {s t : State} (hf : t.fab = s.fab) (hr : t.frs = s.frs) (a n : Nat) :
    addrFenced t a n = addrFenced s a n := by
  simp only [addrFenced, hr, nLines_congr hf, byteFenced_congr hf hr]

/-- `t` is `s` but for bytes of device memory and lines that lost their poison. -/
def BytesOnly (s t : State) : Prop := ∃ m, t = { s with mem := m } ∧ m.trained = s.mem.trained

theorem BytesOnly.refl (s : State) : BytesOnly s s := ⟨s.mem, rfl, rfl⟩

theorem BytesOnly.trans {s t u : State} (h : BytesOnly s t) (k : BytesOnly t u) : BytesOnly s u := by
  obtain ⟨m, rfl, hm⟩ := h
  obtain ⟨n, rfl, hn⟩ := k
  exact ⟨n, rfl, hn.trans hm⟩

theorem BytesOnly.reg {s t : State} (h : BytesOnly s t) (a : Nat) : reg t a = reg s a := by
  obtain ⟨m, rfl, -⟩ := h
  rfl

theorem BytesOnly.cam {s t : State} (h : BytesOnly s t) : t.cam = s.cam := by
  obtain ⟨m, rfl, -⟩ := h
  rfl

theorem BytesOnly.rangeOk {s t : State} (h : BytesOnly s t) (a n : Nat) (wr : Bool) : rangeOk t a n wr = rangeOk s a n wr := by
  obtain ⟨m, rfl, hm⟩ := h
  exact rangeOk_congr (s := s) (t := { s with mem := m }) rfl rfl hm a n wr

theorem BytesOnly.addrFenced {s t : State} (h : BytesOnly s t) (a n : Nat) : addrFenced t a n = addrFenced s a n := by
  obtain ⟨m, rfl, hm⟩ := h
  exact addrFenced_congr rfl rfl a n

/-- A write within Court and LPDDR6 that no fence meets stores its bytes and does nothing else (R322, R547). -/
theorem unitWrite_allowed {s : State} {a : Nat} {d : List Byte} (hr : rangeOk s a d.length true = true)
    (hf : addrFenced s a d.length = false) : BytesOnly s (unitWrite s a d) ∧
      ∀ q, devByte (unitWrite s a d) q = if a ≤ q ∧ q < a + d.length then (d[q - a]?).getD 0 else devByte s q := by
  have plain : unitWrite s a d = if d.isEmpty then s else devWrite s a d := by
    simp [unitWrite, hr, jobWrite, hf]
  rw [plain]
  cases d with
  | nil => exact ⟨.refl s, fun q => (if_neg (by simp only [List.length_nil]; omega)).symm⟩
  | cons b r => exact ⟨⟨_, rfl, rfl⟩, devByte_devWrite s a (b :: r)⟩

/-! ## A line is stored -/

/-- The address of the next line of a frame in a slot (R90, R93). -/
def lineAddr (a : Nat) (f : Frame) : Nat := a + 0x80 + f.lines * lineStride f.dt f.width

/-- The slot at `a` and the next line of the frame in it may be written, `n` bytes of it. -/
def LineAllowed (s : State) (a n : Nat) (f : Frame) : Prop :=
  rangeOk s a 4 true = true ∧ rangeOk s (lineAddr a f) n true = true ∧
  addrFenced s a 4 = false ∧ addrFenced s (lineAddr a f) n = false

/-- The slot is marked rewritten before its first line (R94). -/
def slotMarked (s : State) (a : Nat) (f : Frame) : State := if f.lines = 0 then unitWrite s a (leBytes 4 0xFFFFFFFF) else s

theorem slotMarked_allowed {s : State} {a : Nat} (f : Frame) (hr : rangeOk s a 4 true = true) (hf : addrFenced s a 4 = false) :
    BytesOnly s (slotMarked s a f) ∧
      ∀ q, devByte (slotMarked s a f) q = if f.lines = 0 ∧ a ≤ q ∧ q < a + 4 then 0xFF else devByte s q := by
  unfold slotMarked
  split
  next h0 =>
    obtain ⟨only, bytes⟩ := unitWrite_allowed (d := leBytes 4 0xFFFFFFFF) hr hf
    have four : (leBytes 4 0xFFFFFFFF).length = 4 := by decide
    refine ⟨only, fun q => (bytes q).trans ?_⟩
    rw [four]
    by_cases hq : a ≤ q ∧ q < a + 4
    · have ones : ∀ i, i < 4 → ((leBytes 4 0xFFFFFFFF)[i]?).getD 0 = 0xFF := by decide
      rw [if_pos hq, if_pos ⟨h0, hq⟩]
      exact ones (q - a) (by omega)
    · rw [if_neg hq, if_neg (fun h => hq h.2)]
  next h0 => exact ⟨.refl s, fun q => by rw [if_neg (fun h => h0 h.1)]⟩

theorem storeLine_eq {s : State} {a : Nat} {f : Frame} (ha : f.addr = some a) (d : List Byte) :
    ∃ n, storeLine s f d = { unitWrite (slotMarked s a f) (lineAddr a f) (d.take (lineBytes f.dt f.width)) with
      cam := { s.cam with bytes := n } } := by
  refine ⟨s.cam.bytes + (d.take (lineBytes f.dt f.width)).length + b2n (f.lines = 0) * 4, ?_⟩
  have marked : (slotMarked s a f).cam = s.cam := by
    unfold slotMarked
    split <;> simp
  simp only [storeLine, ha]
  have cam : (unitWrite (slotMarked s a f) (lineAddr a f) (d.take (lineBytes f.dt f.width))).cam = s.cam := by
    rw [unitWrite_cam, marked]
  rw [← cam]
  rfl

/-- A line of a slot that may be written: its bytes lie at its place, the first one marks the slot, and no register and no other
byte changes (R90, R93, R94). -/
theorem storeLine_allowed {s : State} {a : Nat} {f : Frame} (ha : f.addr = some a) {d : List Byte}
    (h : LineAllowed s a (min (lineBytes f.dt f.width) d.length) f) :
    (storeLine s f d).cam.ports = s.cam.ports ∧ (∀ r, reg (storeLine s f d) r = reg s r) ∧
    ∀ q, devByte (storeLine s f d) q =
      if lineAddr a f ≤ q ∧ q < lineAddr a f + min (lineBytes f.dt f.width) d.length then (d[q - lineAddr a f]?).getD 0
      else if f.lines = 0 ∧ a ≤ q ∧ q < a + 4 then 0xFF else devByte s q := by
  obtain ⟨hr, hro, hf, hfo⟩ := h
  obtain ⟨only, mark⟩ := slotMarked_allowed f hr hf
  have len : (d.take (lineBytes f.dt f.width)).length = min (lineBytes f.dt f.width) d.length := List.length_take
  obtain ⟨line, bytes⟩ := unitWrite_allowed (s := slotMarked s a f) (a := lineAddr a f) (d := d.take (lineBytes f.dt f.width))
    (by rw [len, only.rangeOk, hro]) (by rw [len, only.addrFenced, hfo])
  obtain ⟨n, store⟩ := storeLine_eq (s := s) ha d
  rw [store]
  refine ⟨rfl, fun r => (line.reg r).trans (only.reg r), fun q => (bytes q).trans ?_⟩
  rw [len, mark]
  by_cases hq : lineAddr a f ≤ q ∧ q < lineAddr a f + min (lineBytes f.dt f.width) d.length
  · rw [if_pos hq, if_pos hq, List.getElem?_take_of_lt (by omega)]
  · rw [if_neg hq, if_neg hq]

theorem storeLine_canonical {s : State} {a : Nat} {f : Frame} (ha : f.addr = some a) (d : List Byte)
    (h : Mem.wf memDefault s.mem.bytes = true) : Mem.wf memDefault (storeLine s f d).mem.bytes = true := by
  obtain ⟨n, store⟩ := storeLine_eq (s := s) ha d
  rw [store]
  refine unitWrite_wf _ _ _ ?_
  unfold slotMarked
  split
  · exact unitWrite_wf s _ _ h
  · exact h

/-! ## A long packet of a frame -/

/-- The frames of a virtual channel are replaced by one. -/
def framePut (s : State) (p vc : Nat) (g : Frame) : State :=
  setPort s p { camPort s p with frames := (camPort s p).frames.map (fun h => if h.vc = vc then g else h) }

theorem find?_map_replaced {vc : Nat} {f g : Frame} (hg : g.vc = vc) : ∀ l : List Frame, l.find? (fun h => h.vc == vc) = some f →
    (l.map (fun h => if h.vc = vc then g else h)).find? (fun h => h.vc == vc) = some g
  | [], h => by simp at h
  | x :: r, h => by
    by_cases hx : x.vc = vc
    · simp [hx, hg]
    · have rest : r.find? (fun h => h.vc == vc) = some f := by simpa [hx] using h
      simpa [hx] using find?_map_replaced hg r rest

theorem currentFrame_framePut {s : State} {p vc : Nat} {f g : Frame} (h : currentFrame s p vc = some f) (hg : g.vc = vc) :
    currentFrame (framePut s p vc g) p vc = some g := by
  simp only [currentFrame, framePut, camPort_setPort_self]
  exact find?_map_replaced hg _ h

theorem currentFrame_congr {s t : State} (h : t.cam.ports = s.cam.ports) (p vc : Nat) : currentFrame t p vc = currentFrame s p vc := by
  rw [currentFrame, camPort_congr h, currentFrame]

/-- A line of the frame's own type, within its height: the CRC is judged and the line is stored (R89, R90). -/
theorem longPacket_line {s : State} {p vc dt : Nat} {f : Frame} (h : currentFrame s p vc = some f) (hd : f.discarded = false)
    (ho : f.overflow = false) (ht : f.dt = dt) (hl : f.lines < f.height) (crcOk : Bool) (d : List Byte) :
    longPacket s p vc dt crcOk false d = framePut (storeLine (if crcOk then s else portEvent s p 2) f d) p vc
      { f with lastPkt := tickNow s, bad := if crcOk then f.bad else f.bad ||| 2, lines := f.lines + 1,
               odd := f.odd || d.length != lineBytes f.dt f.width } := by
  have find : (camPort s p).frames.find? (fun f => f.vc == vc) = some f := h
  unfold longPacket
  dsimp only
  rw [find]
  cases crcOk <;> simp [hd, ho, ht, hl, framePut]

theorem devRead_eq {s : State} (h : Mem.wf memDefault s.mem.bytes = true) (a n : Nat) :
    devRead s a n = (List.range n).map (fun i => devByte s (a + i)) := Mem.read_eq a n h

/-- A line with a good CRC: it lies in the slot, the slot is marked before the first line, and the frame is not marked
(R90, R93, R94). -/
theorem longPacket_stored {s : State} {p vc dt a : Nat} {f : Frame} (h : currentFrame s p vc = some f) (hd : f.discarded = false)
    (ho : f.overflow = false) (ht : f.dt = dt) (ha : f.addr = some a) (hl : f.lines < f.height) {d : List Byte}
    (hw : LineAllowed s a (min (lineBytes f.dt f.width) d.length) f) (wf : Mem.wf memDefault s.mem.bytes = true) :
    (∃ g, currentFrame (longPacket s p vc dt true false d) p vc = some g ∧ g.lines = f.lines + 1 ∧ g.bad = f.bad) ∧
    (∀ i b, i < lineBytes f.dt f.width → d[i]? = some b → devByte (longPacket s p vc dt true false d) (lineAddr a f + i) = b) ∧
    (f.lines = 0 → devRead (longPacket s p vc dt true false d) a 4 = [0xFF, 0xFF, 0xFF, 0xFF]) ∧
    ∀ y, ¬ (lineAddr a f ≤ y ∧ y < lineAddr a f + min (lineBytes f.dt f.width) d.length) → ¬ (f.lines = 0 ∧ a ≤ y ∧ y < a + 4) →
      devByte (longPacket s p vc dt true false d) y = devByte s y := by
  obtain ⟨ports, -, bytes⟩ := storeLine_allowed ha hw
  have canonical := storeLine_canonical ha d wf
  rw [longPacket_line h hd ho ht hl true d, if_pos rfl, if_pos rfl]
  have hvc := currentFrame_vc h
  refine ⟨⟨_, currentFrame_framePut ((currentFrame_congr ports p vc).trans h) hvc, rfl, rfl⟩, ?_, ?_, ?_⟩
  · intro i b hi hb
    have hlen : i < d.length := (List.getElem?_eq_some_iff.mp hb).1
    refine (bytes _).trans ?_
    rw [if_pos (by omega), Nat.add_sub_cancel_left, hb]
    rfl
  · intro h0
    have ones : ∀ i ∈ List.range 4, devByte (storeLine s f d) (a + i) = 0xFF := by
      intro i hi
      have hi4 : i < 4 := List.mem_range.mp hi
      rw [bytes, if_neg (by unfold lineAddr; omega), if_pos (by omega)]
    exact (devRead_eq canonical a 4).trans (List.map_congr_left ones)
  · intro y hy hm
    exact (bytes y).trans (by rw [if_neg hy, if_neg hm])

/-- A line with a bad CRC marks its frame and is reported (R89). -/
theorem longPacket_badCrc {s : State} {p vc dt a : Nat} {f : Frame} (h : currentFrame s p vc = some f) (hd : f.discarded = false)
    (ho : f.overflow = false) (ht : f.dt = dt) (ha : f.addr = some a) (hl : f.lines < f.height) {d : List Byte}
    (hw : LineAllowed s a (min (lineBytes f.dt f.width) d.length) f) :
    (∃ g, currentFrame (longPacket s p vc dt false false d) p vc = some g ∧ g.bad = f.bad ||| 2) ∧
    (reg (longPacket s p vc dt false false d) (Reg.CAM_PORT_EVENTS p)).testBit 2 = true := by
  obtain ⟨ports, regs, -⟩ := storeLine_allowed (s := portEvent s p 2) ha hw
  rw [longPacket_line h hd ho ht hl false d, if_neg (by decide), if_neg (by decide)]
  have hvc := currentFrame_vc h
  refine ⟨⟨_, currentFrame_framePut ((currentFrame_congr ports p vc).trans h) hvc, rfl⟩, ?_⟩
  rw [framePut, reg_setPort, regs]
  exact testBit_portEvent_self s p (by decide)

/-! ## After the packet has been seen -/

theorem packetSeen_mem (s : State) (p ts : Nat) : (packetSeen s p ts).mem = s.mem := by
  rw [(packetSeen_time s p ts).1]

theorem LineAllowed.after_packetSeen {s : State} {a n : Nat} {f : Frame} (h : LineAllowed s a n f) (p ts : Nat) :
    LineAllowed (packetSeen s p ts) a n f := by
  have state := (packetSeen_time s p ts).1
  have range (b m : Nat) : rangeOk (packetSeen s p ts) b m true = rangeOk s b m true :=
    rangeOk_congr (by rw [state]) (by rw [state]) (by rw [state]) b m true
  have fence (b m : Nat) : addrFenced (packetSeen s p ts) b m = addrFenced s b m :=
    addrFenced_congr (by rw [state]) (by rw [state]) b m
  obtain ⟨hr, hro, hf, hfo⟩ := h
  exact ⟨(range _ _).trans hr, (range _ _).trans hro, (fence _ _).trans hf, (fence _ _).trans hfo⟩

theorem FullStart.of_packetSeen {s : State} {p vc dt num ts : Nat} {f : Frame} (hp : p < 16)
    (h : FullStart (packetSeen s p ts) p vc dt num f) :
    f.width = fld s (Reg.CAM_PORT_FULL_SIZE p) 13 0 ∧ f.height = fld s (Reg.CAM_PORT_FULL_SIZE p) 29 16 ∧
    f.addr = ringSlot s p 0 ∧ f.seq = (camPort s p).count % 2 ^ 32 ∧ f.fsTs = max s.clk.now (ts * tuStep) / tuStep := by
  have width := h.width
  have height := h.height
  have seq := h.seq
  rw [streamOf_packetSeen s hp] at width height
  rw [camPort_packetSeen] at seq
  exact ⟨width, height, h.addr.trans (ringSlot_packetSeen s hp ts 0), seq, h.fsTs.trans (tsNow_packetSeen s p ts)⟩

theorem camPort_tolChanged (s : State) (p : Nat) : camPort (tolChanged s) p = camPort s p :=
  camPort_congr (by rw [tolChanged_mem]) p

theorem reg_tolChanged (s : State) (a : Nat) : reg (tolChanged s) a = reg s a := by
  rw [tolChanged_mem]; rfl

/-- Settles O57: each clause from what the command does on a port that receives, after the packet has been seen. -/
theorem cameraFrames : Obligations.CameraFrames := by
  rintro s port vc at_ dt num p x frameOf start tick hk hon ho ⟨canonical, -, -⟩
  have hp : p < 16 := port.isLt
  have seen (h : Option Frame) (hf : frameOf s = h) : currentFrame (packetSeen s p at_.toNat) p vc.val = h :=
    (currentFrame_packetSeen s p at_.toNat vc.val).trans hf
  have matched (kind : Nat) (b : Bool) (h : streamMatches s p kind vc.val dt.toNat = b) :
      streamMatches (packetSeen s p at_.toNat) p kind vc.val dt.toNat = b :=
    (streamMatches_packetSeen s hp at_.toNat kind vc.val dt.toNat).trans h
  refine ⟨fun hf hb => ⟨fun ha => ?_, fun ha => ?_⟩, ?_, fun hf => ?_, ?_, exec_truncated_of_recent, ?_,
    exec_noSignal_of_late hon, exec_noSignal_of_recent⟩
  · obtain ⟨f, full, frames, count, clock⟩ := frameStart_full (seen _ hf) num.toNat (matched _ _ hb) (matched _ _ ha)
    obtain ⟨width, height, addr, seq, fsTs⟩ := full.of_packetSeen hp
    refine ⟨_, f, exec_frameStart at_ vc dt num hk hon ho, ?_, full.vc, full.dt, full.kind, full.num, width, height, addr, seq,
      fsTs, full.lines, full.kept, ?_, ?_⟩
    · rw [camPort_tolChanged, frames, camPort_packetSeen]
    · rw [camPort_tolChanged, count, camPort_packetSeen]
    · rw [tolChanged_mem, clock, packetSeen_clk]
  · obtain ⟨f, frames, hvc, hd, events, count⟩ := frameStart_unmatched (seen _ hf) num.toNat (matched _ _ hb) (matched _ _ ha)
    refine ⟨_, f, exec_frameStart at_ vc dt num hk hon ho, ?_, hvc, hd, ?_, ?_⟩
    · rw [camPort_tolChanged, frames, camPort_packetSeen]
    · rw [reg_tolChanged]; exact events
    · rw [camPort_tolChanged, count, camPort_packetSeen]
  · intro f a data hf hd hov hdt ha hl n o hr hro hfe hfo
    have allowed : LineAllowed (packetSeen s p at_.toNat) a (min n data.length) f :=
      LineAllowed.after_packetSeen ⟨hr, hro, hfe, hfo⟩ p at_.toNat
    have wf : Mem.wf memDefault (packetSeen s p at_.toNat).mem.bytes = true := by rw [packetSeen_mem]; exact canonical
    obtain ⟨⟨g, hg, lines, bad⟩, bytes, mark, rest⟩ := longPacket_stored (seen _ hf) hd hov hdt ha hl allowed wf
    obtain ⟨⟨g', hg', bad'⟩, events⟩ := longPacket_badCrc (seen _ hf) hd hov hdt ha hl allowed
    have memory (y : Nat) : devByte (packetSeen s p at_.toNat) y = devByte s y := by rw [devByte, packetSeen_mem]; rfl
    exact ⟨⟨_, g, exec_longPacket at_ vc dt true false data hk hon ho, hg, lines, bad, bytes, mark,
      fun y hy hm => (rest y hy hm).trans (memory y)⟩, _, g', exec_longPacket at_ vc dt false false data hk hon ho, hg', bad', events⟩
  · refine ⟨_, exec_frameEnd at_ vc hk hon ho, ?_⟩
    rw [frameEnd_unmatched (seen _ hf)]
    refine ⟨testBit_portEvent_self _ p (by decide), ?_, ?_, packetSeen_ended s p at_.toNat⟩
    · rw [camPort_portEvent, camPort_packetSeen]
    · rw [camPort_portEvent, camPort_packetSeen]
  · intro f hf hd _ hodd hl
    obtain ⟨g, gone, mem, hport, seq, addr, bad, feTs, htick, lastEnd, noSignal⟩ := frameEnd_ended (seen _ hf) hd hodd hl
    have stamp : stampTick (packetSeen s p at_.toNat) = tick := stampTick_packetSeen s p at_.toNat
    exact ⟨_, g, exec_frameEnd at_ vc hk hon ho, gone, mem, hport, seq, addr, bad, feTs.trans (tsNow_packetSeen s p at_.toNat),
      htick.trans stamp, lastEnd.trans stamp, noSignal⟩
  · intro f hx hl hd
    obtain ⟨g, frames, mem, seq, bad, events⟩ := truncateFrame_ended hx hd
    exact ⟨_, g, exec_truncated_of_late hx hl, frames, mem, seq, bad, events⟩

end Sys2Proof.Machine
end

section
/-! What O48 rests on: a step of the Vision sequencers that hands out units changes nothing of a run but the units it holds, and one that
gives TRACK_IDs nothing but the numbers of its corners and of its flow records. -/

namespace Sys2Proof.Machine

/-! ## Entries of lists and of maps of lists -/

theorem setNth_eq_set {α : Type} (v : α) : ∀ (l : List α) (k : Nat), setNth l k v = l.set k v
  | [], _ => rfl
  | _ :: _, 0 => rfl
  | a :: r, k + 1 => congrArg (a :: ·) (setNth_eq_set v r k)

theorem getElem?_setNth_self {α : Type} {l : List α} {k : Nat} {a : α} (h : l[k]? = some a) (v : α) :
    (setNth l k v)[k]? = some v := by
  rw [setNth_eq_set, List.getElem?_set_self (List.getElem?_eq_some_iff.1 h).1]

theorem getElem?_setNth_ne {α : Type} (l : List α) {k m : Nat} (h : m ≠ k) (v : α) : (setNth l k v)[m]? = l[m]? := by
  rw [setNth_eq_set, List.getElem?_set_ne h.symm]

/-- A change to every entry of every list of a map shows in what a read gives. -/
theorem Map.getD_map {α : Type} (f : α → α) (q : Nat) : ∀ m : Map (List α),
    Map.getD (m.map (fun e => (e.1, e.2.map f))) q [] = (Map.getD m q []).map f
  | [] => rfl
  | (k, l) :: r => by
    have ih := Map.getD_map f q r
    simp only [Map.getD, Map.get, List.map_cons] at ih ⊢
    split
    · rfl
    · split
      · rfl
      · exact ih

@[simp] theorem runsOf_setRuns_self (s : State) (n : Nat) (l : List VRun) : runsOf (setRuns s n l) n = l :=
  Map.getD_set_self s.vsn.runs n l []

theorem runsOf_setRuns_ne (s : State) {n m : Nat} (h : m ≠ n) (l : List VRun) : runsOf (setRuns s n l) m = runsOf s m :=
  Map.getD_set_ne s.vsn.runs n m l [] h

theorem runsOf_congr {s t : State} (h : t.vsn = s.vsn) (n : Nat) : runsOf t n = runsOf s n := by rw [runsOf, h, runsOf]

/-! ## Units -/

/-- A run without the units that it holds. -/
def VRun.bare (r : VRun) : VRun := { r with units := [], refUnits := [] }

theorem VRun.eq_of_bare {r q : VRun} (h : q.bare = r.bare) : q = { r with units := q.units, refUnits := q.refUnits } :=
  calc q = { q.bare with units := q.units, refUnits := q.refUnits } := rfl
    _ = { r.bare with units := q.units, refUnits := q.refUnits } := by rw [h]
    _ = { r with units := q.units, refUnits := q.refUnits } := rfl

/-- `t` is `s` but for the units that its runs hold. -/
def UnitsOnly (s t : State) : Prop :=
  t = { s with vsn := { s.vsn with runs := t.vsn.runs } } ∧ ∀ n, (runsOf t n).map VRun.bare = (runsOf s n).map VRun.bare

theorem UnitsOnly.refl (s : State) : UnitsOnly s s := ⟨rfl, fun _ => rfl⟩

theorem UnitsOnly.trans {s t u : State} (h : UnitsOnly s t) (k : UnitsOnly t u) : UnitsOnly s u :=
  ⟨by rw [k.1, h.1], fun n => (k.2 n).trans (h.2 n)⟩

/-- Every run of `s` stands in `t` at its place, with units of its own. -/
theorem UnitsOnly.run {s t : State} (h : UnitsOnly s t) {n k : Nat} {r : VRun} (hr : (runsOf s n)[k]? = some r) :
    ∃ r', (runsOf t n)[k]? = some r' ∧ r' = { r with units := r'.units, refUnits := r'.refUnits } := by
  have e : ((runsOf t n).map VRun.bare)[k]? = some r.bare := by rw [h.2 n, List.getElem?_map, hr]; rfl
  rw [List.getElem?_map, Option.map_eq_some_iff] at e
  obtain ⟨r', hr', hb⟩ := e
  exact ⟨r', hr', VRun.eq_of_bare hb⟩

theorem setRuns_units {s : State} {n k : Nat} {r q : VRun} (hr : (runsOf s n)[k]? = some r) (hq : q.bare = r.bare) :
    UnitsOnly s (setRuns s n (setNth (runsOf s n) k q)) := by
  refine ⟨rfl, fun m => ?_⟩
  by_cases hm : m = n
  · subst hm
    have hb : ((runsOf s m).map VRun.bare)[k]? = some r.bare := by rw [List.getElem?_map, hr]; rfl
    rw [runsOf_setRuns_self, setNth_eq_set, List.map_set, hq]
    obtain ⟨hk, e⟩ := List.getElem?_eq_some_iff.1 hb
    rw [← e, List.set_getElem_self]
  · rw [runsOf_setRuns_ne s hm]

theorem tryStart_units (s : State) (n k i : Nat) : UnitsOnly s (tryStart s n k i) := by
  unfold tryStart
  split
  · exact .refl s
  · next r hr =>
    split
    · exact .refl s
    · split
      · exact .refl s
      · split
        · exact setRuns_units hr rfl
        · split
          · exact setRuns_units hr rfl
          · exact .refl s

theorem tryRefine_units (s : State) (n k : Nat) : UnitsOnly s (tryRefine s n k) := by
  unfold tryRefine
  split
  · exact .refl s
  · next r hr =>
    split
    · exact .refl s
    · dsimp only
      split
      · exact setRuns_units hr rfl
      · exact .refl s

theorem foldl_units {α : Type} (f : State → α → State) (h : ∀ s a, UnitsOnly s (f s a)) (l : List α) (s : State) :
    UnitsOnly s (l.foldl f s) :=
  List.foldlRecOn l f (.refl s) fun _ hu a _ => hu.trans (h _ a)

theorem eachRun_units (s : State) (f : State → Nat → Nat → State) (h : ∀ s n k, UnitsOnly s (f s n k)) :
    UnitsOnly s (eachRun s f) := by
  refine foldl_units _ (fun s e => ?_) _ s
  exact foldl_units _ (fun s k => h s e.1 k) _ s

/-- Handing out units changes what units the runs hold, nothing else (R139). -/
theorem startUnits_units (s : State) : UnitsOnly s (startUnits s) := by
  refine (eachRun_units s _ (fun s n k => ?_)).trans (eachRun_units _ _ tryRefine_units)
  split
  · exact foldl_units _ (fun s i => tryStart_units s n k i) _ s
  · exact .refl s

/-! ## TRACK_IDs -/

/-- `q` is `r` but for the numbers of its corners and of its flow records. -/
def VRun.Renumbered (r q : VRun) : Prop := ∃ (g : Nat → Nat) (b : Bool), q = { r.renumber g with numbered := b }

theorem VRun.renumber_id (r : VRun) : r.renumber id = r := by simp [renumber]

theorem VRun.renumber_renumber (g h : Nat → Nat) (r : VRun) : (r.renumber g).renumber h = r.renumber (h ∘ g) := by
  simp [renumber, Function.comp_def]

theorem VRun.Renumbered.refl (r : VRun) : r.Renumbered r := ⟨id, r.numbered, by rw [VRun.renumber_id]⟩

theorem VRun.Renumbered.trans {r q p : VRun} (h : r.Renumbered q) (k : q.Renumbered p) : r.Renumbered p := by
  obtain ⟨g, b, rfl⟩ := h
  obtain ⟨g', b', rfl⟩ := k
  exact ⟨g' ∘ g, b', by rw [← VRun.renumber_renumber]; rfl⟩

/-- `t` is `s` but for TRACK_IDs and the Vision block's own record of them. -/
def NumbersOnly (s t : State) : Prop :=
  t = { s with vsn := t.vsn } ∧
  ∀ (n k : Nat) (r : VRun), (runsOf s n)[k]? = some r → ∃ q, (runsOf t n)[k]? = some q ∧ r.Renumbered q

theorem NumbersOnly.refl (s : State) : NumbersOnly s s := ⟨rfl, fun _ _ r hr => ⟨r, hr, .refl r⟩⟩

theorem NumbersOnly.trans {s t u : State} (h : NumbersOnly s t) (k : NumbersOnly t u) : NumbersOnly s u := by
  refine ⟨by rw [k.1, h.1], fun n i r hr => ?_⟩
  obtain ⟨q, hq, hrq⟩ := h.2 n i r hr
  obtain ⟨p, hp, hqp⟩ := k.2 n i q hq
  exact ⟨p, hp, hrq.trans hqp⟩

theorem setRuns_numbers {s : State} {n k : Nat} {r q : VRun} (hr : (runsOf s n)[k]? = some r) (hq : r.Renumbered q) :
    NumbersOnly s (setRuns s n (setNth (runsOf s n) k q)) := by
  refine ⟨rfl, fun m i p hp => ?_⟩
  by_cases hm : m = n
  · subst hm
    rw [runsOf_setRuns_self]
    by_cases hi : i = k
    · subst hi
      obtain rfl : r = p := Option.some.inj (hr.symm.trans hp)
      exact ⟨q, getElem?_setNth_self hr q, hq⟩
    · exact ⟨p, by rw [getElem?_setNth_ne _ hi, hp], .refl p⟩
  · exact ⟨p, by rw [runsOf_setRuns_ne s hm, hp], .refl p⟩

/-- Every run of every sequencer with its numbers replaced. -/
theorem renumberRuns_numbers (s : State) (g : Nat → Nat) (ids : Map Nat) (prev : Map (List VRun)) :
    NumbersOnly s { s with vsn := { s.vsn with
      ids := ids, runs := s.vsn.runs.map (fun e => (e.1, e.2.map (VRun.renumber g))), prev := prev } } := by
  refine ⟨rfl, fun n k r hr => ⟨r.renumber g, ?_, g, r.numbered, rfl⟩⟩
  rw [runsOf, Map.getD_map, ← runsOf, List.getElem?_map, hr]
  rfl

theorem numberRun_numbers (s : State) (n k : Nat) : NumbersOnly s (numberRun s n k) := by
  unfold numberRun
  split
  · exact .refl s
  · next r hr =>
    split
    · exact .refl s
    · have marked : r.Renumbered { r with numbered := true } := ⟨id, true, by rw [VRun.renumber_id]⟩
      exact (setRuns_numbers hr marked).trans (renumberRuns_numbers _ _ _ _)

/-- Numbering the runs changes TRACK_IDs only (R120). -/
theorem numberRuns_numbers (s : State) (n : Nat) : NumbersOnly s (numberRuns s n) := by
  refine List.foldlRecOn (motive := fun acc : State × List Nat => NumbersOnly s acc.1) _ _ (.refl s) fun acc hs k _ => ?_
  split
  · exact hs
  · split
    · exact hs
    · split
      · exact hs.trans (numberRun_numbers _ n k)
      · exact hs

/-- A sequencer whose runs are all numbered, or do no work, numbers none. -/
theorem numberRuns_of_numbered {s : State} {n : Nat} (h : ∀ q ∈ runsOf s n, q.numbered = true ∨ q.idle = true) :
    numberRuns s n = s := by
  refine congrArg Prod.fst (a₂ := (s, [])) (List.foldlRecOn (motive := (· = (s, []))) _ _ rfl fun acc e k _ => ?_)
  subst e
  split
  · rfl
  · next r hr =>
    have skip : (r.numbered || r.idle) = true := Bool.or_eq_true_iff.2 (h r (List.mem_of_getElem? hr))
    rw [if_pos skip]

end Sys2Proof.Machine
end

section
/-! Proofs of O48: issue and END, an instruction of the coarse pass that ends on its unit, and the refine work. -/

namespace Sys2Proof.Machine

/-! ## Issue and END -/

/-- Each of the eight issue commands issues where its operation is next (R151). -/
theorem exec_issue {seq : Fin 16} {i : Instr} {op : Nat}
    (h : (i, op) ∈ [((.pyr seq : Instr), 1), (.corner seq, 2), (.desc seq, 3), (.matchRow seq, 4), (.flow seq, 5), (.dvis seq, 6),
      (.stereo seq, 7), (.conf seq, 8)]) (s : State) : exec i s = .next (issueInsn s seq.val op) := by
  simp only [List.mem_cons, Prod.mk.injEq, List.not_mem_nil, or_false] at h
  rcases h with ⟨rfl, rfl⟩ | ⟨rfl, rfl⟩ | ⟨rfl, rfl⟩ | ⟨rfl, rfl⟩ | ⟨rfl, rfl⟩ | ⟨rfl, rfl⟩ | ⟨rfl, rfl⟩ | ⟨rfl, rfl⟩ <;> rfl

theorem issueInsn_of_no_open {s : State} {n : Nat} (op : Nat)
    (h : (runsOf s n).findIdx? (fun r => !r.idle && !r.closed) = none) : issueInsn s n op = s := by
  simp only [issueInsn, h]

theorem issueInsn_of_open {s : State} {n k : Nat} {r : VRun} {x : VInsn} (op : Nat)
    (h : (runsOf s n).findIdx? (fun r => !r.idle && !r.closed) = some k) (hr : (runsOf s n)[k]? = some r)
    (hx : r.insns[r.issued]? = some x) : issueInsn s n op =
      if x.op = op then startUnits (setRuns s n (setNth (runsOf s n) k { r with issued := r.issued + 1 })) else s := by
  simp only [issueInsn, h, hr, hx]

theorem playbookEnd_of_none {s : State} {n : Nat}
    (h : (runsOf s n).findIdx? (fun r => !r.idle && !r.closed && r.issued == r.insns.length) = none) : playbookEnd s n = s := by
  simp only [playbookEnd, h]

theorem playbookEnd_of_some {s : State} {n k : Nat} {r : VRun}
    (h : (runsOf s n).findIdx? (fun r => !r.idle && !r.closed && r.issued == r.insns.length) = some k)
    (hr : (runsOf s n)[k]? = some r) : playbookEnd s n = setRuns s n (setNth (runsOf s n) k { r with closed := true }) := by
  simp only [playbookEnd, h, hr]

/-! ## What handing out units leaves after one run is replaced -/

/-- One run replaced and units handed out: the state but for the runs, and the run but for its units. -/
theorem startUnits_setRuns {s : State} {n k : Nat} {r : VRun} (hr : (runsOf s n)[k]? = some r) (q : VRun) :
    startUnits (setRuns s n (setNth (runsOf s n) k q)) =
      { s with vsn := { s.vsn with runs := (startUnits (setRuns s n (setNth (runsOf s n) k q))).vsn.runs } } ∧
    ∃ r', (runsOf (startUnits (setRuns s n (setNth (runsOf s n) k q))) n)[k]? = some r' ∧
      r' = { q with units := r'.units, refUnits := r'.refUnits } := by
  have h := startUnits_units (setRuns s n (setNth (runsOf s n) k q))
  exact ⟨h.1, h.run (by rw [runsOf_setRuns_self, getElem?_setNth_self hr])⟩

/-! ## The coarse pass -/

/-- `q` is numbered as `r` is and carries every mark of its FLAGS. -/
def VRun.Marked (r q : VRun) : Prop := q.numbered = r.numbered ∧ ∃ m, q.flags = r.flags ||| m

theorem VRun.Marked.of_flags_eq {r q : VRun} (hn : q.numbered = r.numbered) (hf : q.flags = r.flags) : r.Marked q :=
  ⟨hn, 0, by rw [hf, Nat.or_zero]⟩

theorem VRun.Marked.flags_or (r : VRun) (m : Nat) : r.Marked { r with flags := r.flags ||| m } := ⟨rfl, m, rfl⟩

theorem VRun.Marked.ite {r a b : VRun} {c : Prop} [Decidable c] (ha : r.Marked a) (hb : r.Marked b) :
    r.Marked (if c then a else b) := by
  split <;> assumption

theorem VRun.idle_iff (r : VRun) : r.idle = true ↔ r.flags &&& (vfDiscarded ||| vfSkipped ||| vfNone) ≠ 0 := bne_iff_ne

/-- A run that is numbered or does no work stays so under more marks. -/
theorem VRun.Marked.skipped {r q : VRun} (h : r.Marked q) (hr : r.numbered = true ∨ r.idle = true) :
    q.numbered = true ∨ q.idle = true := by
  obtain ⟨hn, m, hf⟩ := h
  refine hr.imp (fun e => hn.trans e) (fun e => ?_)
  rw [VRun.idle_iff] at e ⊢
  rw [hf, Nat.and_or_distrib_right]
  exact fun z => e (Nat.or_eq_zero_iff.1 z).1

/-- An instruction's result adds marks to its run's FLAGS and takes none away (R144). -/
theorem execInsn_marked (s : State) (n : Nat) (r : VRun) (i : Nat) (x : VInsn) : r.Marked (execInsn s n r i x) := by
  have same : r.Marked r := .of_flags_eq rfl rfl
  unfold execInsn
  extract_lets absent
  have habsent : r.Marked absent := .flags_or r _
  refine .ite ?pyr (.ite ?corner (.ite ?desc (.ite ?matchRow (.ite ?flow (.ite ?dvis (.ite ?stereo (.ite ?conf same)))))))
  case pyr => exact .ite same habsent
  case corner =>
    cases imageOf s n r x.a with
    | none => exact habsent
    | some f => exact .of_flags_eq rfl rfl
  case desc => exact .of_flags_eq rfl rfl
  case matchRow => exact .ite (.flags_or r _) (.of_flags_eq rfl rfl)
  case flow =>
    cases prevImage s n r with
    | none => exact .flags_or r _
    | some p => exact .of_flags_eq rfl rfl
  case dvis =>
    cases prevOf s n r with
    | none => exact .of_flags_eq rfl rfl
    | some p => exact .of_flags_eq rfl rfl
  case stereo =>
    cases r.partner with
    | none => exact .flags_or r _
    | some p => exact .ite same (.of_flags_eq rfl rfl)
  case conf => exact .of_flags_eq rfl rfl

theorem markEvents_vsn (s : State) (n old new : Nat) : (markEvents s n old new).vsn = s.vsn := by
  unfold markEvents
  dsimp only
  split <;> split <;> rfl

theorem markEvents_mem (s : State) (n old new : Nat) : (markEvents s n old new).mem = s.mem := by
  unfold markEvents
  dsimp only
  split <;> split <;> rfl

theorem ite_protect_vsn (c : Prop) [Decidable c] (s : State) : (if c then protect s else s).vsn = s.vsn := by
  split <;> rfl

theorem ite_protect_mem (c : Prop) [Decidable c] (s : State) : (if c then protect s else s).mem = s.mem := by
  split <;> rfl

/-- A report of a read outside is one event and nothing else (R547). -/
theorem ite_protect_regs (c : Prop) [Decidable c] (s : State) :
    (if c then protect s else s) = { s with regs := (if c then protect s else s).regs } ∧
    (¬ c → (if c then protect s else s).regs = s.regs) ∧
    ∀ x, x ≠ Reg.MEM_EVENTS → reg (if c then protect s else s) x = reg s x := by
  split
  · next h => exact ⟨rfl, fun no => absurd h no, fun x hx => reg_event_ne s _ 5 x hx⟩
  · exact ⟨rfl, fun _ => rfl, fun _ _ => rfl⟩

theorem poisonIn_of_clean {s : State} (h : s.mem.poison = []) (f : Frame) : poisonIn s f = none := by
  unfold poisonIn
  split
  · rfl
  · simp [h]

theorem findSome?_poisonIn_of_clean {s : State} (h : s.mem.poison = []) (l : List Frame) : l.findSome? (poisonIn s) = none :=
  List.findSome?_eq_none_iff.2 fun f _ => poisonIn_of_clean h f

/-- The run after instruction `i` has left its unit. -/
def VRun.ended (r : VRun) (i : Nat) : VRun := { r with units := r.units.filter (fun u => u.1 != i), done := r.done ++ [i] }

theorem VRun.Marked.ended {r q : VRun} (h : r.Marked q) {i : Nat} : r.Marked (q.ended i) := h

/-- The instruction's result goes into its run, the runs are numbered, and units are handed out; events aside, nothing else. -/
theorem insnEnd_of_ready {s : State} {n i k : Nat} {r : VRun} {x : VInsn} (clean : s.mem.poison = [])
    (hk : (runsOf s n).findIdx? (fun r => r.units.any (fun u => u.1 == i)) = some k) (hr : (runsOf s n)[k]? = some r)
    (hx : r.insns[i]? = some x) (ready : inputsReady s n r i x = true) :
    let v := numberRuns (setRuns s n (setNth (runsOf s n) k ((execInsn s n r i x).ended i))) n
    ∃ u, insnEnd s n i = startUnits u ∧ u.vsn = v.vsn ∧ u.mem = v.mem := by
  simp only [insnEnd, hk, hr, hx, ready, findSome?_poisonIn_of_clean clean, Bool.not_true, Bool.false_eq_true, if_false]
  refine ⟨_, rfl, ?_, ?_⟩
  · rw [markEvents_vsn, ite_protect_vsn]
    rfl
  · rw [markEvents_mem, ite_protect_mem]
    rfl

/-- A run put in another's place keeps it under numbering, but for TRACK_IDs; where no run waits for its numbers, exactly (R120). -/
theorem numberRuns_setRuns {s : State} {n k : Nat} {r y : VRun} (hr : (runsOf s n)[k]? = some r) (marked : r.Marked y) :
    let v := numberRuns (setRuns s n (setNth (runsOf s n) k y)) n
    v.mem = s.mem ∧ ∃ q, (runsOf v n)[k]? = some q ∧ y.Renumbered q ∧
      ((∀ p ∈ runsOf s n, p.numbered = true ∨ p.idle = true) → q = y) := by
  intro v
  have placed : (runsOf (setRuns s n (setNth (runsOf s n) k y)) n)[k]? = some y := by
    rw [runsOf_setRuns_self, getElem?_setNth_self hr]
  have numbers := numberRuns_numbers (setRuns s n (setNth (runsOf s n) k y)) n
  obtain ⟨q, hq, renumbered⟩ := numbers.2 n k y placed
  refine ⟨(congrArg State.mem numbers.1 :), q, hq, renumbered, fun all => ?_⟩
  have still : ∀ p ∈ runsOf (setRuns s n (setNth (runsOf s n) k y)) n, p.numbered = true ∨ p.idle = true := by
    rw [runsOf_setRuns_self, setNth_eq_set]
    intro p hp
    rcases List.mem_or_eq_of_mem_set hp with old | rfl
    · exact all p old
    · exact marked.skipped (all r (List.mem_of_getElem? hr))
  rw [numberRuns_of_numbered still, placed] at hq
  exact (Option.some.inj hq).symm

/-- An instruction that ends leaves its result with its run, but for TRACK_IDs; where no run waits for its numbers, exactly (R120, R151). -/
theorem insnEnd_run {s : State} {n i k : Nat} {r : VRun} {x : VInsn} (clean : s.mem.poison = [])
    (hk : (runsOf s n).findIdx? (fun r => r.units.any (fun u => u.1 == i)) = some k) (hr : (runsOf s n)[k]? = some r)
    (hx : r.insns[i]? = some x) (ready : inputsReady s n r i x = true) :
    (insnEnd s n i).mem = s.mem ∧ ∃ r' q, (runsOf (insnEnd s n i) n)[k]? = some r' ∧
      r' = { q with units := r'.units, refUnits := r'.refUnits } ∧ ((execInsn s n r i x).ended i).Renumbered q ∧
      ((∀ p ∈ runsOf s n, p.numbered = true ∨ p.idle = true) → q = (execInsn s n r i x).ended i) := by
  obtain ⟨u, hu, vsn, mem⟩ := insnEnd_of_ready clean hk hr hx ready
  obtain ⟨kept, q, hq, renumbered, exactly⟩ := numberRuns_setRuns hr (execInsn_marked s n r i x).ended
  have units := startUnits_units u
  obtain ⟨r', hr', e⟩ := units.run (by rw [runsOf_congr vsn, hq])
  refine ⟨?_, r', q, by rw [hu, hr'], e, renumbered, exactly⟩
  rw [hu, units.1]
  exact mem.trans kept

/-! ## Refine work -/

theorem exec_refine_of_none {s : State} {seq : Fin 16} (h : (runsOf s seq.val).findIdx? VRun.refining = none) (insn : Byte) :
    exec (.visionInstructionEnd seq true insn) s = .next s := by
  show execVisionInstructionEnd seq true insn s = .next s
  simp only [execVisionInstructionEnd, h, if_true]

/-- No run refines where each one has nothing published, is finished, or has no tile chosen. -/
theorem findIdx?_refining_none {l : List VRun} (h : ∀ r ∈ l, r.published = none ∨ r.finished = true ∨ r.chosen = []) :
    l.findIdx? VRun.refining = none := by
  rw [List.findIdx?_eq_none_iff]
  intro r hr
  rcases h r hr with e | e | e <;> simp [VRun.refining, e]

theorem chosen_ne_nil_of_refining {r : VRun} (h : r.refining = true) : r.chosen ≠ [] := by
  intro e
  simp [VRun.refining, e] at h

theorem refineTile_chosen (s : State) (n : Nat) (r : VRun) : (refineTile s n r).chosen = r.chosen.tail := by
  unfold refineTile
  split
  · next e => rw [e]; rfl
  · next e => rw [e]; rfl

theorem refineTile_patches (s : State) (n : Nat) {r : VRun} (h : r.chosen ≠ []) :
    (refineTile s n r).patches.length = r.patches.length + 1 := by
  unfold refineTile
  split
  · next e => exact absurd e h
  · exact List.length_append

theorem refineEnd_of_poison {s : State} {n : Nat} {r : VRun} {line : Nat}
    (h : (refineImages s n r).findSome? (poisonIn s) = some line) :
    refineEnd s n r = (memUncorr s line 60, { r with chosen := r.chosen.drop 1, refUnits := [], spoiled := true }) := by
  simp only [refineEnd, h]

theorem refineEnd_of_no_poison {s : State} {n : Nat} {r : VRun} (h : (refineImages s n r).findSome? (poisonIn s) = none) :
    refineEnd s n r = (if (refineImages s n r).any (imageOutside s) then protect s else s, refineTile s n r) := by
  simp only [refineEnd, h]

theorem refineEnd_vsn (s : State) (n : Nat) (r : VRun) : (refineEnd s n r).1.vsn = s.vsn := by
  cases h : (refineImages s n r).findSome? (poisonIn s) with
  | some line => rw [refineEnd_of_poison h]; exact memUncorr_vsn s line 60
  | none => rw [refineEnd_of_no_poison h]; exact ite_protect_vsn _ s

theorem refineEnd_chosen (s : State) (n : Nat) (r : VRun) : (refineEnd s n r).2.chosen = r.chosen.tail := by
  cases h : (refineImages s n r).findSome? (poisonIn s) with
  | some line => rw [refineEnd_of_poison h]; exact List.drop_one
  | none => rw [refineEnd_of_no_poison h]; exact refineTile_chosen s n r

/-- The end of a tile on the units that it holds. -/
theorem exec_refine {s : State} {seq : Fin 16} {k : Nat} {r : VRun} (hk : (runsOf s seq.val).findIdx? VRun.refining = some k)
    (hr : (runsOf s seq.val)[k]? = some r) (held : r.refUnits.length = r.refineOps.length) (insn : Byte) :
    let u := refineEnd s seq.val r
    ∃ t r', exec (.visionInstructionEnd seq true insn) s = .next t ∧ (runsOf t seq.val)[k]? = some r' ∧
      r' = { u.2 with units := r'.units, refUnits := r'.refUnits } ∧
      t = { u.1 with vsn := { s.vsn with runs := t.vsn.runs } } := by
  intro u
  have vsn : u.1.vsn = s.vsn := refineEnd_vsn s seq.val r
  have hr' : (runsOf u.1 seq.val)[k]? = some r := by rw [runsOf_congr vsn, hr]
  obtain ⟨ht, q, hq, e⟩ := startUnits_setRuns hr' u.2
  refine ⟨_, q, ?_, hq, e, by rw [← vsn]; exact ht⟩
  show execVisionInstructionEnd seq true insn s = _
  simp only [execVisionInstructionEnd, hk, hr, held, if_true]
  rfl

/-- A tile whose images hold no poisoned line is refined: one patch more, and an event where an image lies outside (R136, R547). -/
theorem exec_refine_of_clean {s : State} {seq : Fin 16} {k : Nat} {r : VRun}
    (hk : (runsOf s seq.val).findIdx? VRun.refining = some k) (hr : (runsOf s seq.val)[k]? = some r)
    (held : r.refUnits.length = r.refineOps.length) (clean : s.mem.poison = []) (insn : Byte) :
    ∃ t r', exec (.visionInstructionEnd seq true insn) s = .next t ∧ (runsOf t seq.val)[k]? = some r' ∧
      r'.chosen = r.chosen.tail ∧ r'.patches.length = r.patches.length + 1 ∧
      t = { s with vsn := { s.vsn with runs := t.vsn.runs }, regs := t.regs } ∧
      ((refineImages s seq.val r).any (imageOutside s) = false → t.regs = s.regs) ∧
      ∀ x, x ≠ Reg.MEM_EVENTS → reg t x = reg s x := by
  obtain ⟨t, r', ht, hr', e, et⟩ := exec_refine hk hr held insn
  rw [refineEnd_of_no_poison (findSome?_poisonIn_of_clean clean _)] at e et
  obtain ⟨frame, quiet, other⟩ := ite_protect_regs ((refineImages s seq.val r).any (imageOutside s) = true) s
  have refines : r.refining = true := by simpa [hr] using List.of_findIdx?_eq_some hk
  refine ⟨t, r', ht, hr', ?_, ?_, ?_, fun inside => ?_, fun x hx => ?_⟩
  · rw [e]; exact refineTile_chosen s seq.val r
  · rw [e]; exact refineTile_patches s seq.val (chosen_ne_nil_of_refining refines)
  · rw [et, frame]
  · rw [et]; exact quiet (by rw [inside]; exact Bool.false_ne_true)
  · rw [et]; exact other x hx

/-- A tile with a poisoned line in its images is given up: no patch, and the run is marked (R405). -/
theorem exec_refine_of_poison {s : State} {seq : Fin 16} {k : Nat} {r : VRun}
    (hk : (runsOf s seq.val).findIdx? VRun.refining = some k) (hr : (runsOf s seq.val)[k]? = some r)
    (held : r.refUnits.length = r.refineOps.length)
    (poison : (refineImages s seq.val r).findSome? (poisonIn s) ≠ none) (insn : Byte) :
    ∃ t r', exec (.visionInstructionEnd seq true insn) s = .next t ∧ (runsOf t seq.val)[k]? = some r' ∧
      r'.chosen = r.chosen.tail ∧ r'.patches = r.patches ∧ r'.spoiled = true ∧ t.mem = s.mem := by
  obtain ⟨line, hline⟩ := Option.ne_none_iff_exists'.1 poison
  obtain ⟨t, r', ht, hr', e, et⟩ := exec_refine hk hr held insn
  rw [refineEnd_of_poison hline] at e et
  refine ⟨t, r', ht, hr', ?_, ?_, ?_, ?_⟩
  · rw [e]; exact List.drop_one
  · rw [e]
  · rw [e]
  · rw [et]; exact memUncorr_mem s line 60

/-- Settles O48: each clause from what the command does to one run, and from what handing out units and TRACK_IDs leaves of it. -/
theorem visionWork : Obligations.VisionWork := by
  intro s seq n openAt endAt
  refine ⟨fun i op hi => ⟨fun ho => ?_, fun k r x ho hr hx => ⟨fun hop => ?_, fun hop => ?_⟩⟩, fun he => ?_, fun k r he hr => ?_,
    fun insn k r x => ?_, fun h => exec_refine_of_none (findIdx?_refining_none h),
    fun k r hk hr held => ⟨fun insn => ?_, exec_refine_of_clean hk hr held, exec_refine_of_poison hk hr held⟩⟩
  · rw [exec_issue hi, issueInsn_of_no_open op ho]
  · rw [exec_issue hi, issueInsn_of_open op ho hr hx, if_neg hop]
  · obtain ⟨ht, r', hr', e⟩ := startUnits_setRuns hr { r with issued := r.issued + 1 }
    exact ⟨_, r', by rw [exec_issue hi, issueInsn_of_open op ho hr hx, if_pos hop], ht, hr', e⟩
  · exact congrArg Host.Outcome.next (playbookEnd_of_none he)
  · refine ⟨_, congrArg Host.Outcome.next (playbookEnd_of_some he hr), rfl, ?_, fun m hm => ?_, fun m hm => runsOf_setRuns_ne s hm _⟩
    · rw [runsOf_setRuns_self, getElem?_setNth_self hr]
    · rw [runsOf_setRuns_self, getElem?_setNth_ne _ hm]
  · intro i clean hk hr hx ready
    obtain ⟨mem, r', q, hr', e, ⟨g, b, renumbered⟩, unchanged⟩ := insnEnd_run clean hk hr hx ready
    subst renumbered
    refine ⟨insnEnd s n i, r', rfl, hr', ?_, ?_, mem⟩
    · rw [e]
      exact List.mem_append_right _ (List.mem_singleton_self i)
    · rw [e]
      exact ⟨rfl, rfl, rfl, rfl, rfl, rfl, ⟨g, rfl, rfl⟩,
        fun all => ⟨(congrArg VRun.sets (unchanged all) :), (congrArg VRun.flows (unchanged all) :)⟩⟩
  · obtain ⟨t, r', ht, hr', e, -⟩ := exec_refine hk hr held insn
    exact ⟨t, r', ht, hr', by rw [e]; exact refineEnd_chosen s n r⟩

end Sys2Proof.Machine
end

section
/-! Vector registers, accumulators and integers of the machine read as bit vectors: what O11, O13 and O20 rest on. -/

namespace Sys2Proof.Machine

/-! ## Integers and codes -/

/-- The low bits of a bit vector's number, read as two's complement, are its signed value. -/
theorem sgn_toNat {w : Nat} (x : BitVec (w + 1)) : sgn (w + 1) x.toNat = x.toInt := by
  have bound := x.isLt
  have half : 2 ^ (w + 1) = 2 * 2 ^ w := by rw [Nat.pow_succ, Nat.mul_comm]
  rw [sgn, BitVec.toInt_eq_toNat_cond, Nat.mod_eq_of_lt bound, Nat.add_sub_cancel]
  by_cases small : 2 * x.toNat < 2 ^ (w + 1)
  · rw [if_pos small, if_pos (by omega)]
  · rw [if_neg small, if_neg (by omega)]

/-- A signed field of a word. -/
theorem sgn_low_bits {w k : Nat} (x : BitVec w) : sgn (k + 1) x.toNat = (x.extractLsb' 0 (k + 1)).toInt := by
  rw [← sgn_toNat, BitVec.extractLsb'_toNat, Nat.shiftRight_zero]
  simp only [sgn, Nat.mod_mod]

/-- A field of a word. -/
theorem bits_toNat {w : Nat} (x : BitVec w) (hi lo : Nat) : bits x.toNat hi lo = (x.extractLsb' lo (hi + 1 - lo)).toNat := by
  rw [BitVec.extractLsb'_toNat, bits]

theorem ofNat_wrap (w : Nat) (i : Int) : BitVec.ofNat w (wrap w i) = BitVec.ofInt w i := by
  rw [wrap, ← BitVec.toNat_ofInt, BitVec.ofNat_toNat, BitVec.setWidth_eq]

theorem ofNat_mod_two_pow (w x : Nat) : BitVec.ofNat w (x % 2 ^ w) = BitVec.ofNat w x :=
  BitVec.eq_of_toNat_eq (by rw [BitVec.toNat_ofNat, BitVec.toNat_ofNat, Nat.mod_mod])

theorem clampI_eq_max_min {lo hi : Int} (h : lo ≤ hi) (i : Int) : clampI lo hi i = max lo (min hi i) := by
  unfold clampI
  split
  · omega
  · split <;> omega

/-- The exact sum clamped to INT32, and the mark of a sum that was clamped (R168). -/
theorem ofNat_wrap_satAdd32 (x : Int) : BitVec.ofNat 32 (wrap 32 (satAdd32 x 0).1) = clampBV 32 x := by
  rw [ofNat_wrap]
  simp only [satAdd32, Int.add_zero]
  rw [clampI_eq_max_min (by decide)]
  rfl

/-- A sum is marked exactly where clamping to INT32 changes it (R168). -/
theorem satAdd32_saturated (x : Int) : (satAdd32 x 0).2 = decide ((clampBV 32 x).toInt ≠ x) := by
  have value : (clampBV 32 x).toInt = max (-(2 ^ 31)) (min (2 ^ 31 - 1) x) := by
    rw [clampBV, BitVec.toInt_ofInt]
    exact Int.bmod_eq_of_le (by omega) (by omega)
  rw [value]
  simp only [satAdd32, Int.add_zero, ← Bool.decide_or, decide_eq_decide]
  omega

/-! ## Lanes of a register -/

/-- Bits `[k + w - 1 : k]` of a number lie within its low `n` bits. -/
theorem mod_shiftRight_mod {n k w : Nat} (h : k + w ≤ n) (x : Nat) : (x % 2 ^ n) >>> k % 2 ^ w = x >>> k % 2 ^ w := by
  refine Nat.eq_of_testBit_eq fun b => ?_
  simp only [Nat.testBit_mod_two_pow, Nat.testBit_shiftRight]
  by_cases hb : b < w
  · simp [hb, show k + b < n by omega]
  · simp [hb]

/-- Digit `i` of a number made of digits of `w` bits. -/
theorem foldr_digit (w : Nat) : ∀ (l : List Nat) (i : Nat),
    (l.foldr (fun x a => x % 2 ^ w + a * 2 ^ w) 0) >>> (w * i) % 2 ^ w = l.getD i 0 % 2 ^ w
  | [], i => by simp
  | x :: l, 0 => by simp
  | x :: l, i + 1 => by
    have drop : ∀ a, (x % 2 ^ w + a * 2 ^ w) / 2 ^ w = a := fun a => by
      rw [Nat.add_mul_div_right _ _ (Nat.two_pow_pos w), Nat.div_eq_of_lt (Nat.mod_lt _ (Nat.two_pow_pos w)), Nat.zero_add]
    rw [List.foldr_cons, Nat.mul_succ, Nat.add_comm _ w, Nat.shiftRight_add, Nat.shiftRight_eq_div_pow _ w, drop, foldr_digit w l i,
      List.getD_cons_succ]

/-- A lane of a register made of sixteen lanes of `w` bits. -/
theorem toNat_foldr_lane {w k : Nat} (fits : w * 16 ≤ k) (f : Nat → Nat) (n : Fin 16) :
    (BitVec.ofNat k ((laneIx.map f).foldr (fun x a => x % 2 ^ w + a * 2 ^ w) 0)).toNat >>> (w * n.val) % 2 ^ w = f n.val % 2 ^ w := by
  have within : w * n.val + w ≤ k := Nat.le_trans (Nat.mul_le_mul_left w n.isLt) fits
  rw [BitVec.toNat_ofNat, mod_shiftRight_mod within, foldr_digit]
  simp [laneIx, List.getD_eq_getElem?_getD]

/-- The lane of a vector register that the machine's operations read. -/
theorem Core.lane_eq (c : Core) (r : BitVec 5) (n : Fin 16) : c.lane r.toNat n.val = (c.vlane r n).toNat := by
  rw [Core.vlane, BitVec.toNat_ofNat, Core.lane, Nat.mod_mod]

/-- The lane of an accumulator that the machine's operations read. -/
theorem Core.acc_eq (c : Core) (r : BitVec 5) (n : Fin 16) : c.acc r.toNat n.val = (c.wlane r n).toNat := by
  rw [Core.wlane, BitVec.toNat_ofNat, Core.acc, Nat.mod_mod]

/-- What a lane reads after a write of a vector register. -/
theorem Core.vlane_vset (c : Core) (d r : BitVec 5) (f : Nat → Nat) (n : Fin 16) :
    (c.vset d.toNat (laneIx.map f)).vlane r n = if r = d then BitVec.ofNat 16 (f n.val) else c.vlane r n := by
  by_cases h : r = d
  · subst h
    have digit : (c.vset r.toNat (laneIx.map f)).lane r.toNat n.val = f n.val % 2 ^ 16 := by
      simp only [Core.lane, Core.vset, Map.getD_set_self]
      exact toNat_foldr_lane (w := 16) (by decide) f n
    rw [Core.vlane, digit, if_pos rfl, ofNat_mod_two_pow]
  · have apart : r.toNat ≠ d.toNat := fun e => h (BitVec.eq_of_toNat_eq e)
    simp only [Core.vlane, Core.lane, Core.vset, Map.getD_set_ne _ _ _ _ _ apart, if_neg h]

/-- Three bits of a field name an accumulator (R207). -/
theorem setWidth_three_inj {r d : BitVec 5} : r.setWidth 3 = d.setWidth 3 ↔ r.toNat % 8 = d.toNat % 8 := by
  rw [← BitVec.toNat_inj, BitVec.toNat_setWidth, BitVec.toNat_setWidth]

/-- What a lane reads after a write of an accumulator. -/
theorem Core.wlane_wset (c : Core) (d r : BitVec 5) (f : Nat → Nat) (n : Fin 16) :
    (c.wset d.toNat (laneIx.map f)).wlane r n =
      if r.setWidth 3 = d.setWidth 3 then BitVec.ofNat 32 (f n.val) else c.wlane r n := by
  simp only [setWidth_three_inj]
  by_cases h : r.toNat % 8 = d.toNat % 8
  · have digit : (c.wset d.toNat (laneIx.map f)).acc r.toNat n.val = f n.val % 2 ^ 32 := by
      simp only [Core.acc, Core.wset, h, Map.getD_set_self]
      exact toNat_foldr_lane (w := 32) (by decide) f n
    rw [Core.wlane, digit, if_pos h, ofNat_mod_two_pow]
  · simp only [Core.wlane, Core.acc, Core.wset, Map.getD_set_ne _ _ _ _ _ h, if_neg h]

/-- What a lane reads after a masked write of a vector register: a lane whose bit is 0 keeps its value (R552). -/
theorem Core.vlane_vmask (c : Core) (d r : BitVec 5) (m : BitVec 3) (f : Nat → Nat) (n : Fin 16) :
    (c.vmask d.toNat m.toNat f).vlane r n =
      if r = d then (if c.maskBit m n then BitVec.ofNat 16 (f n.val) else c.vlane d n) else c.vlane r n := by
  rw [Core.vmask, Core.vlane_vset, apply_ite (BitVec.ofNat 16)]
  rfl

/-- What a lane reads after a masked write of an accumulator. -/
theorem Core.wlane_wmask (c : Core) (d r : BitVec 5) (m : BitVec 3) (f : Nat → Nat) (n : Fin 16) :
    (c.wmask d.toNat m.toNat f).wlane r n =
      if r.setWidth 3 = d.setWidth 3 then (if c.maskBit m n then BitVec.ofNat 32 (f n.val) else c.wlane d n)
      else c.wlane r n := by
  rw [Core.wmask, Core.wlane_wset, apply_ite (BitVec.ofNat 32)]
  rfl

/-- The lanes that a test selects, counted by number or as lanes. -/
theorem length_filter_laneIx {p : Nat → Bool} {q : Fin 16 → Bool} (h : ∀ n : Fin 16, p n.val = q n) :
    (laneIx.filter p).length = ((List.finRange 16).filter q).length := by
  have lanes : laneIx = (List.finRange 16).map Fin.val := by decide
  rw [lanes, List.filter_map, List.length_map, show p ∘ Fin.val = q from funext h]

/-- The same of the lanes that one test selects among those of another. -/
theorem length_filter_filter_laneIx {p p' : Nat → Bool} {q q' : Fin 16 → Bool} (h : ∀ n : Fin 16, p n.val = q n)
    (h' : ∀ n : Fin 16, p' n.val = q' n) :
    ((laneIx.filter p).filter p').length = (((List.finRange 16).filter q).filter q').length := by
  rw [List.filter_filter, List.filter_filter]
  exact length_filter_laneIx fun n => by rw [h n, h' n]

/-- The set bits of a number that listed positions are joined to. -/
theorem testBit_foldl_positions (i : Nat) : ∀ (l : List Nat) (a : Nat),
    (l.foldl (fun a k => a ||| (2 ^ k)) a).testBit i = (a.testBit i || decide (i ∈ l))
  | [], a => by simp
  | k :: l, a => by
    rw [List.foldl_cons, testBit_foldl_positions i l, Nat.testBit_or, Nat.testBit_two_pow, Bool.or_assoc, ← Bool.decide_or]
    simp only [List.mem_cons, eq_comm]

/-- The bit of a lane among the lanes that a test selects. -/
theorem testBit_ofPositions_laneIx (p : Nat → Bool) (n : Fin 16) : (ofPositions (laneIx.filter p)).testBit n.val = p n.val := by
  simp [ofPositions, testBit_foldl_positions, laneIx]

/-! ## The effect of a core's instruction -/

/-- The whole effect of an instruction that issues, from what its meaning makes of the core that issues it. -/
theorem CoreResult.of_onCore {i : Instr} {s : State} {lcn : BitVec 12} {j : Job} {w : BitVec 32} {c : Core}
    {f : State → Nat → Job → Core → State} (issues : CoreIssues s lcn j) (means : exec i s = .next (onCore s lcn w f))
    (only : OnlyCore s lcn c (f (scoutIssue s j lcn.toNat w) lcn.toNat j (issuing s lcn))) : CoreResult i s lcn c :=
  ⟨_, by rw [means, onCore_issues issues], only⟩

end Sys2Proof.Machine
end

section
/-! Proofs of O11: a dot product of INT8 codes saturates its lane once and marks it. -/

namespace Sys2Proof.Machine

/-- The sum of a lane of wD and the two products of a lane of vA and of vB, `u` reading a code of vA (R209). -/
def dotValue (u : BitVec 8 → Int) (c : Core) (d a b : BitVec 5) (n : Fin 16) : Int :=
  (c.wlane d n).toInt
    + u ((c.vlane a n).extractLsb' 0 8) * ((c.vlane b n).extractLsb' 0 8).toInt
    + u ((c.vlane a n).extractLsb' 8 8) * ((c.vlane b n).extractLsb' 8 8).toInt

/-- What a dot product leaves of lanes and marks, `u` reading a code of vA (R168, R209, R552). -/
structure DotResult (u : BitVec 8 → Int) (c c1 : Core) (d a b : BitVec 5) (m : BitVec 3) : Prop where
  frame : c1 = { c with w := c1.w, wsat := c1.wsat, pc := c.pc + 1 }
  lanes : ∀ r n, c1.wlane r n = if r.setWidth 3 = d.setWidth 3 then
    (if c.maskBit m n then clampBV 32 (dotValue u c d a b n) else c.wlane d n) else c.wlane r n
  others : ∀ k, k ≠ (d.setWidth 3).toNat → Map.getD c1.wsat k 0 = Map.getD c.wsat k 0
  marks : ∀ n : Fin 16, (Map.getD c1.wsat (d.toNat % 8) 0).getLsbD n.val =
    ((Map.getD c.wsat (d.toNat % 8) 0).getLsbD n.val ||
      (c.maskBit m n && decide ((clampBV 32 (dotValue u c d a b n)).toInt ≠ dotValue u c d a b n)))

theorem DotResult.acc {i : Instr} {s : State} {lcn : BitVec 12} {u : BitVec 8 → Int} {c1 : Core} {d a b : BitVec 5} {m : BitVec 3}
    (result : CoreResult i s lcn c1) (h : DotResult u (issuing s lcn) c1 d a b m) :
    AccResult i s lcn d (fun n => if (issuing s lcn).maskBit m n then clampBV 32 (dotValue u (issuing s lcn) d a b n)
      else (issuing s lcn).wlane d n) :=
  ⟨c1, result, h.frame, h.lanes, h.others⟩

/-- The low code of a 16-bit lane. -/
theorem mod_256_eq (x : BitVec 16) : x.toNat % 256 = (x.extractLsb' 0 8).toNat := by simp

/-- The high code of a 16-bit lane. -/
theorem div_256_eq (x : BitVec 16) : x.toNat / 256 = (x.extractLsb' 8 8).toNat := by
  rw [BitVec.extractLsb'_toNat, Nat.shiftRight_eq_div_pow]
  exact (Nat.mod_eq_of_lt (by have := x.isLt; omega)).symm

/-- A dot product into the lanes of wD, `u` reading a code of vA. -/
theorem vecDot_result {i : Instr} {s : State} {lcn : BitVec 12} {j : Job} {w : BitVec 32} {ext : Nat → Int} {u : BitVec 8 → Int}
    {d a b : BitVec 5} {m : BitVec 3} (issues : CoreIssues s lcn j) (means : exec i s = vecDot w ext lcn d a b m s)
    (reads : ∀ x : BitVec 8, ext x.toNat = u x) :
    ∃ c1, CoreResult i s lcn c1 ∧ DotResult u (issuing s lcn) c1 d a b m := by
  have sum (n : Fin 16) : sgn 32 ((issuing s lcn).acc d.toNat n.val)
      + ext ((issuing s lcn).lane a.toNat n.val % 256) * sgn 8 ((issuing s lcn).lane b.toNat n.val % 256)
      + ext ((issuing s lcn).lane a.toNat n.val / 256) * sgn 8 ((issuing s lcn).lane b.toNat n.val / 256)
      = dotValue u (issuing s lcn) d a b n := by
    simp only [Core.acc_eq, Core.lane_eq, mod_256_eq, div_256_eq, reads, sgn_toNat, dotValue]
  have field : (d.setWidth 3).toNat = d.toNat % 8 := BitVec.toNat_setWidth 3 d
  refine ⟨_, .of_onCore issues means (coreNext_only s lcn j w 5 _), rfl, fun r n => ?_, fun k hk => ?_, fun n => ?_⟩
  · refine (Core.wlane_wmask (issuing s lcn) d r m _ n).trans ?_
    simp only [sum, ofNat_wrap_satAdd32]
  · exact Map.getD_set_ne _ _ _ _ _ (field ▸ hk)
  · simp only [Core.step, Map.getD_set_self, BitVec.getLsbD_ofNat, Nat.testBit_or, testBit_ofPositions_laneIx, sum,
      satAdd32_saturated, n.isLt, decide_true, Bool.true_and]
    rfl

theorem exec_vdot8_eq (lcn : BitVec 12) (d a b : BitVec 5) (m : BitVec 3) (s : State) :
    exec (.vdot8 lcn d a b m) s = vecDot (wordOf (.vdot8 lcn d a b m)) (fun x => sgn 8 x) lcn d a b m s := rfl

theorem exec_vdot8u_eq (lcn : BitVec 12) (d a b : BitVec 5) (m : BitVec 3) (s : State) :
    exec (.vdot8u lcn d a b m) s = vecDot (wordOf (.vdot8u lcn d a b m)) (fun x => (x : Int)) lcn d a b m s := rfl

/-- Settles O11: both dot products by the one rule, with INT8 and with UINT8 codes in vA. -/
theorem dotProductResult : Obligations.DotProductResult := by
  intro s lcn j d a b m issues
  obtain ⟨c1, result, signed⟩ := vecDot_result (u := BitVec.toInt) issues (exec_vdot8_eq lcn d a b m s) sgn_toNat
  obtain ⟨c2, result', unsigned⟩ :=
    vecDot_result (u := fun x => (x.toNat : Int)) issues (exec_vdot8u_eq lcn d a b m s) fun _ => rfl
  refine ⟨signed.acc result, ?_, c1, result, signed.marks⟩
  simpa only [dotValue] using unsigned.acc result'

end Sys2Proof.Machine
end

section
/-! Proofs of O13: VQNT to an integer format, lane by lane, and what it adds to the tile counters. -/

namespace Sys2Proof.Machine

/-! ## Requantisation of one value (R171) -/

theorem intRange_ordered (fmt : Nat) : (intRange fmt).1 ≤ (intRange fmt).2 := by
  unfold intRange
  repeat' split
  all_goals decide

theorem requantInt_code (v k z : Int) (fmt : Nat) (marked : Bool) : (requantInt v k z fmt marked).1 =
    max (intRange fmt).1 (min (intRange fmt).2 (rneShiftK v k + z)) :=
  clampI_eq_max_min (intRange_ordered fmt) _

theorem requantInt_saturated (v k z : Int) (fmt : Nat) (marked : Bool) : (requantInt v k z fmt marked).2.1 =
    (decide (rneShiftK v k + z < (intRange fmt).1 ∨ (intRange fmt).2 < rneShiftK v k + z) || marked) := by
  rw [Bool.decide_or]
  rfl

theorem requantInt_underflowed (v k z : Int) (fmt : Nat) (marked : Bool) : (requantInt v k z fmt marked).2.2 =
    decide (v ≠ 0 ∧ rneShiftK v k = 0) := by
  rw [Bool.decide_and]
  rfl

/-! ## VQNT -/

/-- The lane of wA that VQNT requantises under sB: code, saturated, underflowed (R552). -/
def requantLane (c : Core) (a b : BitVec 5) (i : Nat) : Int × Bool × Bool :=
  requantInt (sgn 32 (c.acc a.toNat i)) (sgn 8 (c.sget b.toNat)) (bits (c.sget b.toNat) 23 16) (bits (c.sget b.toNat) 27 24)
    ((Map.getD c.wsat (a.toNat % 8) 0).toNat.testBit i)

theorem requantLane_eq (c : Core) (a b : BitVec 5) (n : Fin 16) : requantLane c a b n.val =
    requantInt (c.wlane a n).toInt ((c.scalar b).extractLsb' 0 8).toInt ((c.scalar b).extractLsb' 16 8).toNat
      ((c.scalar b).extractLsb' 24 4).toNat ((Map.getD c.wsat (a.toNat % 8) 0).getLsbD n.val) := by
  rw [requantLane, Core.acc_eq, Core.sget_eq, sgn_toNat, sgn_low_bits, bits_toNat, bits_toNat]
  rfl

/-- The core after a VQNT to an integer format (R171, R209). -/
def requantised (c : Core) (d a b : BitVec 5) (m : BitVec 3) : Core :=
  let on := laneIx.filter (fun i => (c.mget m.toNat).testBit i)
  { c.vmask d.toNat m.toNat (fun i => wrap 16 (requantLane c a b i).1) with
    sat := c.sat + (on.filter (fun i => (requantLane c a b i).2.1)).length
    uflow := c.uflow + (on.filter (fun i => (requantLane c a b i).2.2)).length
    elems := c.elems + on.length
    pc := c.pc + 1 }

theorem vqnt_result {s : State} {lcn : BitVec 12} {j : Job} {d a b : BitVec 5} {m : BitVec 3} (issues : CoreIssues s lcn j)
    (integer : bits ((issuing s lcn).sget b.toNat) 27 24 ≤ 3) :
    CoreResult (.vqnt lcn d a b m) s lcn (requantised (issuing s lcn) d a b m) := by
  refine .of_onCore (w := wordOf (.vqnt lcn d a b m)) issues rfl ?_
  dsimp only
  rw [if_neg (Nat.not_lt.2 integer)]
  exact coreNext_only s lcn j _ 6 _

/-- Settles O13: the lanes from the masked write of vD, the counters from the lanes that the mask selects. -/
theorem requantiseResult : Obligations.RequantiseResult := by
  intro s lcn j d a b m issues c y z k fmt v r lo hi on integer
  have format : bits (c.sget b.toNat) 27 24 = fmt := by rw [Core.sget_eq, bits_toNat]
  have selected (n : Fin 16) : (c.mget m.toNat).testBit n.val = c.maskBit m n := rfl
  refine ⟨requantised c d a b m, vqnt_result issues (format ▸ integer), rfl, fun q n => ?_, ?_, ?_, ?_⟩
  · refine (Core.vlane_vmask c d q m _ n).trans ?_
    rw [ofNat_wrap, requantLane_eq, requantInt_code]
  · refine congrArg (c.sat + ·) (length_filter_filter_laneIx selected fun n => ?_)
    rw [requantLane_eq, requantInt_saturated]
  · refine congrArg (c.uflow + ·) (length_filter_filter_laneIx selected fun n => ?_)
    rw [requantLane_eq, requantInt_underflowed]
  · exact congrArg (c.elems + ·) (length_filter_laneIx selected)

end Sys2Proof.Machine
end

section
/-! Proofs of O20: GSHIFT of a tensor that is not guarded, and STST of a job without statistics. -/

namespace Sys2Proof.Machine

/-- Whether Range Guard acts on a tensor rests on the plan, the job's image and the reset values alone (R173). -/
theorem guarded_congr {s t : State} (fab : t.fab = s.fab) (grade : t.gradeX = s.gradeX) (pwr : t.pwr = s.pwr) (img : Map Word)
    (x : Tensor) : guarded t img x = guarded s img x := by
  simp only [guarded, ifld, ireg, imgW, fab, grade, pwr]

/-- The tag of the scout changes no plan and no guard. -/
theorem guarded_scoutIssue (s : State) (j : Job) (l : Nat) (w : BitVec 32) (img : Map Word) (x : Tensor) :
    guarded (scoutIssue s j l w) img x = guarded s img x := by
  rw [(scoutIssue_counts s j l w).1]
  exact guarded_congr rfl rfl rfl img x

theorem scoutIssue_fab (s : State) (j : Job) (l : Nat) (w : BitVec 32) : (scoutIssue s j l w).fab = s.fab := by
  rw [(scoutIssue_counts s j l w).1]

/-! ## GSHIFT -/

theorem coreGshift_of_unguarded {s : State} {j : Job} {c : Core} {x : Tensor} {a : Nat}
    (declared : s.fab.plan.tensors[c.sget a]? = some x) (unguarded : guarded s j.image x = false) (l d b : Nat) :
    coreGshift s l j c d a b = gshiftDone s l j c d (c.sget a) (c.sget b) x.shift 0 := by
  simp only [coreGshift, declared, unguarded, Bool.false_eq_true, if_false]

/-- The core after a GSHIFT that Range Guard does not act on: the declared shift, with no offset (R174). -/
def shiftTaken (c : Core) (d a b : BitVec 5) (shift : Int) : Core :=
  ({ c with wait := none, gtensor := some (c.sget a.toNat, c.sget b.toNat, shift, 0) }.sset d.toNat (wrap 32 (shift + 0))).step

theorem gshift_result {s : State} {lcn : BitVec 12} {j : Job} {a : BitVec 5} {x : Tensor} (issues : CoreIssues s lcn j)
    (declared : s.fab.plan.tensors[((issuing s lcn).scalar a).toNat]? = some x) (unguarded : guarded s j.image x = false)
    (d b : BitVec 5) : CoreResult (.gshift lcn d a b) s lcn (shiftTaken (issuing s lcn) d a b x.shift) := by
  refine .of_onCore (w := wordOf (.gshift lcn d a b)) issues rfl ?_
  rw [coreGshift_of_unguarded (x := x) (by rwa [scoutIssue_fab, Core.sget_eq]) (by rwa [guarded_scoutIssue])]
  exact coreNext_only s lcn j _ 0 _

theorem shiftTaken_frame (c : Core) (d a b : BitVec 5) (shift : Int) (ready : c.wait = none) :
    shiftTaken c d a b shift = { c with
      s := (shiftTaken c d a b shift).s
      gtensor := some ((c.scalar a).toNat, (c.scalar b).toNat, shift, 0)
      pc := c.pc + 1 } := by
  rw [← Core.sget_eq, ← Core.sget_eq, shiftTaken, Core.sset_frame, ← ready]
  rfl

theorem shiftTaken_scalar (c : Core) (d a b r : BitVec 5) (shift : Int) :
    (shiftTaken c d a b shift).scalar r = if r = d ∧ d ≠ 0 then BitVec.ofInt 32 shift else c.scalar r := by
  refine (Core.scalar_sset { c with wait := none, gtensor := some (c.sget a.toNat, c.sget b.toNat, shift, 0) } d r _).trans ?_
  rw [Int.add_zero, ofNat_wrap]
  rfl

/-! ## STST -/

/-- A core that GSHIFT keeps waiting. -/
def AwaitsShift (c : Core) : Prop := ∃ d tensor tile, c.wait = some (.gshift d tensor tile)

/-- A fold whose steps all leave a value as it is leaves it. -/
theorem foldl_of_fixed {α β : Type} {f : β → α → β} {b : β} (h : ∀ a, f b a = b) : ∀ l : List α, l.foldl f b = b
  | [] => rfl
  | a :: l => by rw [List.foldl_cons, h a, foldl_of_fixed h l]

/-- Where no GSHIFT waits, statistics that become final move no core. -/
theorem wakeGuards_of_none {s : State} (h : ∀ k, ¬ AwaitsShift (coreOf s k)) : wakeGuards s = s := by
  unfold wakeGuards
  refine foldl_of_fixed (fun p => ?_) _
  dsimp only
  split
  · next e _ => exact absurd ⟨_, _, _, e⟩ (h p.1)
  · rfl

theorem coreStst_of_unguarded {s : State} {j : Job} {c : Core} {x : Tensor} {g : Nat × Nat × Int × Int}
    (noStats : fieldLE j.bytes 0x28 8 = 0) (shifted : c.gtensor = some g) (declared : s.fab.plan.tensors[g.1]? = some x)
    (unguarded : guarded s j.image x = false) (l a : Nat) :
    coreStst s l j c a = wakeGuards (coreNext s j l 0 { c with sat := 0, uflow := 0, elems := 0 }) := by
  simp [coreStst, noStats, shifted, declared, unguarded]

/-- STST of a job without statistics, where no core waits for them. -/
theorem stst_result {s : State} {lcn : BitVec 12} {j : Job} {x : Tensor} {g : Nat × Nat × Int × Int} (issues : CoreIssues s lcn j)
    (noStats : fieldLE j.bytes 0x28 8 = 0) (shifted : (issuing s lcn).gtensor = some g)
    (declared : s.fab.plan.tensors[g.1]? = some x) (unguarded : guarded s j.image x = false)
    (still : ∀ k, ¬ AwaitsShift (coreOf s k)) (b : BitVec 5) : CoreResult (.stst lcn b) s lcn
      { issuing s lcn with sat := 0, uflow := 0, elems := 0, pc := (issuing s lcn).pc + 1 } := by
  refine .of_onCore (w := wordOf (.stst lcn b)) issues rfl ?_
  have only := coreNext_only s lcn j (wordOf (.stst lcn b)) 0 { issuing s lcn with sat := 0, uflow := 0, elems := 0 }
  rw [coreStst_of_unguarded (x := x) noStats shifted (by rwa [scoutIssue_fab]) (by rwa [guarded_scoutIssue]),
    wakeGuards_of_none fun k => ?_]
  · exact only
  · by_cases own : k = lcn.toNat
    · rw [own, only.self]
      rintro ⟨_, _, _, e⟩
      cases e
    · rw [only.other k own]
      exact still k

/-- Settles O20: GSHIFT by what it leaves of the core, STST by the last GSHIFT's tensor, which is the one of sA. -/
theorem shiftAndStatistics : Obligations.ShiftAndStatistics := by
  intro s lcn j d a b x issues c declared unguarded
  refine ⟨⟨shiftTaken c d a b x.shift, gshift_result issues declared unguarded d b,
    shiftTaken_frame c d a b x.shift rfl, fun r => shiftTaken_scalar c d a b r x.shift⟩, fun noStats same shifts still => ?_⟩
  obtain ⟨⟨k, tile, shift, offset⟩, shifted⟩ := Option.ne_none_iff_exists'.1 shifts
  have tensor : k = (c.scalar a).toNat := same k tile shift offset shifted
  refine stst_result issues noStats shifted (tensor ▸ declared) unguarded (fun k waits => ?_) b
  obtain ⟨_, _, _, e⟩ := waits
  have absent := still k
  rw [e] at absent
  exact absent

end Sys2Proof.Machine
end

section
/-! Proofs of O14: the lane reductions as a tree of four levels over the lanes of an accumulator. -/

namespace Sys2Proof.Machine

/-! ## The tree over the values of `2 ^ n` places (R184) -/

/-- The root of `n` levels over the values `g` of `2 ^ n` places: a level combines places `2 * i` and `2 * i + 1` into place `i`. -/
def pairTree (f : Nat → Nat → Nat) : Nat → (Nat → Nat) → Nat
  | 0, g => g 0
  | n + 1, g => pairTree f n (fun i => f (g (2 * i)) (g (2 * i + 1)))

/-- One level of the machine's tree over an even number of places. -/
theorem treeStep_map_range (f : Nat → Nat → Nat) : ∀ (n : Nat) (g : Nat → Nat),
    treeStep f ((List.range (2 * n)).map g) = (List.range n).map (fun i => f (g (2 * i)) (g (2 * i + 1)))
  | 0, _ => rfl
  | n + 1, g => by
    have places : (List.range (2 * (n + 1))).map g = g 0 :: g 1 :: (List.range (2 * n)).map (fun i => g (i + 2)) := by
      simp [Nat.mul_succ, List.range_succ_eq_map, Function.comp_def]
    rw [places, treeStep, treeStep_map_range f n, List.range_succ_eq_map, List.map_cons, List.map_map]
    rfl

/-- The machine's levels over `2 ^ n` places leave the root of the tree, alone. -/
theorem treeLevels_map_range (f : Nat → Nat → Nat) : ∀ (n : Nat) (g : Nat → Nat),
    treeLevels f n ((List.range (2 ^ n)).map g) = [pairTree f n g]
  | 0, _ => rfl
  | n + 1, g => by
    rw [treeLevels, Nat.pow_succ, Nat.mul_comm, treeStep_map_range, treeLevels_map_range f n, pairTree]

/-! ## The operations of the tree (R223, R224) -/

/-- A number of any width read as two's complement. -/
theorem sgn_eq_toInt (w x : Nat) : sgn (w + 1) x = (BitVec.ofNat (w + 1) x).toInt := by
  rw [← sgn_toNat, BitVec.toNat_ofNat, sgn, sgn, Nat.mod_mod]

theorem wrap_eq_toNat (w : Nat) (i : Int) : wrap w i = (BitVec.ofInt w i).toNat := by
  rw [wrap, BitVec.toNat_ofInt]

/-- The saturating sum of two codes. -/
theorem wrap_satAdd32 (x y : Int) : wrap 32 (satAdd32 x y).1 = (clampBV 32 (x + y)).toNat := by
  rw [wrap_eq_toNat, satAdd32, clampI_eq_max_min (by decide)]
  rfl

/-- An operation on the signed values of two INT32 codes, as a code. -/
def int32Op (f : Int → Int → Int) (x y : Nat) : Nat :=
  (BitVec.ofInt 32 (f (BitVec.ofNat 32 x).toInt (BitVec.ofNat 32 y).toInt)).toNat

theorem wrap_sgn (f : Int → Int → Int) (x y : Nat) : wrap 32 (f (sgn 32 x) (sgn 32 y)) = int32Op f x y := by
  rw [int32Op, sgn_eq_toInt, sgn_eq_toInt, wrap_eq_toNat]

theorem redWord_addF : redWord 0 = addF32 := rfl

theorem redWord_addI : redWord 1 =
    fun x y => (clampBV 32 ((BitVec.ofNat 32 x).toInt + (BitVec.ofNat 32 y).toInt)).toNat :=
  funext fun x => funext fun y => (wrap_satAdd32 (sgn 32 x) (sgn 32 y)).trans (by rw [sgn_eq_toInt, sgn_eq_toInt])

theorem redWord_maxF : redWord 2 = pickF32 true := rfl

theorem redWord_minF : redWord 3 = pickF32 false := rfl

theorem redWord_maxI : redWord 4 = int32Op max := funext fun x => funext (wrap_sgn max x)

theorem redWord_minI : redWord 5 = int32Op min := funext fun x => funext (wrap_sgn min x)

/-! ## The reductions -/

/-- A lane reduction writes the root of the four levels over the lanes of wA (R209). -/
theorem laneReduce_result {i : Instr} {s : State} {lcn : BitVec 12} {j : Job} {w : BitVec 32} {op : Nat} {f : Nat → Nat → Nat}
    {d a : BitVec 5} (issues : CoreIssues s lcn j) (means : exec i s = laneReduce w op lcn d a s) (combines : redWord op = f) :
    ScalarResult i s lcn d (BitVec.ofNat 32 (pairTree f 4 ((issuing s lcn).acc a.toNat))) := by
  have root : ((treeLevels (redWord op) 4 (laneIx.map ((issuing s lcn).acc a.toNat))).head?).getD 0 =
      pairTree f 4 ((issuing s lcn).acc a.toNat) := by
    rw [combines, laneIx, show 16 = 2 ^ 4 from rfl, treeLevels_map_range]
    rfl
  refine ⟨_, .of_onCore issues means (coreNext_only s lcn j w 8 _), ?_, fun r => ?_⟩
  · rw [Core.step, Core.sset_frame]
  · rw [root]
    exact Core.scalar_sset (issuing s lcn) d r _

/-- Settles O14: each reduction is the one tree, with the operation that its number names. -/
theorem laneReductionResult : Obligations.LaneReductionResult := by
  intro s lcn j d a issues c tree ints
  have root (f : Nat → Nat → Nat) : tree f = pairTree f 4 (c.acc a.toNat) := rfl
  simp only [root]
  refine ⟨?_, ?_, ?_, ?_, ?_, ?_⟩
  · exact laneReduce_result (w := wordOf (.raddf lcn d a)) issues rfl redWord_addF
  · exact laneReduce_result (w := wordOf (.raddi lcn d a)) issues rfl redWord_addI
  · exact laneReduce_result (w := wordOf (.rmaxf lcn d a)) issues rfl redWord_maxF
  · exact laneReduce_result (w := wordOf (.rminf lcn d a)) issues rfl redWord_minF
  · exact laneReduce_result (w := wordOf (.rmaxi lcn d a)) issues rfl redWord_maxI
  · exact laneReduce_result (w := wordOf (.rmini lcn d a)) issues rfl redWord_minI

end Sys2Proof.Machine
end

section
/-! Refutation of O47: a state in which the passing of time, before a synthesis job takes up its routes, turns the only route off. The
statement compares the job with the routes as they stood before, for route numbers of any size; the registers of routes 0 to 15, which are
all that a verified plan can name, are not among those that time writes. -/

namespace Sys2Proof.Machine

/-! ## A route whose register the passing of time writes -/

/-- Far above the 16 routes of the register tables, the ring register of a route is the error address of the memory system. -/
theorem synRtRing_5120 : Reg.SYN_RT_RING 5120 = Reg.MEM_ERR_ADDR_LO := rfl

/-- A route of huddle 0 with that number. -/
def aliasedRoute : Route :=
  { route := 5120, source := 0, playbook := 0, synHud := 0, segHud := 0, decHud := 0, synTick := 0, segTick := 0, decTick := 0,
    viewTile := 0, lead := 0, chanFirst := 0, chanCount := 0 }

/-- A leaf without a parent. -/
def rootLeaf : Huddle :=
  { id := 0, parent := 0xFF, composite := false, pinned := false, children := 0, split := 0, squadFirst := 0, squadCount := 1,
    engineMask := 0, tree := 0, tiling := 0, meSram := 0 }

/-- A frame of one line, whose picture row begins at address 0x1000; the line ends 1 time unit after its start. -/
def oneLineFrame : ViewFrame :=
  { view := 0, base := 0,
    img := [(Reg.VRS_PCLK, 1), (Reg.VRS_HTIME0, 0), (Reg.VRS_VTIME0, 1), (Reg.VRS_VTIME1, 0), (Reg.VRS_LINE, 1)],
    pic := some { slot := 0, addr := 0, seq := 0, start := 0, epoch := 0, crc := 0, width := 1, height := 1, stride := 0, format := 0,
                  static := false } }

/-- The route is enabled with one slot, a synthesis job of huddle 0 starts from instant 1 on, and the view head has yet to fetch its
line, which is poisoned. -/
def aliasedState : State :=
  { regs := [(Reg.SYN_RT_CTRL 5120, 1), (Reg.SYN_RT_RING 5120, 1)],
    mem := { poison := [0x1000] },
    fab := { plan := { huddles := [rootLeaf], routes := [aliasedRoute] }, inForce := true },
    sch := { hud := [(0, { romDue := [(2, 0, 0, 1)] })] },
    vrs := { frame := some oneLineFrame } }

/-! ## What the model does with it -/

theorem freeHuddle_aliased : FreeHuddle aliasedState (topOf aliasedState.fab.plan 0) :=
  ⟨by decide, by decide, rfl, rfl, rfl, rfl, rfl⟩

theorem synRoutes_aliased : synRoutes aliasedState 0 = [aliasedRoute] := by decide

/-- By instant 1 the view head has met the poisoned line, and its address stands in MEM_ERR_ADDR_LO: SLOTS reads 0 (R405). -/
theorem slots_aliased_advanced : fld (advance aliasedState 1) (Reg.SYN_RT_RING 5120) 4 0 = 0 := by
  rw [synRtRing_5120]
  decide +kernel

/-- SLOTS 0 counts as ENABLE 0: the route is off (R267). -/
theorem synRoutes_aliased_advanced : synRoutes (advance aliasedState 1) 0 = [] := by
  have routes : (advance aliasedState 1).fab.plan.routes = [aliasedRoute] := by rw [advance_fab]; rfl
  have off : fld (advance aliasedState 1) (Reg.SYN_RT_RING aliasedRoute.route) 4 0 = 0 := slots_aliased_advanced
  rw [synRoutes, routes]
  simp [off, sortBy]

/-- So the job starts without a route. -/
theorem rom_units_aliased :
    (hudOf (synthesisJob aliasedState 0) (topOf aliasedState.fab.plan 0)).rom.map (·.units) =
      [2048 * (synRoutes (advance aliasedState 1) 0).length] := by
  rw [synRoutes_aliased_advanced]
  decide +kernel

/-- Refutes O47: the ring register of route 5120 is MEM_ERR_ADDR_LO, and while time passes up to the job's instant a poisoned line of the
view head's picture puts its address there. The route is enabled before and off at the start, so the job has 0 units, not 2048. -/
theorem not_romJobsStart : ¬ Obligations.RomJobsStart := by
  unfold Obligations.RomJobsStart
  intro holds
  obtain ⟨synthesis, -⟩ := holds aliasedState 0 (2, 0, 0, 1) freeHuddle_aliased (by decide) (by decide)
  obtain ⟨t, j, ran, rom, -, -, -, -, -, -, units⟩ := synthesis (by decide)
  have result : t = synthesisJob aliasedState 0 := (Host.Outcome.next.inj ran).symm
  have started : [j.units] = [2048 * (synRoutes (advance aliasedState 1) 0).length] := by
    rw [← rom_units_aliased, ← result]
    exact (congrArg (List.map (·.units)) rom).symm
  have expected : j.units = 2048 * (synRoutes aliasedState 0).length := units
  rw [expected, synRoutes_aliased, synRoutes_aliased_advanced] at started
  exact absurd started (by decide)

end Sys2Proof.Machine
end
